-- ==== Sys2Proof/Word.lean ====
section
/-!
DEFINITION. The word types of the machine (R2, R15, R53, R288) and the association tables in which
the state keeps sparse registers. Widths are the spec's; nothing here computes an instruction.
-/
namespace Sys2Proof

/-- A byte of memory (R2). -/
abbrev Byte := BitVec 8
/-- A scalar register or an 8-byte word (R9, R133). -/
abbrev Word := BitVec 64
/-- A 64-byte row or a vector register (R15). -/
abbrev Row := BitVec 512
/-- One parcel of code (R53). -/
abbrev Parcel := BitVec 48

/-- A table from a register or unit number to its content. A number that is not listed holds the
default of the register file that the table stands for. -/
abbrev Tbl (α : Type) := List (Nat × α)

end Sys2Proof
end

