-- ==== Sys2Proof/Syntax.lean ====
section
/-!
DEFINITION. The syntax of every row of the table of operations and events: the slot instructions with
the operand fields of their slot-word format (R69, R70), and the events of the device with what the
outside world supplies to each.
-/
namespace Sys2Proof

/-- The fields common to every slot word (R69) and the slot position it stands in (R55). -/
structure Slot where
  /-- Slot position 0 to 23 (R55). -/
  pos : BitVec 5
  /-- Vote (R63). -/
  vt  : Bool
  /-- Predicate flag and its negation (R59). -/
  pf  : BitVec 4
  pn  : Bool
deriving DecidableEq, Repr

/-- SC.R, the register form (R70). -/
structure ScR where
  sd : BitVec 5
  sa : BitVec 5
  sb : BitVec 5
  sc : BitVec 5
  fx : BitVec 4
  cc : BitVec 4
  rn : BitVec 2
  xt : BitVec 4
deriving DecidableEq, Repr

/-- SC.I, the immediate form (R70). -/
structure ScI where
  sd  : BitVec 5
  sa  : BitVec 5
  imm : BitVec 24
deriving DecidableEq, Repr

/-- SC.L, the long immediate form (R70). -/
structure ScL where
  sd  : BitVec 5
  imm : BitVec 29
deriving DecidableEq, Repr

/-- BR.D, the displacement form (R70). -/
structure BrD where
  ln  : BitVec 5
  bf  : BitVec 4
  bn  : BitVec 1
  dsp : BitVec 24
deriving DecidableEq, Repr

/-- BR.R, the register form; `z` is the field written 00000000 (R70). -/
structure BrR where
  sd  : BitVec 5
  sa  : BitVec 5
  z   : BitVec 8
  imm : BitVec 16
deriving DecidableEq, Repr

/-- BR.L, the loop form (R70). -/
structure BrL where
  lv  : BitVec 1
  cnt : BitVec 13
  dsp : BitVec 20
deriving DecidableEq, Repr

/-- The SM format (R70). -/
structure SmF where
  sd  : BitVec 5
  sa  : BitVec 5
  sb  : BitVec 5
  off : BitVec 9
  arr : BitVec 4
  scp : BitVec 4
  ord : BitVec 2
deriving DecidableEq, Repr

/-- The VA format; `z` is bit 0, written 0 (R70). -/
structure VaF where
  vd  : BitVec 5
  va  : BitVec 6
  vb  : BitVec 6
  vc  : BitVec 6
  m   : BitVec 3
  ft  : BitVec 4
  rn  : BitVec 2
  sat : BitVec 1
  z   : BitVec 1
deriving DecidableEq, Repr

/-- The VL format (R70). -/
structure VlF where
  vd  : BitVec 5
  sa  : BitVec 5
  off : BitVec 12
  arr : BitVec 4
  m   : BitVec 3
  ord : BitVec 2
  xc  : BitVec 3
deriving DecidableEq, Repr

/-- The HQ format; `z` is the field written 00 (R70). -/
structure HqF where
  hn  : BitVec 4
  sa  : BitVec 5
  sx  : BitVec 5
  cnt : BitVec 13
  qn  : BitVec 3
  pk  : BitVec 2
  z   : BitVec 2
deriving DecidableEq, Repr

/-- The EN format of the engine commands (R70). -/
structure EnF where
  cf  : BitVec 4
  ce  : BitVec 1
  wl  : BitVec 2
  ac  : BitVec 1
  sa  : BitVec 5
  prm : BitVec 21
deriving DecidableEq, Repr

/-- A stream: the core, numbered grove [9:7] and core [6:0] as the agent ids of R160 and R317, and
which of its two streams (R29). -/
structure Sid where
  core : Nat
  side : Bool
deriving DecidableEq, Repr

/-- What the environment finds at the bundle that issues: in the three copies of a voted slot, by its position (R63),
in the storage of R389's fourth row, or in a row. -/
inductive Upset where
  /-- Two copies of the slot agree. -/
  | outvoted (slot : Nat)
  /-- No two copies agree. -/
  | noMajority (slot : Nat)
  /-- An error of a queue, a landing buffer, a snapshot register, a staging set, a latch or an accumulator that SECDED
  corrects, with its count of bits. -/
  | corrected (bits : Nat)
  /-- One that it detects only. -/
  | twoBit
  /-- An uncorrectable error arises in the storage of a row, where nothing has met it yet. -/
  | row (pa : Nat)
deriving DecidableEq, Repr

/-- A stream at whose program counter a bundle stands, and what the environment finds there (R63, R389). -/
structure Found where
  k   : Sid
  ups : List Upset
deriving DecidableEq, Repr

/-- What the broadcast of a publish reaches (R322). -/
inductive FlipAt where
  /-- The table of core `tab` by the publish of a core; 1024 stands for the other packages. -/
  | table (core tab : Nat)
  /-- The table of core `tab` by the publish of another package: the base of the region and its new side. -/
  | arrive (base : Nat) (side : Bool) (tab : Nat)
deriving DecidableEq, Repr

/-- What a scrubber's read finds (R390). -/
inductive ScrubRead where
  | clean
  /-- A correctable error, with its count of bits or symbols. -/
  | corrected (bits : Nat)
  | uncorrectable
deriving DecidableEq, Repr

/-- What a function, the boot ROM or its check of an image reports (R432, R435): that a function has come up; for an image and
for the first copy of the configuration record, whether its RSA and its SLH-DSA signature verify; the image's version; the same
of the second copy of the record. -/
structure Report where
  ok   : Bool
  rsa  : Bool := true
  slh  : Bool := true
  ver  : BitVec 32 := 0
  rsa1 : Bool := true
  slh1 : Bool := true
deriving DecidableEq, Repr

/-- Where a path of the fabric has failed (R401, R408): a port itself, or, beyond it, the way to some packages, as a switch
reports. -/
structure PathLoss where
  port   : Nat
  beyond : Option (List Nat) := none
deriving DecidableEq, Repr

/-- What a second-tier port trains as (R413), by the codes of kind 0x16 (R398). -/
inductive TierDevice where
  | supported
  | notFlit256
  | cxlCache
  | typeOneOrTwo
  | other
deriving DecidableEq, Repr

namespace Machine

/-- One entry of the locked translation table: its four words (R286), its region's index in the
context's shadow table (R415). -/
structure TEntry where
  w0  : Word
  w1  : Word
  w2  : Word
  w3  : Word
  reg : Nat
deriving DecidableEq, Repr

/-- An image the loader has placed for a context (R262, R265, R415): its block headers, its table
template by logical core, its registered producers by region (R256) with their node records. -/
structure Image where
  blocks : List (BitVec 48)
  tmpl   : Tbl (Tbl TEntry)
  prods  : List (Nat × BitVec 1024)
  /-- The bank format registers that the launch template carries (R48, R260). -/
  bfmt   : Tbl (BitVec 32)
deriving DecidableEq, Repr

/-- A majority request of a load (R256, R423): its region, members and cells, and where the loader places it: one stack for
each member, and the offset of the cells in each. -/
structure MajReq where
  reg    : Nat
  n      : Nat
  cells  : Nat
  places : List Nat
  off    : Nat
deriving DecidableEq, Repr

/-- What a section of a kernel's file holds (R415). -/
inductive SectKind where
  | code
  | data
  | rodata
deriving DecidableEq, Repr

/-- A section of a kernel's file as the loader places it (R415): its virtual base in granules of 64 KiB, its base in HBM, its
size in bytes, its region's index. -/
structure Sect where
  kind : SectKind
  va   : BitVec 32
  base : BitVec 56
  size : Nat
  reg  : Nat
deriving DecidableEq, Repr

/-- What `yild` loads for a context in one piece (R260, R262): an image built for a stand, whose templates hold the entries of the
translation requests, its majority requests, and the storage of the requests that are system-atomic (R421), each a base and a size;
the sections of the kernel's file, the virtual base of its argument rows in granules of 64 KiB and their region's index (R415);
whether the file is signed, and whether both its signatures verify (R259). -/
structure Load where
  ctx   : Nat
  stand : BitVec 128
  roots : Bool
  image : Image
  majs  : List MajReq
  atoms : List (Nat × Nat) := []
  secs  : List Sect := []
  argVa  : BitVec 32 := 0
  argReg : Nat := 0
  signed   : Bool := false
  verifies : Bool := true
deriving DecidableEq, Repr

end Machine

/-- What a host access reaches (R376): a register, an HDM range, or the loader, whose accesses place an image (R260). -/
inductive HostRegion where
  | bar0
  | hbm
  | sram
  | image (l : Machine.Load)
deriving DecidableEq, Repr

/-- A host access (R376): the region, the offset in it, and the data of a write or the length of a read. -/
structure HostAccess where
  write  : Bool
  region : HostRegion
  off   : Nat
  data  : List Byte
  len   : Nat
deriving DecidableEq, Repr

/-- A PCIe AtomicOp (R325). -/
inductive HostOp where
  | fetchAdd
  | swap
  | cas
deriving DecidableEq, Repr

/-- A host AtomicOp request: its size in bits, its device address, its operands and the context whose
error ring a rejection is logged to (R325). -/
structure HostAtomic where
  op   : HostOp
  size : Nat
  pa   : Nat
  a    : Word
  b    : Word
  ctx  : Nat
deriving DecidableEq, Repr

/-- What the canopy reads and decides in one period (R426): the means of the nine telemetry records
(R439), matrix-array readings in 1/8 degree by unit (grove x 64 + core), stack temperatures, currents
of bump groups in 10 mA by 32 x grove + group (R445), the policy's envelope codes by island and root
rail (R428) and budgets by island, the intervals of R429, and how many target registers and whether
the telemetry records miss the write window. -/
structure PeriodInput where
  means    : List (BitVec 384)
  temps    : List (Nat × Int)
  stackTemps : List (Nat × Nat)
  bumps    : List (Nat × Nat)
  envs     : List (Nat × Nat)
  buds     : List (Nat × Nat)
  stgi     : List (Nat × Nat)
  clri     : List (Nat × Nat)
  missed   : Nat
  teleMiss : Bool
deriving DecidableEq, Repr

/-- One step of the device: a slot instruction with the operand fields of its format (R70), or an
event of the table of operations and events. -/
inductive Instr where
  /-- A slot word with op 0x00 executes nothing and weighs 0, in any class. (R69) -/
  | nop (h : Slot)
  /-- Writes the wrapped 64-bit sum of two s registers to sd. (R87) -/
  | add (h : Slot) (o : ScR)
  /-- Writes the wrapped 64-bit difference of two s registers to sd. (R87) -/
  | sub (h : Slot) (o : ScR)
  /-- Writes s[sa] plus the sign-extended imm24, wrapped, to sd. (R87) -/
  | addi (h : Slot) (o : ScI)
  /-- Writes the bitwise AND of two s registers to sd. (R87) -/
  | and (h : Slot) (o : ScR)
  /-- Writes the bitwise OR of two s registers to sd. (R87) -/
  | or (h : Slot) (o : ScR)
  /-- Writes the bitwise XOR of two s registers to sd. (R87) -/
  | xor (h : Slot) (o : ScR)
  /-- Writes s[sa] AND the sign-extended imm24 to sd. (R87) -/
  | andi (h : Slot) (o : ScI)
  /-- Writes s[sa] OR the sign-extended imm24 to sd. (R87) -/
  | ori (h : Slot) (o : ScI)
  /-- Writes s[sa] XOR the sign-extended imm24 to sd. (R87) -/
  | xori (h : Slot) (o : ScI)
  /-- Shifts s[sa] left by s[sb][5:0]. (R87) -/
  | shl (h : Slot) (o : ScR)
  /-- Shifts s[sa] right logically by s[sb][5:0]. (R87) -/
  | shr (h : Slot) (o : ScR)
  /-- Shifts s[sa] right arithmetically by s[sb][5:0]. (R87) -/
  | sra (h : Slot) (o : ScR)
  /-- Shifts s[sa] left by imm24[5:0]. (R87) -/
  | shli (h : Slot) (o : ScI)
  /-- Shifts s[sa] right logically by imm24[5:0]. (R87) -/
  | shri (h : Slot) (o : ScI)
  /-- Shifts s[sa] right arithmetically by imm24[5:0]. (R87) -/
  | srai (h : Slot) (o : ScI)
  /-- Writes the low 64 bits of the product of two s registers. (R87) -/
  | mul (h : Slot) (o : ScR)
  /-- Writes bits [127:64] of the signed 128-bit product. (R87) -/
  | mulh (h : Slot) (o : ScR)
  /-- Writes bits [127:64] of the unsigned 128-bit product. (R87) -/
  | mulhz (h : Slot) (o : ScR)
  /-- Writes the signed quotient truncated toward zero, with fixed corner cases. (R88) -/
  | div (h : Slot) (o : ScR)
  /-- Writes the unsigned quotient, with fixed corner cases. (R88) -/
  | divz (h : Slot) (o : ScR)
  /-- Writes the signed remainder with the sign of the dividend. (R88) -/
  | rem (h : Slot) (o : ScR)
  /-- Writes the unsigned remainder. (R88) -/
  | remz (h : Slot) (o : ScR)
  /-- Writes the smaller of two s registers as S64. (R87) -/
  | min (h : Slot) (o : ScR)
  /-- Writes the larger of two s registers as S64. (R87) -/
  | max (h : Slot) (o : ScR)
  /-- Writes the smaller of two s registers as Z64. (R87) -/
  | minz (h : Slot) (o : ScR)
  /-- Writes the larger of two s registers as Z64. (R87) -/
  | maxz (h : Slot) (o : ScR)
  /-- Writes flag fx with the integer condition cc on two s registers at commit. (R89) -/
  | cmp (h : Slot) (o : ScR)
  /-- Writes flag fx with the condition cc on s[sa] and a sign-extended imm16. (R90) -/
  | cmpi (h : Slot) (o : ScI)
  /-- Selects s[sa] or s[sb] into sd by flag fx. (R91) -/
  | csel (h : Slot) (o : ScR)
  /-- Writes the sign-extended imm29 to sd. (R93) -/
  | movi (h : Slot) (o : ScL)
  /-- Shifts sd left by 29 and adds the unsigned imm29. (R93) -/
  | movs (h : Slot) (o : ScL)
  /-- Counts the leading zero bits of s[sa]. (R94) -/
  | clz (h : Slot) (o : ScR)
  /-- Counts the one bits of s[sa]. (R94) -/
  | popc (h : Slot) (o : ScR)
  /-- Extracts a bit field of s[sa], zero- or sign-extended. (R94) -/
  | bfx (h : Slot) (o : ScI)
  /-- Inserts the low bits of s[sa] into a bit field of sd. (R94) -/
  | bfi (h : Slot) (o : ScI)
  /-- Adds two scalar floats of type xt, rounded once. (R96) -/
  | fadd (h : Slot) (o : ScR)
  /-- Subtracts two scalar floats of type xt, rounded once. (R96) -/
  | fsub (h : Slot) (o : ScR)
  /-- Multiplies two scalar floats of type xt, rounded once. (R96) -/
  | fmul (h : Slot) (o : ScR)
  /-- Computes a times b plus c as scalar floats, rounded once. (R96) -/
  | ffma (h : Slot) (o : ScR)
  /-- Writes the smaller of two scalar floats, -0 below +0. (R96) -/
  | fmin (h : Slot) (o : ScR)
  /-- Writes the larger of two scalar floats, -0 below +0. (R96) -/
  | fmax (h : Slot) (o : ScR)
  /-- Writes flag fx with a floating-point comparison at commit. (R97) -/
  | fcmp (h : Slot) (o : ScR)
  /-- Converts s[sa] from type cc to type xt under R42. (R98) -/
  | fcvt (h : Slot) (o : ScR)
  /-- Writes the magnitude of a with a sign taken from b. (R99) -/
  | fsgn (h : Slot) (o : ScR)
  /-- Sets flag fx. (R92) -/
  | pset (h : Slot) (o : ScR)
  /-- Clears flag fx. (R92) -/
  | pclr (h : Slot) (o : ScR)
  /-- Writes the AND of two flags into fx. (R92) -/
  | pand (h : Slot) (o : ScR)
  /-- Writes the OR of two flags into fx. (R92) -/
  | por (h : Slot) (o : ScR)
  /-- Writes the inverse of a flag into fx. (R92) -/
  | pnot (h : Slot) (o : ScR)
  /-- Branches to the bundle address plus a signed displacement. (R101) -/
  | bra (h : Slot) (o : BrD)
  /-- Branches when flag bf xor bn is one. (R101) -/
  | brf (h : Slot) (o : BrD)
  /-- Writes E into s[ln] and transfers to a block header. (R102) -/
  | call (h : Slot) (o : BrD)
  /-- Transfers to the block header addressed by s[sa]. (R102) -/
  | ret (h : Slot) (o : BrR)
  /-- Transfers to s[sa] plus a sign-extended imm16. (R102) -/
  | jmp (h : Slot) (o : BrR)
  /-- Sets up a hardware loop level from a count register, skipping the body on a zero count. (R103) -/
  | loop (h : Slot) (o : BrL)
  /-- Sets up a hardware loop level from an immediate count. (R103) -/
  | loopi (h : Slot) (o : BrL)
  /-- Leaves loop level 0, or both levels, transferring past the body. (R105) -/
  | lbrk (h : Slot) (o : BrR)
  /-- Drains the stream, waits for its accesses and engines, then retires the task or stops the side stream. (R106) -/
  | done (h : Slot) (o : BrR)
  /-- Commits its bundle, then enters the handler with a software trap code and argument. (R107) -/
  | trap (h : Slot) (o : BrR)
  /-- Drains the handler, restores the frame and snapshots and resumes the interrupted block. (R212) -/
  | eret (h : Slot) (o : BrR)
  /-- Drains the main stream and lets a pending preemption be taken with no snapshot entries. (R109) -/
  | yield (h : Slot) (o : BrR)
  /-- Reads an 8-byte word and lands it in sd at the named arrival. (R144) -/
  | ld (h : Slot) (o : SmF)
  /-- Writes s[sb] to an 8-byte word at commit. (R144) -/
  | st (h : Slot) (o : SmF)
  /-- Reads a scalar understory word into sd. (R144) -/
  | ldx (h : Slot) (o : SmF)
  /-- Writes s[sb] to a scalar understory word. (R144) -/
  | stx (h : Slot) (o : SmF)
  /-- Writes s[sb] to a word of an engine's shadow staging set. (R145) -/
  | stg (h : Slot) (o : SmF)
  /-- Reads a word of an engine's shadow staging set into sd. (R145) -/
  | ldg (h : Slot) (o : SmF)
  /-- Atomically adds s[sb] to a word, returning the old value when timed. (R147) -/
  | aadd (h : Slot) (o : SmF)
  /-- Atomically ANDs s[sb] into a word. (R147) -/
  | aand (h : Slot) (o : SmF)
  /-- Atomically ORs s[sb] into a word. (R147) -/
  | aor (h : Slot) (o : SmF)
  /-- Atomically XORs s[sb] into a word. (R147) -/
  | axor (h : Slot) (o : SmF)
  /-- Atomically keeps the smaller S64 value. (R147) -/
  | amin (h : Slot) (o : SmF)
  /-- Atomically keeps the larger S64 value. (R147) -/
  | amax (h : Slot) (o : SmF)
  /-- Atomically keeps the smaller Z64 value. (R147) -/
  | aminz (h : Slot) (o : SmF)
  /-- Atomically keeps the larger Z64 value. (R147) -/
  | amaxz (h : Slot) (o : SmF)
  /-- Atomically exchanges a word with s[sb]. (R147) -/
  | axch (h : Slot) (o : SmF)
  /-- Atomically writes s[sb] when the word equals s[sd]. (R147) -/
  | acas (h : Slot) (o : SmF)
  /-- Atomically adds an FP32 value into half of a word, rounded RNE. (R148) -/
  | afadd (h : Slot) (o : SmF)
  /-- Reads the newest copy of a majority cell into the own slice, writing back laggards. (R151) -/
  | mjld (h : Slot) (o : SmF)
  /-- Writes a majority cell with a newer tag to every copy and waits for a majority. (R151) -/
  | mjst (h : Slot) (o : SmF)
  /-- Holds until every earlier load of the stream has read its value. (R199) -/
  | fenceAcquire (h : Slot) (o : SmF)
  /-- Holds until every earlier store-like access is performed at the scope. (R199) -/
  | fenceRelease (h : Slot) (o : SmF)
  /-- Holds until both the acquire and release conditions hold. (R199) -/
  | fenceFull (h : Slot) (o : SmF)
  /-- Drains for MX and TX, then freezes until earlier engine commands complete and are visible. (R199) -/
  | fenceEngineComplete (h : Slot) (o : SmF)
  /-- Holds until earlier publishes have completed at the scope. (R199) -/
  | fencePublishVisible (h : Slot) (o : SmF)
  /-- Arrives at a barrier after a full fence and holds until it completes. (R200) -/
  | bar (h : Slot) (o : SmF)
  /-- Takes the oldest event record, holding on an empty queue unless nw is set. (R202) -/
  | evpop (h : Slot) (o : SmF)
  /-- Posts a kind 0x04 record to another core's event queue through the outbound buffer. (R203) -/
  | evpost (h : Slot) (o : SmF)
  /-- Posts a node record to the dispatcher and lands a ticket. (R204) -/
  | launch (h : Slot) (o : SmF)
  /-- Reads a system register into sd. (R207) -/
  | sysr (h : Slot) (o : SmF)
  /-- Writes s[sb] into a system register at commit. (R207) -/
  | sysw (h : Slot) (o : SmF)
  /-- Looks an address up in the locked table and returns the entry fields. (R206) -/
  | tq (h : Slot) (o : SmF)
  /-- Adds an amount to a ready counter of the chain sequencer. (R205) -/
  | chsigReady (h : Slot) (o : SmF)
  /-- Returns activation slots to be advertised upstream. (R205) -/
  | chsigReturn (h : Slot) (o : SmF)
  /-- Releases owned banks of the own slice after earlier accesses to them. (R163) -/
  | brel (h : Slot) (o : SmF)
  /-- Adds elements of two vector operands under a mask. (R114) -/
  | vadd (h : Slot) (o : VaF)
  /-- Subtracts elements of two vector operands under a mask. (R114) -/
  | vsub (h : Slot) (o : VaF)
  /-- Multiplies elements of two vector operands under a mask. (R114) -/
  | vmul (h : Slot) (o : VaF)
  /-- Writes the high half of each element product. (R114) -/
  | vmulh (h : Slot) (o : VaF)
  /-- Computes a times b plus c per element, rounded once. (R115) -/
  | vfma (h : Slot) (o : VaF)
  /-- Computes a times b minus c per element, rounded once. (R115) -/
  | vfms (h : Slot) (o : VaF)
  /-- Computes minus a times b plus c per element, rounded once. (R115) -/
  | vfnma (h : Slot) (o : VaF)
  /-- Writes the smaller element of two operands. (R114) -/
  | vmin (h : Slot) (o : VaF)
  /-- Writes the larger element of two operands. (R114) -/
  | vmax (h : Slot) (o : VaF)
  /-- Writes the absolute value of each element. (R116) -/
  | vabs (h : Slot) (o : VaF)
  /-- Writes the negation of each element. (R116) -/
  | vneg (h : Slot) (o : VaF)
  /-- Bitwise AND of elements. (R118) -/
  | vand (h : Slot) (o : VaF)
  /-- Bitwise OR of elements. (R118) -/
  | vor (h : Slot) (o : VaF)
  /-- Bitwise XOR of elements. (R118) -/
  | vxor (h : Slot) (o : VaF)
  /-- Shifts each element left. (R118) -/
  | vshl (h : Slot) (o : VaF)
  /-- Shifts each element right logically. (R118) -/
  | vshr (h : Slot) (o : VaF)
  /-- Shifts each element right arithmetically. (R118) -/
  | vsra (h : Slot) (o : VaF)
  /-- Writes a mask from a per-lane comparison. (R119) -/
  | vcmp (h : Slot) (o : VaF)
  /-- Selects lanes of two operands by a mask. (R120) -/
  | vsel (h : Slot) (o : VaF)
  /-- Clamps each element between two bounds. (R117) -/
  | vclamp (h : Slot) (o : VaF)
  /-- Copies lanes of an operand under a mask. (R121) -/
  | vmov (h : Slot) (o : VaF)
  /-- Broadcasts the low bits of an s register to every element. (R121) -/
  | vbcs (h : Slot) (o : VaF)
  /-- Splats element i of an operand across the register. (R121) -/
  | vext (h : Slot) (o : VaF)
  /-- Inserts the low bits of an s register into element i. (R121) -/
  | vins (h : Slot) (o : VaF)
  /-- Reduces sixteen lanes by a fixed tree and writes the result to every masked lane. (R122) -/
  | vred (h : Slot) (o : VaF)
  /-- Permutes elements by an index operand. (R123) -/
  | vshuf (h : Slot) (o : VaF)
  /-- Extracts 64 bytes at a byte offset from two concatenated registers. (R124) -/
  | vrmg (h : Slot) (o : VaF)
  /-- Converts elements between types by parts. (R125) -/
  | vcvt (h : Slot) (o : VaF)
  /-- Packs two double-width integer registers into one narrow register. (R126) -/
  | vpack (h : Slot) (o : VaF)
  /-- Extends half of a narrow register to double width. (R126) -/
  | vunpk (h : Slot) (o : VaF)
  /-- Quantizes sixteen FP32 lanes into one part of a grouped register. (R127) -/
  | vqnt (h : Slot) (o : VaF)
  /-- Dequantizes one part of a grouped register into FP32 lanes. (R127) -/
  | vdqnt (h : Slot) (o : VaF)
  /-- Adds four 8-bit products per lane into a 32-bit accumulator lane. (R128) -/
  | vdot4 (h : Slot) (o : VaF)
  /-- Computes 2 to the x per FP32 lane, correctly rounded. (R129) -/
  | vexp2 (h : Slot) (o : VaF)
  /-- Computes log2 per FP32 lane, correctly rounded. (R129) -/
  | vlog2 (h : Slot) (o : VaF)
  /-- Computes the reciprocal per FP32 lane. (R129) -/
  | vrcp (h : Slot) (o : VaF)
  /-- Computes the reciprocal square root per FP32 lane. (R129) -/
  | vrsq (h : Slot) (o : VaF)
  /-- Computes the square root per FP32 lane. (R129) -/
  | vsqrt (h : Slot) (o : VaF)
  /-- Computes tanh per FP32 lane. (R129) -/
  | vtanh (h : Slot) (o : VaF)
  /-- ANDs two masks. (R130) -/
  | vmand (h : Slot) (o : VaF)
  /-- ORs two masks. (R130) -/
  | vmor (h : Slot) (o : VaF)
  /-- Inverts a mask. (R130) -/
  | vmnot (h : Slot) (o : VaF)
  /-- Writes the population count of a mask into masked lanes. (R130) -/
  | vmpop (h : Slot) (o : VaF)
  /-- Writes Mix32 of key, counter and lane id into each masked lane. (R131) -/
  | vrng (h : Slot) (o : VaF)
  /-- Loads a 64-byte row, landing at the own-slice count of the point. (R139) -/
  | vld (h : Slot) (o : VlF)
  /-- Stores all 64 bytes of a register to a row at commit. (R140) -/
  | vst (h : Slot) (o : VlF)
  /-- Stores the masked 4-byte lanes of a register to a row. (R140) -/
  | vstm (h : Slot) (o : VlF)
  /-- Loads a row, landing at the named arrival. (R139) -/
  | vldt (h : Slot) (o : VlF)
  /-- Loads a row from a handle buffer once it is filled enough. (R154) -/
  | vldh (h : Slot) (o : VlF)
  /-- Stores a row into a handle buffer once it has room. (R154) -/
  | vsth (h : Slot) (o : VlF)
  /-- Reads a cluster understory row into a register. (R141) -/
  | vldx (h : Slot) (o : VlF)
  /-- Writes a register to a cluster understory row. (R141) -/
  | vstx (h : Slot) (o : VlF)
  /-- Copies a register into a register of another cluster. (R142) -/
  | vxfer (h : Slot) (o : VlF)
  /-- Pushes a register as one entry to a local, remote or vertical queue. (R160) -/
  | vqpush (h : Slot) (o : VlF)
  /-- Loads an 8-byte word and splats it across the register at the named arrival. (R139) -/
  | vbld (h : Slot) (o : VlF)
  /-- Loads weight latch rows from a bank, setting the latch format. (R173) -/
  | mlw (h : Slot) (o : EnF)
  /-- Streams A rows through a latch and accumulates into accumulator rows. (R175) -/
  | mma (h : Slot) (o : EnF)
  /-- Runs the backward pass through a BF16 latch. (R175) -/
  | mmar (h : Slot) (o : EnF)
  /-- Zeroes accumulator rows, eight per array cycle. (R177) -/
  | mzr (h : Slot) (o : EnF)
  /-- Drains accumulator rows to the own slice, encoded by the bank format. (R177) -/
  | mst (h : Slot) (o : EnF)
  /-- Loads the resident weight scales of a grouped latch. (R174) -/
  | mscl (h : Slot) (o : EnF)
  /-- Runs a six-level nest of passes from the staging set. (R180) -/
  | mnest (h : Slot) (o : EnF)
  /-- Runs one pass in each core of a copse over A rows broadcast from one source. (R178) -/
  | mcop (h : Slot) (o : EnF)
  /-- Sends a vector to an HBM stack for a matrix-vector product produced into a handle. (R179) -/
  | smv (h : Slot) (o : EnF)
  /-- Copies elements between any two ends, converting by bank formats. (R187) -/
  | cpy (h : Slot) (o : EnF)
  /-- Gathers records by an index list. (R188) -/
  | cpg (h : Slot) (o : EnF)
  /-- Scatters records by an index list. (R188) -/
  | cps (h : Slot) (o : EnF)
  /-- Moves a whole region to the second tier, optionally dropping the source. (R190) -/
  | cptOffload (h : Slot) (o : EnF)
  /-- Fetches a region back from the second tier, marking it moving until done. (R190) -/
  | cptFetch (h : Slot) (o : EnF)
  /-- Decodes an entropy-coded tensor by a canonical code table. (R191) -/
  | cpz (h : Slot) (o : EnF)
  /-- Performs one collective put or add step with retries. (R192) -/
  | coll (h : Slot) (o : EnF)
  /-- Publishes shadowed pages of a range at a scope after earlier CP commands. (R194) -/
  | pub (h : Slot) (o : EnF)
  /-- Fills destination elements with a value. (R187) -/
  | cpf (h : Slot) (o : EnF)
  /-- Sends FP32 gradients compressed to GQ8 with error feedback. (R193) -/
  | cpc (h : Slot) (o : EnF)
  /-- Transposes rows of the own slice. (R195) -/
  | txp (h : Slot) (o : EnF)
  /-- Loads a weight latch transposed. (R196) -/
  | txw (h : Slot) (o : EnF)
  /-- Defines a handle from an image after checking it. (R156) -/
  | hdef (h : Slot) (o : HqF)
  /-- Moves a handle pointer and sends it to the peer after earlier accesses. (R157) -/
  | hadv (h : Slot) (o : HqF)
  /-- Writes handle, queue or credit state into HQV. (R158) -/
  | hqry (h : Slot) (o : HqF)
  /-- Writes a queue configuration. (R161) -/
  | qcfg (h : Slot) (o : HqF)
  /-- Sets the spill ring of a queue. (R162) -/
  | qspl (h : Slot) (o : HqF)
  /-- A bundle meets its issue conditions, issues in one counted cycle and commits; the environment says what it finds.
  (R57) -/
  | bundle (k : Found)
  /-- A header with no slots issues as a pure wait, pop or padding cycle. (R56) -/
  | emptyBundle (k : Sid)
  /-- A region's RES changes in every table and suspended tasks resume. (R297) -/
  | residencyChange (ctx region : Nat) (res : BitVec 2)
  /-- Entering a block checks the header, settles, requests a clearing token if upward and starts a clearing. (R221) -/
  | blockEntry (k : Sid)
  /-- The island arbiter grants a clearing token, ending the header delay. (R229) -/
  | clearingTokenGrant (rail : Nat)
  /-- The island arbiter grants a start token to a command that starts the array. (R230) -/
  | startTokenGrant (rail : Nat)
  /-- Every fourth counted cycle the regulator steps one code toward its target. (R227) -/
  | regulatorStep (core : Nat)
  /-- An in-flight operation writes its result in the counted cycle its latency fixes. (R57) -/
  | writeBack (core : Nat)
  /-- A timed access writes its destination in its named counted cycle, freezing until late data arrives. (R26) -/
  | landing (core : Nat)
  /-- Two cycles after issue the signatures are compared, releasing outbound work or rolling back. (R29) -/
  | lockstepCompare (core : Nat) (agree : Bool) (slot : BitVec 5)
  /-- An engine command reads or writes one accumulator or latch row in its counted cycle. (R167) -/
  | rowStage (core : Nat)
  /-- An engine command completes, setting its flag and posting its record. (R165) -/
  | engineCompletion (core : Nat) (eng : BitVec 2)
  /-- Iteration j of an rp bundle's MX command issues in counted cycle c + j. (R181) -/
  | repeatIteration (core : Nat)
  /-- The nest issues its next internal command when R168 allows. (R180) -/
  | nestCommand (core : Nat)
  /-- An engine producing into a handle writes a row once free count allows and advances PRD. (R189) -/
  | handleRowProduced (core : Nat) (eng : BitVec 2)
  /-- An entry arrives at a queue, becoming readable in the next counted cycle or spilling. (R159) -/
  | queueArrival (i : Nat)
  /-- A peer's pointer update arrives and applies to the handle. (R157) -/
  | handlePointerUpdate (i : Nat)
  /-- A record enters the core's event queue or is dropped when 32 are held. (R201) -/
  | eventRecordArrival (i : Nat)
  /-- Every participant has arrived or departed, releasing the held participants. (R200) -/
  | barrierCompletion (i : Nat)
  /-- A memory access takes effect at its home and is acknowledged. (R307) -/
  | accessPerformed (core i : Nat)
  /-- An atomic reads, modifies and writes its word in one step at its unit. (R146) -/
  | atomicAtUnit (core i : Nat)
  /-- A held arrival not released in the replay timeout is a divergence, ending replay. (R358) -/
  | replayTimeout (ctx : Nat) (unit : Nat)
  /-- A majority operation completes once need copies report, or traps for no majority. (R151) -/
  | majorityCompletion (k : Sid)
  /-- The hub repairs a laggard-listed cell within 1 ms. (R425) -/
  | majorityRepair (set : Nat)
  /-- A walk of every cell of a set repairs copies, periodically or for a rejoin. (R425) -/
  | majorityWalk (set : Nat)
  /-- The hub broadcasts a publish, setting SIDE in every table in scope. (R322) -/
  | publishFlip (f : FlipAt)
  /-- A released bank passes to the next launch once earlier accesses are performed. (R163) -/
  | bankOwnershipPass (core bank : Nat)
  /-- A host write of a new tail submits launch-queue slots or is discarded. (R380) -/
  | intakeWrite (ctx q : Nat) (row : Row)
  /-- The dispatcher copies a submitted slot once the previous one completed. (R381) -/
  | slotConsume (ctx q : Nat)
  /-- A copy control block's copy finishes and its completion is recorded. (R383) -/
  | hubCopyComplete (ctx q : Nat)
  /-- A ready admitted node is chosen and committed to its stand's cores. (R279) -/
  | nodePlacement (prio : Nat)
  /-- The first task of a launch on a core sets allotment, handler, queues, events and argument rows. (R272) -/
  | launchStart (core : Nat)
  /-- A tile task enters its kernel's entry block. (R272) -/
  | taskEntry (core : Nat)
  /-- A node completes when complete on its stand and its CP commands finish. (R276) -/
  | nodeCompletion (ctx node : Nat)
  /-- A priority-0 node waiting 100 µs preempts priority 2 or 3 launches. (R385) -/
  | priorityPreemption (ctx node : Nat)
  /-- A saved core is restored, its regulator brought to the restore code first. (R386) -/
  | restore (core : Nat)
  /-- A CR write creates a context from its record: the word written at offset 0 of its page. (R379) -/
  | contextCreate (ctx : Nat) (v : Word)
  /-- A TD write starts teardown of the context. (R384) -/
  | teardown (ctx : Nat)
  /-- STATE returns to free once no core runs a task of the context. (R384) -/
  | teardownComplete (ctx : Nat)
  /-- A K trap stops the node and the dispatcher settles it by rerun or kill. (R393) -/
  | containment (ctx node : Nat)
  /-- A background sweep invalidates tags 64 or more phases behind. (R319) -/
  | raceTagSweep (core : Nat)
  /-- Every million hub ticks the canopy reads sensors, takes a command and writes targets. (R426) -/
  | canopyPeriod (p : PeriodInput)
  /-- The rail of a gated island turns off when the last save completes. (R430) -/
  | islandRailOff (island : Nat)
  /-- A function sets its RDY bit, or its RFL bit on failure. (R432) -/
  | functionReady (bit : Nat) (r : Report)
  /-- A write of EN trains a Chomar port from four lanes. (R400) -/
  | portEnable (p : Nat)
  /-- A port's training completes and it becomes usable. (R400) -/
  | portTrained (p : Nat) (pkg : BitVec 8) (prt : BitVec 6)
  /-- A flit arrives and is checked by CRC, credits and acknowledgments applied. (R401) -/
  | flitReceive (p : Nat) (flit : BitVec 2048)
  /-- A port fails after eight retries or loss of training. (R401) -/
  | portFailure (p : PathLoss)
  /-- Too many lane errors in a millisecond halve the port width. (R402) -/
  | laneShed (p : Nat)
  /-- The link resumes at the new width and held ordered traffic is released. (R402) -/
  | linkRetrained (p : Nat)
  /-- A packet at its destination is performed, discarded or answered by window rules. (R404) -/
  | packetReceive (hdr : BitVec 256) (data : Row)
  /-- An acknowledgment frees acknowledged packets at the source. (R404) -/
  | ackReceive (hdr : BitVec 256) (data : Row)
  /-- No acknowledgment in 20 µs resends from the oldest unacknowledged packet. (R404) -/
  | retransmitTimeout (pkg : Nat) (unordered : Bool)
  /-- The fabric manager installs alternate routes after a failure. (R408) -/
  | routeInstall (pkg : Nat) (rt : Word)
  /-- A refused packet is replayed 5 µs later. (R409) -/
  | refusalReplay (pkg : Nat) (unordered : Bool)
  /-- A collective step fails on error or FSTO timeout and is retried or ends. (R410) -/
  | collStepFailure (core : Nat)
  /-- A second-tier end unreachable for FSTO ticks ends its command with status 0x7. (R411) -/
  | secondTierNoRoute (core : Nat)
  /-- A second-tier port trains, or stays disabled when unsupported. (R413) -/
  | secondTierPortTrain (t : Nat) (found : TierDevice)
  /-- Each hub tick the sequencer evaluates the current entry and may start it. (R343) -/
  | chainTick
  /-- An entry's node completes, sending notification and returns. (R345) -/
  | chainEntryComplete (ctx i : Nat)
  /-- A notification arrives and raises a ready counter. (R345) -/
  | chainNotification (ctx : Nat) (ctr : BitVec 8) (amt : BitVec 16)
  /-- Returned or advertised slots arrive and are added to DFREE. (R347) -/
  | slotReturn (ctx : Nat) (amt : BitVec 16)
  /-- A migration advances through copy, drain, recopy, switch and done. (R420) -/
  | migrationPhase (m : Nat) (writeFails : Bool)
  /-- Writing 2 to a down member's state starts its rejoin. (R424) -/
  | mhsWrite (set i : Nat) (v : BitVec 2)
  /-- A failed stack member of a majority set is set down. (R424) -/
  | majorityMemberDown (set i : Nat)
  /-- The SRAM scrubber reads a row, correcting or poisoning it. (R390) -/
  | sramScrub (pa : Nat) (found : ScrubRead)
  /-- The HBM patrol scrubber reads a row, correcting or poisoning it. (R390) -/
  | hbmScrub (pa : Nat) (found : ScrubRead)
  /-- The thermal maximum tree reads every sensor every 5 µs. (R441) -/
  | thermalSample (temps : List (Nat × Int))
  /-- A write to a partition register, discarded whole when it conflicts. (R377) -/
  | partWrite (p : Nat) (v : Word)
  /-- A write to a second-tier decoder, discarded whole when it conflicts. (R413) -/
  | tdecWrite (d : Nat) (w0 w1 : Word)
  /-- An acknowledgment write to a context error ring, discarded when out of range. (R399) -/
  | erackWrite (ctx : Nat) (v : BitVec 32)
  /-- An acknowledgment write to the package error ring. (R399) -/
  | peackWrite (v : BitVec 32)
  /-- An acknowledgment write to the telemetry ring. (R438) -/
  | tlackWrite (v : BitVec 32)
  /-- A GO write of 1 checks the table and starts a walk. (R346) -/
  | chainGo (ctx : Nat)
  /-- A GO write of 0 stops the walk before its next start. (R346) -/
  | chainStop (ctx : Nat)
  /-- A CSLOT write, discarded when it lowers below the advertised count. (R347) -/
  | cslotWrite (ctx : Nat) (v : BitVec 16)
  /-- A write of SMAX begins a fresh maximum. (R349) -/
  | smaxWrite (ctx : Nat) (v : BitVec 8)
  /-- A write of a field RW when stopped, discarded while GO is 1. (R348) -/
  | chainRegisterWrite (ctx off : Nat) (v : Word)
  /-- An MGO write of 1 starts a migration, or is discarded with a cause. (R419) -/
  | migrationStart (m : Nat)
  /-- An MGO write of 0 returns a done or failed slot to idle. (R419) -/
  | migrationReset (m : Nat)
  /-- A host CXL.mem read or write to device memory. (R376) -/
  | hostMemoryAccess (a : HostAccess)
  /-- A host AtomicOp is performed on a system-atomic page or rejected. (R325) -/
  | hostAtomic (a : HostAtomic)
  /-- A write to a register with no row of its own. (R5) -/
  | registerWrite (off : Nat) (v : Word)
  /-- The driver acknowledges order-log records, freeing ring space that recording may overwrite. (R357) -/
  | logAcknowledgment (ctx n : Nat)
  /-- A PRS write of 1 preempts a node. (R385) -/
  | preemptNode (ctx node : Nat)
  /-- A PRS write of 0 resumes a preempted node. (R385) -/
  | resumeNode (ctx node : Nat)
  /-- A CNUM write raises an event counter by CAMT. (R379) -/
  | eventCounterWrite (ctx : Nat) (num : BitVec 16) (amt : BitVec 32)
  /-- A PKEY write of 0xC1EA resets the package. (R446) -/
  | packageReset (v : BitVec 16)
  /-- Mailbox command 0x01 sets an island slope limit. (R431) -/
  | setIslandSlope
  /-- Mailbox command 0x02 sets the package slope limit. (R431) -/
  | setPackageSlope
  /-- Mailbox command 0x03 sets the package power limit. (R431) -/
  | setPowerLimit
  /-- Mailbox command 0x04 gates an island. (R431) -/
  | gateIsland
  /-- Mailbox command 0x05 ungates an island. (R431) -/
  | ungateIsland
  /-- Mailbox command 0x06 appends a retired range to the configuration record. (R431) -/
  | appendRetiredRange
  /-- Mailbox command 0x10 writes a signed attestation report. (R436) -/
  | attestationReport
  /-- An uncorrectable error in shared hub state kills every context. (R395) -/
  | packageHalt
  /-- The package supply comes up and the package leaves reset, with bring-up starting at hub tick 0. (R446) -/
  | powerOn
deriving DecidableEq, Repr

end Sys2Proof
end

