-- ==== Sys2Proof/WellFormed.lean ====
section
/-!
DEFINITION. Well-formedness of the instructions: the illegal-instruction conditions that the encoding
alone decides. Unused fields are zero and used fields hold listed values (R69 to R73), with the
entries of R85 to R131, R137 to R164, R172, R186, R195 and R197. What a core's kind or stream decides
(R31, R29) stands in Machine/Issue.lean.
-/
namespace Sys2Proof

/-- Slot classes by position (R55). -/
def Slot.isSc (h : Slot) : Bool := h.pos.toNat ≤ 1
def Slot.isSm (h : Slot) : Bool := h.pos.toNat = 2
def Slot.isBr (h : Slot) : Bool := h.pos.toNat = 3
def Slot.isVa (h : Slot) : Bool := 4 ≤ h.pos.toNat && h.pos.toNat ≤ 11
def Slot.isVl (h : Slot) : Bool := 12 ≤ h.pos.toNat && h.pos.toNat ≤ 19
def Slot.isMx (h : Slot) : Bool := h.pos.toNat = 20
def Slot.isCp (h : Slot) : Bool := h.pos.toNat = 21
def Slot.isTx (h : Slot) : Bool := h.pos.toNat = 22
def Slot.isHq (h : Slot) : Bool := h.pos.toNat = 23

/-- The cluster a VA or VL position executes on (R55). -/
def Slot.cluster (h : Slot) : Nat := if h.pos.toNat ≤ 11 then h.pos.toNat - 4 else h.pos.toNat - 12

/-- Three-register ALU forms use `sd`, `sa`, `sb` only (R87). -/
def ScR.alu (o : ScR) : Bool := o.sc = 0 && o.fx = 0 && o.cc = 0 && o.rn = 0 && o.xt = 0
/-- FP forms other than `fcvt` accept the types 0x0 to 0x2 (R95). -/
def ScR.fp (o : ScR) : Bool := o.xt.toNat ≤ 2
/-- `rn` = 0b11 is illegal (R35). -/
def rnOk (rn : BitVec 2) : Bool := rn ≠ 3
/-- `fcvt` type codes (R95). -/
def cvtType (t : BitVec 4) : Bool := t.toNat ≤ 4 || t = 13 || t = 14
/-- Float types of `fcvt` (R95). -/
def cvtFloat (t : BitVec 4) : Bool := t.toNat ≤ 2
/-- Flag operations: `sd`, `sa`, `sb`, `sc` and `rn` zero (R92). -/
def ScR.flagOp (o : ScR) : Bool := o.sd = 0 && o.sa = 0 && o.sb = 0 && o.sc = 0 && o.rn = 0
/-- The fields w, p and x of `bfx` and `bfi` (R94). -/
def ScI.bfW (o : ScI) : Nat := (o.imm.extractLsb' 6 7).toNat
def ScI.bfP (o : ScI) : Nat := (o.imm.extractLsb' 0 6).toNat
def ScI.bfX (o : ScI) : Bool := o.imm.getLsbD 13
def ScI.bfOk (o : ScI) : Bool :=
  o.imm.extractLsb' 14 10 = 0 && 1 ≤ o.bfW && o.bfW ≤ 64 && o.bfP + o.bfW ≤ 64
/-- A BR.R word whose operand fields are all zero (R106, R108, R109). -/
def BrR.none (o : BrR) : Bool := o.sd = 0 && o.sa = 0 && o.z = 0 && o.imm = 0

/-- Loads take plain or acquire, stores plain or release, atomics any; plain carries scope 0 (R137),
and scope 10 belongs to the majority forms (R306). -/
def SmF.ordScope (o : SmF) (acq rel : Bool) : Bool :=
  o.ord ≠ 3 && (o.ord ≠ 1 || acq) && (o.ord ≠ 2 || rel) &&
    (if o.ord = 0 then o.scp = 0 else o.scp.toNat ≤ 9)
/-- Forms with `arr`, `scp` and `ord` zero. -/
def SmF.plain (o : SmF) : Bool := o.arr = 0 && o.scp = 0 && o.ord = 0
/-- Set and word of `stg` and `ldg` (R145). -/
def SmF.stagingOk (o : SmF) : Bool :=
  let w := (o.off.extractLsb' 0 7).toNat
  match (o.off.extractLsb' 7 2).toNat with
  | 0 => w ≤ 31
  | 1 => w ≤ 15
  | 2 => w ≤ 7
  | _ => false
/-- An atomic without `arr` names no result; `acas` reads `sd` (R149). -/
def SmF.atomicOk (o : SmF) (cas : Bool) : Bool := o.ordScope true true && (o.arr ≠ 0 || cas || o.sd = 0)
/-- `fence` with its kind and its lowest scope (R199). -/
def SmF.fenceOk (o : SmF) (kind lowest : Nat) : Bool :=
  o.sd = 0 && o.sa = 0 && o.sb = 0 && o.off.toNat = kind && o.arr = 0 && o.ord = 0 &&
    lowest ≤ o.scp.toNat && o.scp.toNat ≤ 9
/-- Listed system register numbers (R208). -/
def sysNumOk (n : Nat) : Bool :=
  n ≤ 0x11 || (0x20 ≤ n && n ≤ 0x2C) || (0x30 ≤ n && n ≤ 0x3A) || (0x40 ≤ n && n ≤ 0x5F)

/-- The type sets of R112. -/
def VaF.isF (o : VaF) : Bool := o.ft.toNat ≤ 2
def VaF.isI (o : VaF) : Bool := 3 ≤ o.ft.toNat && o.ft.toNat ≤ 10
def VaF.isS (o : VaF) : Bool := o.ft = 3 || o.ft = 5 || o.ft = 7 || o.ft = 9
/-- Vector operand codes (R72). -/
def opOk (c : BitVec 6) : Bool := c.toNat ≤ 41
def sregOk (c : BitVec 6) : Bool := c.toNat ≤ 31
def mregOk (c : BitVec 6) : Bool := c.toNat ≤ 7
/-- Elements per register of a type code of R73 (R15). -/
def typeCount (t : Nat) : Nat :=
  if t = 0 || t = 3 || t = 4 then 16 else if t = 1 || t = 2 || t = 5 || t = 6 then 32
  else if t = 7 || t = 8 || t = 11 then 64 else 128
/-- `rn` where the entry says mode, for float types only; `sat` where it says sat, for integers. -/
def VaF.modeF (o : VaF) : Bool := if o.isF then rnOk o.rn else o.rn = 0
def VaF.satI (o : VaF) : Bool := o.sat = 0 || o.isI
def VaF.flat (o : VaF) : Bool := o.rn = 0 && o.sat = 0 && o.z = 0
def VaF.arith (o : VaF) (sat : Bool) : Bool :=
  opOk o.va && opOk o.vb && o.vc = 0 && (o.isF || o.isI) && o.modeF &&
    (if sat then o.satI else o.sat = 0) && o.z = 0
def VaF.fused (o : VaF) : Bool :=
  opOk o.va && opOk o.vb && opOk o.vc && o.isF && rnOk o.rn && o.sat = 0 && o.z = 0
def VaF.unary (o : VaF) : Bool :=
  opOk o.va && o.vb = 0 && o.vc = 0 && (o.isF || o.isS) && o.rn = 0 && (o.sat = 0 || o.isS) && o.z = 0
def VaF.logic (o : VaF) : Bool := opOk o.va && opOk o.vb && o.vc = 0 && o.isI && o.flat
def VaF.condOk (o : VaF) : Bool :=
  if o.isF then o.vc.toNat ≤ 7 else o.isI && (o.vc.toNat ≤ 5 || o.vc = 10 || o.vc = 11)
def VaF.special (o : VaF) : Bool :=
  opOk o.va && o.vb = 0 && o.vc = 0 && o.ft = 0 && o.rn.toNat ≤ 1 && o.sat = 0 && o.z = 0
def VaF.narrow (o : VaF) : Bool := 5 ≤ o.ft.toNat && o.ft.toNat ≤ 10
/-- `vcvt`: distinct types, one of them a float, and a part in range (R125). -/
def VaF.cvtOk (o : VaF) : Bool :=
  let f := o.ft.toNat
  let t := (o.vc.extractLsb' 0 4).toNat
  o.vc.toNat ≤ 10 && f ≤ 10 && f ≠ t && (f ≤ 2 || t ≤ 2) &&
    o.vb.toNat < max (typeCount t / typeCount f) (max (typeCount f / typeCount t) 1) &&
    rnOk o.rn && o.sat = 0 && o.z = 0
/-- `vqnt` and `vdqnt`: four parts for GQ8, eight for GQ4 (R127). -/
def VaF.quantOk (o : VaF) : Bool :=
  opOk o.va && opOk o.vc && ((o.ft = 11 && o.vb.toNat ≤ 3) || (o.ft = 12 && o.vb.toNat ≤ 7)) && o.flat

/-- Rows and first row of the MX forms; a row count is held minus one (R172). -/
def EnF.rowsAt (o : EnF) (first cnt : Nat) : Bool :=
  (o.prm.extractLsb' first 7).toNat + (o.prm.extractLsb' cnt 7).toNat + 1 ≤ 128
def EnF.low (o : EnF) (n : Nat) : Bool := o.prm.toNat % 2 ^ n = 0
/-- The common CP subfields: `ap`, `sc`, `hp`, `hn` (R186); `hn` is unused, hence zero (R70), when
`hp` = 0. -/
def EnF.cpOk (o : EnF) (handle pub : Bool) : Bool :=
  o.wl = 0 && o.ac = 0 && (o.prm.extractLsb' 16 4).toNat ≤ 10 &&
    (pub || o.prm.getLsbD 20 || o.prm.extractLsb' 16 4 = 0) &&
    (if o.prm.getLsbD 15 then handle else o.prm.extractLsb' 11 4 = 0)

/-- The core numbers that exist: grove [9:7], core [6:0] below 80 (R160, R208). -/
def coreOk (k : Nat) : Bool := k < 1024 && k % 128 < 80

/-- The instruction's fields hold values that its entry lists. -/
def Instr.wf : Instr → Bool
  | .nop h => h.pos.toNat ≤ 23 && !h.vt && h.pf = 0 && !h.pn
  | .add h o => h.isSc && o.alu
  | .sub h o => h.isSc && o.alu
  | .addi h _ => h.isSc
  | .and h o => h.isSc && o.alu
  | .or h o => h.isSc && o.alu
  | .xor h o => h.isSc && o.alu
  | .andi h _ => h.isSc
  | .ori h _ => h.isSc
  | .xori h _ => h.isSc
  | .shl h o => h.isSc && o.alu
  | .shr h o => h.isSc && o.alu
  | .sra h o => h.isSc && o.alu
  | .shli h o => h.isSc && o.imm.extractLsb' 6 18 = 0
  | .shri h o => h.isSc && o.imm.extractLsb' 6 18 = 0
  | .srai h o => h.isSc && o.imm.extractLsb' 6 18 = 0
  | .mul h o => h.isSc && o.alu
  | .mulh h o => h.isSc && o.alu
  | .mulhz h o => h.isSc && o.alu
  | .div h o => h.isSc && o.alu
  | .divz h o => h.isSc && o.alu
  | .rem h o => h.isSc && o.alu
  | .remz h o => h.isSc && o.alu
  | .min h o => h.isSc && o.alu
  | .max h o => h.isSc && o.alu
  | .minz h o => h.isSc && o.alu
  | .maxz h o => h.isSc && o.alu
  | .cmp h o => h.isSc && o.sd = 0 && o.sc = 0 && o.rn = 0 && o.xt = 0 && o.cc.toNat ≤ 11
  | .cmpi h o => h.isSc && o.sd = 0 && (o.imm.extractLsb' 20 4).toNat ≤ 11
  | .csel h o => h.isSc && o.sc = 0 && o.cc = 0 && o.rn = 0 && o.xt = 0
  | .movi h _ => h.isSc
  | .movs h _ => h.isSc
  | .clz h o => h.isSc && o.sb = 0 && o.alu
  | .popc h o => h.isSc && o.sb = 0 && o.alu
  | .bfx h o => h.isSc && o.bfOk
  | .bfi h o => h.isSc && o.bfOk && !o.bfX
  | .fadd h o => h.isSc && o.sc = 0 && o.fx = 0 && o.cc = 0 && rnOk o.rn && o.fp
  | .fsub h o => h.isSc && o.sc = 0 && o.fx = 0 && o.cc = 0 && rnOk o.rn && o.fp
  | .fmul h o => h.isSc && o.sc = 0 && o.fx = 0 && o.cc = 0 && rnOk o.rn && o.fp
  | .ffma h o => h.isSc && o.fx = 0 && o.cc = 0 && rnOk o.rn && o.fp
  | .fmin h o => h.isSc && o.sc = 0 && o.fx = 0 && o.cc = 0 && o.rn = 0 && o.fp
  | .fmax h o => h.isSc && o.sc = 0 && o.fx = 0 && o.cc = 0 && o.rn = 0 && o.fp
  | .fcmp h o => h.isSc && o.sd = 0 && o.sc = 0 && o.rn = 0 && o.fp && o.cc.toNat ≤ 7
  | .fcvt h o => h.isSc && o.sb = 0 && o.sc = 0 && o.fx = 0 && rnOk o.rn && cvtType o.cc && cvtType o.xt && o.cc ≠ o.xt &&
      (cvtFloat o.cc || cvtFloat o.xt)
  | .fsgn h o => h.isSc && o.sc = 0 && o.fx = 0 && o.rn = 0 && o.fp && o.cc.toNat ≤ 2
  | .pset h o => h.isSc && o.flagOp && o.cc = 0 && o.xt = 0
  | .pclr h o => h.isSc && o.flagOp && o.cc = 0 && o.xt = 0
  | .pand h o => h.isSc && o.flagOp
  | .por h o => h.isSc && o.flagOp
  | .pnot h o => h.isSc && o.flagOp && o.xt = 0
  | .bra h o => h.isBr && o.ln = 0 && o.bf = 0 && o.bn = 0
  | .brf h o => h.isBr && o.ln = 0
  | .call h o => h.isBr && o.bf = 0 && o.bn = 0
  | .ret h o => h.isBr && o.sd = 0 && o.z = 0 && o.imm = 0
  | .jmp h o => h.isBr && o.sd = 0 && o.z = 0
  | .loop h o => h.isBr && o.cnt.extractLsb' 0 8 = 0 && o.dsp ≠ 0
  | .loopi h o => h.isBr && o.dsp ≠ 0
  | .lbrk h o => h.isBr && o.sd = 0 && o.sa = 0 && o.z = 0 && o.imm.toNat ≤ 1
  | .done h o => h.isBr && o.none
  | .trap h o => h.isBr && o.sd = 0 && o.z = 0
  | .eret h o => h.isBr && o.none
  | .yield h o => h.isBr && o.none
  | .ld h o => h.isSm && o.sb = 0 && o.arr ≠ 0 && o.ordScope true false
  | .st h o => h.isSm && o.sd = 0 && o.arr = 0 && o.ordScope false true
  | .ldx h o => h.isSm && o.sa = 0 && o.sb = 0 && o.off.toNat ≤ 255 && o.plain
  | .stx h o => h.isSm && o.sd = 0 && o.sa = 0 && o.off.toNat ≤ 255 && o.plain
  | .stg h o => h.isSm && o.sd = 0 && o.sa = 0 && o.plain && o.stagingOk
  | .ldg h o => h.isSm && o.sa = 0 && o.sb = 0 && o.plain && o.stagingOk
  | .aadd h o => h.isSm && o.atomicOk false
  | .aand h o => h.isSm && o.atomicOk false
  | .aor h o => h.isSm && o.atomicOk false
  | .axor h o => h.isSm && o.atomicOk false
  | .amin h o => h.isSm && o.atomicOk false
  | .amax h o => h.isSm && o.atomicOk false
  | .aminz h o => h.isSm && o.atomicOk false
  | .amaxz h o => h.isSm && o.atomicOk false
  | .axch h o => h.isSm && o.atomicOk false
  | .acas h o => h.isSm && o.atomicOk true
  | .afadd h o => h.isSm && o.atomicOk false
  | .mjld h o => h.isSm && o.off = 0 && o.arr = 0 && o.scp = 10 && o.ord = 0
  | .mjst h o => h.isSm && o.off = 0 && o.arr = 0 && o.scp = 10 && o.ord = 0
  | .fenceAcquire h o => h.isSm && o.fenceOk 0 0
  | .fenceRelease h o => h.isSm && o.fenceOk 1 0
  | .fenceFull h o => h.isSm && o.fenceOk 2 0
  | .fenceEngineComplete h o => h.isSm && o.fenceOk 3 1
  | .fencePublishVisible h o => h.isSm && o.fenceOk 4 1
  | .bar h o => h.isSm && o.sd = 0 && o.sa = 0 && o.sb = 0 && o.off.toNat ≤ 15 && o.arr = 0 && o.ord = 0 &&
      (o.scp = 2 || o.scp = 3 || o.scp = 5 || o.scp = 6 || o.scp = 7)
  | .evpop h o => h.isSm && o.sa = 0 && o.off.toNat ≤ 1 && o.plain && (o.sd ≠ o.sb || o.sd = 0)
  | .evpost h o => h.isSm && o.sd = 0 && o.arr = 0 && o.ordScope false true
  | .launch h o => h.isSm && o.sb = 0 && o.off = 0 && o.plain
  | .sysr h o => h.isSm && o.sa = 0 && o.sb = 0 && o.plain && sysNumOk o.off.toNat
  | .sysw h o => h.isSm && o.sd = 0 && o.sa = 0 && o.plain && sysNumOk o.off.toNat
  | .tq h o => h.isSm && o.sb = 0 && o.off = 0 && o.plain
  | .chsigReady h o => h.isSm && o.sd = 0 && o.off.toNat = 0 && o.arr = 0 && o.scp = 6 && o.ord = 0
  | .chsigReturn h o => h.isSm && o.sd = 0 && o.off.toNat = 1 && o.arr = 0 && o.scp = 6 && o.ord = 0
  | .brel h o => h.isSm && o.sd = 0 && o.sb = 0 && o.off = 0 && o.plain
  | .vadd h o => h.isVa && o.arith true
  | .vsub h o => h.isVa && o.arith true
  | .vmul h o => h.isVa && o.arith true
  | .vmulh h o => h.isVa && o.logic
  | .vfma h o => h.isVa && o.fused
  | .vfms h o => h.isVa && o.fused
  | .vfnma h o => h.isVa && o.fused
  | .vmin h o => h.isVa && o.arith false
  | .vmax h o => h.isVa && o.arith false
  | .vabs h o => h.isVa && o.unary
  | .vneg h o => h.isVa && o.unary
  | .vand h o => h.isVa && o.logic
  | .vor h o => h.isVa && o.logic
  | .vxor h o => h.isVa && o.logic
  | .vshl h o => h.isVa && o.logic
  | .vshr h o => h.isVa && o.logic
  | .vsra h o => h.isVa && o.logic
  | .vcmp h o => h.isVa && o.vd.toNat ≤ 7 && opOk o.va && opOk o.vb && o.condOk && o.flat
  | .vsel h o => h.isVa && opOk o.va && opOk o.vb && o.vc = 0 && o.ft = 0 && o.flat
  | .vclamp h o => h.isVa && opOk o.va && opOk o.vb && opOk o.vc && (o.isF || o.isI) && o.flat
  | .vmov h o => h.isVa && opOk o.va && o.vb = 0 && o.vc = 0 && o.ft = 0 && o.flat
  | .vbcs h o => h.isVa && sregOk o.va && o.vb = 0 && o.vc = 0 && (o.isF || o.isI) && o.flat
  | .vext h o => h.isVa && opOk o.va && o.ft.toNat ≤ 8 && o.vb.toNat < typeCount o.ft.toNat && o.vc = 0 && o.flat
  | .vins h o => h.isVa && sregOk o.va && o.ft.toNat ≤ 8 && o.vb.toNat < typeCount o.ft.toNat && o.vc = 0 && o.m = 0 && o.flat
  | .vred h o => h.isVa && opOk o.va && o.vb = 0 && o.vc.toNat ≤ 2 && (o.ft = 0 || o.ft = 3 || o.ft = 4) && o.modeF && o.satI && o.z = 0
  | .vshuf h o => h.isVa && opOk o.va && opOk o.vb && o.vc = 0 && o.ft.toNat ≤ 8 && o.flat
  | .vrmg h o => h.isVa && opOk o.va && opOk o.vb && o.ft = 0 && o.flat
  | .vcvt h o => h.isVa && opOk o.va && o.cvtOk
  | .vpack h o => h.isVa && opOk o.va && opOk o.vb && o.vc = 0 && o.narrow && o.rn = 0 && o.z = 0
  | .vunpk h o => h.isVa && opOk o.va && o.vb.toNat ≤ 1 && o.vc = 0 && o.narrow && o.flat
  | .vqnt h o => h.isVa && o.quantOk
  | .vdqnt h o => h.isVa && o.quantOk
  | .vdot4 h o => h.isVa && opOk o.va && opOk o.vb && opOk o.vc && (o.ft = 7 || o.ft = 8) && o.rn = 0 && o.z = 0
  | .vexp2 h o => h.isVa && o.special
  | .vlog2 h o => h.isVa && o.special
  | .vrcp h o => h.isVa && o.special
  | .vrsq h o => h.isVa && o.special
  | .vsqrt h o => h.isVa && o.special
  | .vtanh h o => h.isVa && o.special
  | .vmand h o => h.isVa && o.vd.toNat ≤ 7 && mregOk o.va && mregOk o.vb && o.vc = 0 && o.m = 0 && o.ft = 0 && o.flat
  | .vmor h o => h.isVa && o.vd.toNat ≤ 7 && mregOk o.va && mregOk o.vb && o.vc = 0 && o.m = 0 && o.ft = 0 && o.flat
  | .vmnot h o => h.isVa && o.vd.toNat ≤ 7 && mregOk o.va && o.vb = 0 && o.vc = 0 && o.m = 0 && o.ft = 0 && o.flat
  | .vmpop h o => h.isVa && mregOk o.va && o.vb = 0 && o.vc = 0 && o.ft = 0 && o.flat
  | .vrng h o => h.isVa && opOk o.va && opOk o.vb && o.vc = 0 && o.ft = 4 && o.flat
  | .vld h o => h.isVl && o.arr = 0 && (o.ord = 0 || o.ord = 1) && o.xc = 0
  | .vst h o => h.isVl && o.arr = 0 && o.m = 0 && (o.ord = 0 || o.ord = 2) && o.xc = 0
  | .vstm h o => h.isVl && o.arr = 0 && (o.ord = 0 || o.ord = 2) && o.xc = 0
  | .vldt h o => h.isVl && o.arr ≠ 0 && (o.ord = 0 || o.ord = 1) && o.xc = 0
  | .vldh h o => h.isVl && o.sa.toNat ≤ 15 && o.arr = 0 && o.ord = 0 && o.xc = 0
  | .vsth h o => h.isVl && o.sa.toNat ≤ 15 && o.arr = 0 && o.m = 0 && o.ord = 0 && o.xc = 0
  | .vldx h o => h.isVl && o.sa = 0 && o.off.toNat ≤ 31 && o.arr = 0 && o.m = 0 && o.ord = 0 && o.xc = 0
  | .vstx h o => h.isVl && o.sa = 0 && o.off.toNat ≤ 31 && o.arr = 0 && o.m = 0 && o.ord = 0 && o.xc = 0
  | .vxfer h o => h.isVl && o.off = 0 && o.arr = 0 && o.ord = 0
  | .vqpush h o => h.isVl && o.arr = 0 && o.m = 0 && (o.ord = 0 || o.ord = 2) && ((o.xc = 0 && o.sa = 0 && o.off.toNat ≤ 6) ||
      (o.xc = 1 && o.off.toNat ≤ 6) || (o.xc = 2 && o.sa = 0 && o.off.toNat ≤ 3))
  | .vbld h o => h.isVl && o.arr ≠ 0 && (o.ord = 0 || o.ord = 1) && o.xc = 0
  | .mlw h o => h.isMx && o.ac = 0 && o.rowsAt 14 7 && o.low 7
  | .mma h o => h.isMx && o.rowsAt 14 7 && o.low 7
  | .mmar h o => h.isMx && o.rowsAt 14 7 && o.low 7
  | .mzr h o => h.isMx && o.wl = 0 && o.sa = 0 && o.rowsAt 14 7 && o.low 7
  | .mst h o => h.isMx && o.wl = 0 && o.rowsAt 14 7 && o.low 6
  | .mscl h o => h.isMx && o.ac = 0 && o.prm = 0
  | .mnest h o => h.isMx && o.rowsAt 13 6 && o.low 6
  | .mcop h o => h.isMx && o.rowsAt 14 7 && o.low 5
  | .smv h o => h.isMx && o.wl = 0 && o.ac = 0 && o.prm.extractLsb' 15 2 ≠ 3 && o.prm.extractLsb' 13 2 ≠ 3 && o.low 13
  | .cpy h o => h.isCp && o.cpOk true false && o.low 11
  | .cpg h o => h.isCp && o.cpOk true false && o.low 11
  | .cps h o => h.isCp && o.cpOk false false && o.low 11
  | .cptOffload h o => h.isCp && o.cpOk false false && !o.prm.getLsbD 10 && o.low 9
  | .cptFetch h o => h.isCp && o.cpOk false false && o.prm.getLsbD 10 && o.low 9
  | .cpz h o => h.isCp && o.cpOk true false && (o.prm.extractLsb' 8 3).toNat ≤ 4 && o.low 8
  | .coll h o => h.isCp && o.cpOk false false && o.prm.extractLsb' 9 2 ≠ 3 && o.low 9
  | .pub h o => h.isCp && o.cpOk false true && o.low 11
  | .cpf h o => h.isCp && o.cpOk false false && o.low 11
  | .cpc h o => h.isCp && o.cpOk false false && o.prm.extractLsb' 9 2 ≠ 3 && o.low 8
  | .txp h o => h.isTx && o.wl = 0 && o.ac = 0 && o.prm.extractLsb' 5 2 ≠ 3 && o.low 5
  | .txw h o => h.isTx && o.ac = 0 && o.prm = 0
  | .hdef h o => h.isHq && o.sx = 0 && o.cnt = 0 && o.qn = 0 && o.pk = 0 && o.z = 0
  | .hadv h o => h.isHq && o.sa = 0 && o.sx = 0 && o.qn = 0 && o.pk.toNat ≤ 1 && o.cnt.toNat ≤ 4096 && o.z = 0
  | .hqry h o => h.isHq && o.sa = 0 && o.sx = 0 && o.pk = 0 && o.cnt.toNat ≤ 3 && (o.cnt.toNat ≤ 1 || o.hn = 0) &&
      (2 ≤ o.cnt.toNat || o.qn = 0) && (o.cnt ≠ 3 || o.qn.toNat ≤ 3) && o.z = 0
  | .qcfg h o => h.isHq && o.hn = 0 && o.sx = 0 && o.cnt = 0 && o.pk = 0 && o.z = 0
  | .qspl h o => h.isHq && o.hn = 0 && o.pk = 0 && o.qn ≠ 7 && o.z = 0 && (o.cnt = 16 || o.cnt = 32 || o.cnt = 64 || o.cnt = 128 ||
      o.cnt = 256 || o.cnt = 512 || o.cnt = 1024 || o.cnt = 2048 || o.cnt = 4096)
  | .bundle x => coreOk x.k.core
  | .emptyBundle k => coreOk k.core
  | .residencyChange ctx _ _ => ctx < 16
  | .blockEntry k => coreOk k.core
  | .clearingTokenGrant rail => rail < 72
  | .startTokenGrant rail => rail < 72
  | .regulatorStep core => coreOk core
  | .writeBack core => coreOk core
  | .landing core => coreOk core
  | .lockstepCompare core _ _ => coreOk core
  | .rowStage core => coreOk core
  | .engineCompletion core _ => coreOk core
  | .repeatIteration core => coreOk core
  | .nestCommand core => coreOk core
  | .handleRowProduced core _ => coreOk core
  | .queueArrival _ => true
  | .handlePointerUpdate _ => true
  | .eventRecordArrival _ => true
  | .barrierCompletion _ => true
  | .accessPerformed core _ => coreOk core
  | .atomicAtUnit core _ => coreOk core
  | .replayTimeout ctx _ => ctx < 16
  | .majorityCompletion k => coreOk k.core
  | .majorityMemberDown set _ => set < 32
  | .majorityRepair set => set < 32
  | .majorityWalk set => set < 32
  | .mhsWrite set _ _ => set < 32
  | .publishFlip (.table core tab) => coreOk core && (coreOk tab || tab == 1024)
  | .publishFlip (.arrive _ _ tab) => coreOk tab
  | .bankOwnershipPass core _ => coreOk core
  | .intakeWrite ctx q _ => ctx < 16 && q < 16
  | .slotConsume ctx q => ctx < 16 && q < 16
  | .hubCopyComplete ctx q => ctx < 16 && q < 16
  | .nodePlacement _ => true
  | .launchStart core => coreOk core
  | .taskEntry core => coreOk core
  | .nodeCompletion ctx _ => ctx < 16
  | .priorityPreemption ctx _ => ctx < 16
  | .restore core => coreOk core
  | .contextCreate ctx _ => ctx < 16
  | .teardown ctx => ctx < 16
  | .teardownComplete ctx => ctx < 16
  | .preemptNode ctx _ => ctx < 16
  | .resumeNode ctx _ => ctx < 16
  | .eventCounterWrite ctx _ _ => ctx < 16
  | .containment ctx _ => ctx < 16
  | .packageHalt => true
  | .erackWrite ctx _ => ctx < 16
  | .peackWrite _ => true
  | .tlackWrite _ => true
  | .sramScrub _ _ => true
  | .hbmScrub _ _ => true
  | .raceTagSweep core => coreOk core
  | .canopyPeriod _ => true
  | .islandRailOff island => island < 64
  | .thermalSample _ => true
  | .setIslandSlope => true
  | .setPackageSlope => true
  | .setPowerLimit => true
  | .gateIsland => true
  | .ungateIsland => true
  | .appendRetiredRange => true
  | .attestationReport => true
  | .packageReset _ => true
  | .functionReady _ _ => true
  | .partWrite p _ => p < 8
  | .tdecWrite d _ _ => d < 16
  | .portEnable p => p < 64
  | .portTrained p _ _ => p < 64
  | .flitReceive p _ => p < 64
  | .portFailure p => p.port < 64
  | .laneShed p => p < 64
  | .linkRetrained p => p < 64
  | .packetReceive _ _ => true
  | .ackReceive _ _ => true
  | .retransmitTimeout pkg _ => pkg < 256
  | .routeInstall pkg _ => pkg < 256
  | .refusalReplay pkg _ => pkg < 256
  | .collStepFailure core => coreOk core
  | .secondTierNoRoute core => coreOk core
  | .secondTierPortTrain t _ => t < 8
  | .hostMemoryAccess _ => true
  | .hostAtomic _ => true
  | .chainGo ctx => ctx < 16
  | .chainStop ctx => ctx < 16
  | .chainTick => true
  | .chainEntryComplete ctx _ => ctx < 16
  | .chainNotification ctx _ _ => ctx < 16
  | .slotReturn ctx _ => ctx < 16
  | .cslotWrite ctx _ => ctx < 16
  | .smaxWrite ctx _ => ctx < 16
  | .chainRegisterWrite ctx _ _ => ctx < 16
  | .migrationStart m => m < 4
  | .migrationReset m => m < 4
  | .migrationPhase m _ => m < 4
  | .registerWrite _ _ => true
  | .logAcknowledgment ctx _ => ctx < 16
  | .powerOn => true

end Sys2Proof
end

