-- ==== Sys2Proof/Decode.lean ====
section
/-!
DEFINITION. The decoder: from parcels to bundle headers, block descriptors and slot instructions, total
on any bits and refusing by name (R53 to R56, R64, R69 to R80, R84). After it, the encoder.
-/
namespace Sys2Proof

/-- Why a word is no instruction. -/
inductive Reject where
  /-- An opcode outside its class's map, or a `fence`, `chsig` kind the class does not list (R74). -/
  | unlistedOpcode
  /-- A `nop` with another bit set (R69). -/
  | nopBits
  /-- A field outside its listed values, or an unused field that is not zero (R70). -/
  | badField
  /-- A position above 23 or a list of bytes shorter than the bundle. -/
  | noWord
deriving DecidableEq, Repr

/-- The bundle header (R54); `z` is the reserved field [47:41]. -/
structure BundleHdr where
  z   : BitVec 7
  rp  : Bool
  wp  : Bool
  wf  : BitVec 4
  we  : Bool
  pop : BitVec 8
  fz  : Bool
  st  : Bool
  pm  : BitVec 24
deriving DecidableEq, Repr

/-- The block descriptor (R64); `z` is the reserved field [47:37]. -/
structure BlockDesc where
  z    : BitVec 11
  plen : BitVec 17
  rrg  : Bool
  alp  : BitVec 3
  len  : BitVec 12
  stl  : Bool
  pt   : BitVec 3
deriving DecidableEq, Repr

def decodeHdr (w : Parcel) : BundleHdr :=
  { z := w.extractLsb' 41 7, rp := w.getLsbD 40, wp := w.getLsbD 39, wf := w.extractLsb' 35 4,
    we := w.getLsbD 34, pop := w.extractLsb' 26 8, fz := w.getLsbD 25, st := w.getLsbD 24,
    pm := w.extractLsb' 0 24 }

def encodeHdr (h : BundleHdr) : Parcel :=
  h.z ++ BitVec.ofBool h.rp ++ BitVec.ofBool h.wp ++ h.wf ++ BitVec.ofBool h.we ++ h.pop ++
    BitVec.ofBool h.fz ++ BitVec.ofBool h.st ++ h.pm

def decodeDesc (w : Parcel) : BlockDesc :=
  { z := w.extractLsb' 37 11, plen := w.extractLsb' 20 17, rrg := w.getLsbD 19, alp := w.extractLsb' 16 3,
    len := w.extractLsb' 4 12, stl := w.getLsbD 3, pt := w.extractLsb' 0 3 }

def encodeDesc (d : BlockDesc) : Parcel :=
  d.z ++ d.plen ++ BitVec.ofBool d.rrg ++ d.alp ++ d.len ++ BitVec.ofBool d.stl ++ d.pt

/-- The fields common to every slot word (R69). -/
def decodeCommon (pos : BitVec 5) (w : Parcel) : Slot :=
  { pos := pos, vt := w.getLsbD 47, pf := w.extractLsb' 43 4, pn := w.getLsbD 42 }

/-- The ScR operand fields (R70). -/
def decodeScR (w : Parcel) : ScR :=
  { sd := w.extractLsb' 29 5, sa := w.extractLsb' 24 5, sb := w.extractLsb' 19 5, sc := w.extractLsb' 14 5, fx := w.extractLsb' 10 4, cc := w.extractLsb' 6 4, rn := w.extractLsb' 4 2, xt := w.extractLsb' 0 4 }
def ScR.bits (o : ScR) : BitVec 34 := o.sd ++ o.sa ++ o.sb ++ o.sc ++ o.fx ++ o.cc ++ o.rn ++ o.xt

/-- The ScI operand fields (R70). -/
def decodeScI (w : Parcel) : ScI :=
  { sd := w.extractLsb' 29 5, sa := w.extractLsb' 24 5, imm := w.extractLsb' 0 24 }
def ScI.bits (o : ScI) : BitVec 34 := o.sd ++ o.sa ++ o.imm

/-- The ScL operand fields (R70). -/
def decodeScL (w : Parcel) : ScL :=
  { sd := w.extractLsb' 29 5, imm := w.extractLsb' 0 29 }
def ScL.bits (o : ScL) : BitVec 34 := o.sd ++ o.imm

/-- The BrD operand fields (R70). -/
def decodeBrD (w : Parcel) : BrD :=
  { ln := w.extractLsb' 29 5, bf := w.extractLsb' 25 4, bn := w.extractLsb' 24 1, dsp := w.extractLsb' 0 24 }
def BrD.bits (o : BrD) : BitVec 34 := o.ln ++ o.bf ++ o.bn ++ o.dsp

/-- The BrR operand fields (R70). -/
def decodeBrR (w : Parcel) : BrR :=
  { sd := w.extractLsb' 29 5, sa := w.extractLsb' 24 5, z := w.extractLsb' 16 8, imm := w.extractLsb' 0 16 }
def BrR.bits (o : BrR) : BitVec 34 := o.sd ++ o.sa ++ o.z ++ o.imm

/-- The BrL operand fields (R70). -/
def decodeBrL (w : Parcel) : BrL :=
  { lv := w.extractLsb' 33 1, cnt := w.extractLsb' 20 13, dsp := w.extractLsb' 0 20 }
def BrL.bits (o : BrL) : BitVec 34 := o.lv ++ o.cnt ++ o.dsp

/-- The SmF operand fields (R70). -/
def decodeSmF (w : Parcel) : SmF :=
  { sd := w.extractLsb' 29 5, sa := w.extractLsb' 24 5, sb := w.extractLsb' 19 5, off := w.extractLsb' 10 9, arr := w.extractLsb' 6 4, scp := w.extractLsb' 2 4, ord := w.extractLsb' 0 2 }
def SmF.bits (o : SmF) : BitVec 34 := o.sd ++ o.sa ++ o.sb ++ o.off ++ o.arr ++ o.scp ++ o.ord

/-- The VaF operand fields (R70). -/
def decodeVaF (w : Parcel) : VaF :=
  { vd := w.extractLsb' 29 5, va := w.extractLsb' 23 6, vb := w.extractLsb' 17 6, vc := w.extractLsb' 11 6, m := w.extractLsb' 8 3, ft := w.extractLsb' 4 4, rn := w.extractLsb' 2 2, sat := w.extractLsb' 1 1, z := w.extractLsb' 0 1 }
def VaF.bits (o : VaF) : BitVec 34 := o.vd ++ o.va ++ o.vb ++ o.vc ++ o.m ++ o.ft ++ o.rn ++ o.sat ++ o.z

/-- The VlF operand fields (R70). -/
def decodeVlF (w : Parcel) : VlF :=
  { vd := w.extractLsb' 29 5, sa := w.extractLsb' 24 5, off := w.extractLsb' 12 12, arr := w.extractLsb' 8 4, m := w.extractLsb' 5 3, ord := w.extractLsb' 3 2, xc := w.extractLsb' 0 3 }
def VlF.bits (o : VlF) : BitVec 34 := o.vd ++ o.sa ++ o.off ++ o.arr ++ o.m ++ o.ord ++ o.xc

/-- The HqF operand fields (R70). -/
def decodeHqF (w : Parcel) : HqF :=
  { hn := w.extractLsb' 30 4, sa := w.extractLsb' 25 5, sx := w.extractLsb' 20 5, cnt := w.extractLsb' 7 13, qn := w.extractLsb' 4 3, pk := w.extractLsb' 2 2, z := w.extractLsb' 0 2 }
def HqF.bits (o : HqF) : BitVec 34 := o.hn ++ o.sa ++ o.sx ++ o.cnt ++ o.qn ++ o.pk ++ o.z

/-- The EnF operand fields (R70). -/
def decodeEnF (w : Parcel) : EnF :=
  { cf := w.extractLsb' 30 4, ce := w.extractLsb' 29 1, wl := w.extractLsb' 27 2, ac := w.extractLsb' 26 1, sa := w.extractLsb' 21 5, prm := w.extractLsb' 0 21 }
def EnF.bits (o : EnF) : BitVec 34 := o.cf ++ o.ce ++ o.wl ++ o.ac ++ o.sa ++ o.prm

/-- The SC opcode map (R75). -/
def decodeSc (h : Slot) (w : Parcel) : Nat → Option Instr
  | 0x01 => some (.add h (decodeScR w))
  | 0x02 => some (.sub h (decodeScR w))
  | 0x03 => some (.addi h (decodeScI w))
  | 0x04 => some (.and h (decodeScR w))
  | 0x05 => some (.or h (decodeScR w))
  | 0x06 => some (.xor h (decodeScR w))
  | 0x07 => some (.andi h (decodeScI w))
  | 0x08 => some (.ori h (decodeScI w))
  | 0x09 => some (.xori h (decodeScI w))
  | 0x0A => some (.shl h (decodeScR w))
  | 0x0B => some (.shr h (decodeScR w))
  | 0x0C => some (.sra h (decodeScR w))
  | 0x0D => some (.shli h (decodeScI w))
  | 0x0E => some (.shri h (decodeScI w))
  | 0x0F => some (.srai h (decodeScI w))
  | 0x10 => some (.mul h (decodeScR w))
  | 0x11 => some (.mulh h (decodeScR w))
  | 0x12 => some (.mulhz h (decodeScR w))
  | 0x13 => some (.div h (decodeScR w))
  | 0x14 => some (.divz h (decodeScR w))
  | 0x15 => some (.rem h (decodeScR w))
  | 0x16 => some (.remz h (decodeScR w))
  | 0x17 => some (.min h (decodeScR w))
  | 0x18 => some (.max h (decodeScR w))
  | 0x19 => some (.minz h (decodeScR w))
  | 0x1A => some (.maxz h (decodeScR w))
  | 0x1B => some (.cmp h (decodeScR w))
  | 0x1C => some (.cmpi h (decodeScI w))
  | 0x1D => some (.csel h (decodeScR w))
  | 0x1E => some (.movi h (decodeScL w))
  | 0x1F => some (.movs h (decodeScL w))
  | 0x20 => some (.clz h (decodeScR w))
  | 0x21 => some (.popc h (decodeScR w))
  | 0x22 => some (.bfx h (decodeScI w))
  | 0x23 => some (.bfi h (decodeScI w))
  | 0x24 => some (.fadd h (decodeScR w))
  | 0x25 => some (.fsub h (decodeScR w))
  | 0x26 => some (.fmul h (decodeScR w))
  | 0x27 => some (.ffma h (decodeScR w))
  | 0x28 => some (.fmin h (decodeScR w))
  | 0x29 => some (.fmax h (decodeScR w))
  | 0x2A => some (.fcmp h (decodeScR w))
  | 0x2B => some (.fcvt h (decodeScR w))
  | 0x2C => some (.fsgn h (decodeScR w))
  | 0x2D => some (.pset h (decodeScR w))
  | 0x2E => some (.pclr h (decodeScR w))
  | 0x2F => some (.pand h (decodeScR w))
  | 0x30 => some (.por h (decodeScR w))
  | 0x31 => some (.pnot h (decodeScR w))
  | _ => none

/-- The BR opcode map (R76). -/
def decodeBr (h : Slot) (w : Parcel) : Nat → Option Instr
  | 0x01 => some (.bra h (decodeBrD w))
  | 0x02 => some (.brf h (decodeBrD w))
  | 0x03 => some (.call h (decodeBrD w))
  | 0x04 => some (.ret h (decodeBrR w))
  | 0x05 => some (.jmp h (decodeBrR w))
  | 0x06 => some (.loop h (decodeBrL w))
  | 0x07 => some (.lbrk h (decodeBrR w))
  | 0x08 => some (.done h (decodeBrR w))
  | 0x09 => some (.trap h (decodeBrR w))
  | 0x0A => some (.eret h (decodeBrR w))
  | 0x0B => some (.yield h (decodeBrR w))
  | 0x0C => some (.loopi h (decodeBrL w))
  | _ => none

/-- The SM opcode map (R77). -/
def decodeSm (h : Slot) (w : Parcel) : Nat → Option Instr
  | 0x01 => some (.ld h (decodeSmF w))
  | 0x02 => some (.st h (decodeSmF w))
  | 0x03 => some (.ldx h (decodeSmF w))
  | 0x04 => some (.stx h (decodeSmF w))
  | 0x05 => some (.stg h (decodeSmF w))
  | 0x06 => some (.ldg h (decodeSmF w))
  | 0x07 => some (.aadd h (decodeSmF w))
  | 0x08 => some (.aand h (decodeSmF w))
  | 0x09 => some (.aor h (decodeSmF w))
  | 0x0A => some (.axor h (decodeSmF w))
  | 0x0B => some (.amin h (decodeSmF w))
  | 0x0C => some (.amax h (decodeSmF w))
  | 0x0D => some (.aminz h (decodeSmF w))
  | 0x0E => some (.amaxz h (decodeSmF w))
  | 0x0F => some (.axch h (decodeSmF w))
  | 0x10 => some (.acas h (decodeSmF w))
  | 0x11 => some (.afadd h (decodeSmF w))
  | 0x12 => some (.mjld h (decodeSmF w))
  | 0x13 => some (.mjst h (decodeSmF w))
  | 0x14 =>
    match (w.extractLsb' 10 9).toNat with
    | 0 => some (.fenceAcquire h (decodeSmF w))
    | 1 => some (.fenceRelease h (decodeSmF w))
    | 2 => some (.fenceFull h (decodeSmF w))
    | 3 => some (.fenceEngineComplete h (decodeSmF w))
    | 4 => some (.fencePublishVisible h (decodeSmF w))
    | _ => none
  | 0x15 => some (.bar h (decodeSmF w))
  | 0x16 => some (.evpop h (decodeSmF w))
  | 0x17 => some (.evpost h (decodeSmF w))
  | 0x18 => some (.launch h (decodeSmF w))
  | 0x19 => some (.sysr h (decodeSmF w))
  | 0x1A => some (.sysw h (decodeSmF w))
  | 0x1B => some (.tq h (decodeSmF w))
  | 0x1C =>
    match (w.extractLsb' 10 9).toNat with
    | 0 => some (.chsigReady h (decodeSmF w))
    | 1 => some (.chsigReturn h (decodeSmF w))
    | _ => none
  | 0x1D => some (.brel h (decodeSmF w))
  | _ => none

/-- The VA opcode map (R78). -/
def decodeVa (h : Slot) (w : Parcel) : Nat → Option Instr
  | 0x01 => some (.vadd h (decodeVaF w))
  | 0x02 => some (.vsub h (decodeVaF w))
  | 0x03 => some (.vmul h (decodeVaF w))
  | 0x04 => some (.vmulh h (decodeVaF w))
  | 0x05 => some (.vfma h (decodeVaF w))
  | 0x06 => some (.vfms h (decodeVaF w))
  | 0x07 => some (.vfnma h (decodeVaF w))
  | 0x08 => some (.vmin h (decodeVaF w))
  | 0x09 => some (.vmax h (decodeVaF w))
  | 0x0A => some (.vabs h (decodeVaF w))
  | 0x0B => some (.vneg h (decodeVaF w))
  | 0x0C => some (.vand h (decodeVaF w))
  | 0x0D => some (.vor h (decodeVaF w))
  | 0x0E => some (.vxor h (decodeVaF w))
  | 0x0F => some (.vshl h (decodeVaF w))
  | 0x10 => some (.vshr h (decodeVaF w))
  | 0x11 => some (.vsra h (decodeVaF w))
  | 0x12 => some (.vcmp h (decodeVaF w))
  | 0x13 => some (.vsel h (decodeVaF w))
  | 0x14 => some (.vclamp h (decodeVaF w))
  | 0x15 => some (.vmov h (decodeVaF w))
  | 0x16 => some (.vbcs h (decodeVaF w))
  | 0x17 => some (.vext h (decodeVaF w))
  | 0x18 => some (.vins h (decodeVaF w))
  | 0x19 => some (.vred h (decodeVaF w))
  | 0x1A => some (.vshuf h (decodeVaF w))
  | 0x1B => some (.vrmg h (decodeVaF w))
  | 0x1C => some (.vcvt h (decodeVaF w))
  | 0x1D => some (.vpack h (decodeVaF w))
  | 0x1E => some (.vunpk h (decodeVaF w))
  | 0x1F => some (.vqnt h (decodeVaF w))
  | 0x20 => some (.vdqnt h (decodeVaF w))
  | 0x21 => some (.vdot4 h (decodeVaF w))
  | 0x22 => some (.vexp2 h (decodeVaF w))
  | 0x23 => some (.vlog2 h (decodeVaF w))
  | 0x24 => some (.vrcp h (decodeVaF w))
  | 0x25 => some (.vrsq h (decodeVaF w))
  | 0x26 => some (.vsqrt h (decodeVaF w))
  | 0x27 => some (.vtanh h (decodeVaF w))
  | 0x28 => some (.vmand h (decodeVaF w))
  | 0x29 => some (.vmor h (decodeVaF w))
  | 0x2A => some (.vmnot h (decodeVaF w))
  | 0x2B => some (.vmpop h (decodeVaF w))
  | 0x2C => some (.vrng h (decodeVaF w))
  | _ => none

/-- The VL opcode map (R79). -/
def decodeVl (h : Slot) (w : Parcel) : Nat → Option Instr
  | 0x01 => some (.vld h (decodeVlF w))
  | 0x02 => some (.vst h (decodeVlF w))
  | 0x03 => some (.vstm h (decodeVlF w))
  | 0x04 => some (.vldt h (decodeVlF w))
  | 0x05 => some (.vldh h (decodeVlF w))
  | 0x06 => some (.vsth h (decodeVlF w))
  | 0x07 => some (.vldx h (decodeVlF w))
  | 0x08 => some (.vstx h (decodeVlF w))
  | 0x09 => some (.vxfer h (decodeVlF w))
  | 0x0A => some (.vqpush h (decodeVlF w))
  | 0x0B => some (.vbld h (decodeVlF w))
  | _ => none

/-- The MX opcode map (R79). -/
def decodeMx (h : Slot) (w : Parcel) : Nat → Option Instr
  | 0x01 => some (.mlw h (decodeEnF w))
  | 0x02 => some (.mma h (decodeEnF w))
  | 0x03 => some (.mmar h (decodeEnF w))
  | 0x04 => some (.mzr h (decodeEnF w))
  | 0x05 => some (.mst h (decodeEnF w))
  | 0x06 => some (.mscl h (decodeEnF w))
  | 0x07 => some (.mnest h (decodeEnF w))
  | 0x08 => some (.mcop h (decodeEnF w))
  | 0x09 => some (.smv h (decodeEnF w))
  | _ => none

/-- The CP opcode map (R79). -/
def decodeCp (h : Slot) (w : Parcel) : Nat → Option Instr
  | 0x01 => some (.cpy h (decodeEnF w))
  | 0x02 => some (.cpg h (decodeEnF w))
  | 0x03 => some (.cps h (decodeEnF w))
  | 0x04 => some (if w.getLsbD 10 then .cptFetch h (decodeEnF w) else .cptOffload h (decodeEnF w))
  | 0x05 => some (.cpz h (decodeEnF w))
  | 0x06 => some (.coll h (decodeEnF w))
  | 0x07 => some (.pub h (decodeEnF w))
  | 0x08 => some (.cpf h (decodeEnF w))
  | 0x09 => some (.cpc h (decodeEnF w))
  | _ => none

/-- The TX opcode map (R79). -/
def decodeTx (h : Slot) (w : Parcel) : Nat → Option Instr
  | 0x01 => some (.txp h (decodeEnF w))
  | 0x02 => some (.txw h (decodeEnF w))
  | _ => none

/-- The HQ opcode map (R79). -/
def decodeHq (h : Slot) (w : Parcel) : Nat → Option Instr
  | 0x01 => some (.hdef h (decodeHqF w))
  | 0x02 => some (.hadv h (decodeHqF w))
  | 0x03 => some (.hqry h (decodeHqF w))
  | 0x04 => some (.qcfg h (decodeHqF w))
  | 0x05 => some (.qspl h (decodeHqF w))
  | _ => none

/-- The instruction a slot word names, before its fields are checked: the class follows from the
position alone (R55), and opcode 0 is `nop` in every class (R69). -/
def decodeRaw (pos : BitVec 5) (w : Parcel) : Option Instr :=
  let h := decodeCommon pos w
  let op := (w.extractLsb' 34 8).toNat
  let p := pos.toNat
  if op = 0 then (if w.extractLsb' 0 34 = 0 then some (.nop h) else none)
  else if p ≤ 1 then decodeSc h w op
  else if p = 2 then decodeSm h w op
  else if p = 3 then decodeBr h w op
  else if p ≤ 11 then decodeVa h w op
  else if p ≤ 19 then decodeVl h w op
  else if p = 20 then decodeMx h w op
  else if p = 21 then decodeCp h w op
  else if p = 22 then decodeTx h w op
  else if p = 23 then decodeHq h w op
  else none

/-- The slot instruction of a word, or why it is none: every refusal is an illegal instruction (R84). -/
def decodeSlot (pos : BitVec 5) (w : Parcel) : Except Reject Instr :=
  match decodeRaw pos w with
  | none =>
    if 23 < pos.toNat then .error .noWord
    else if w.extractLsb' 34 8 = 0 then .error .nopBits else .error .unlistedOpcode
  | some i => if i.wf then .ok i else if w.extractLsb' 34 8 = 0 then .error .nopBits else .error .badField

/-- The little-endian number of a list of bytes (R2). -/
def leNat : List Byte → Nat
  | [] => 0
  | b :: bs => b.toNat + 256 * leNat bs

/-- One parcel from the front of a list of bytes (R53). -/
def takeParcel (bs : List Byte) : Option (Parcel × List Byte) :=
  if 6 ≤ bs.length then some (BitVec.ofNat 48 (leNat (bs.take 6)), bs.drop 6) else none

/-- The slot positions present in a mask, ascending (R53). -/
def presentFrom (pm : BitVec 24) : Nat → Nat → List (BitVec 5)
  | _, 0 => []
  | p, n + 1 => if pm.getLsbD p then BitVec.ofNat 5 p :: presentFrom pm (p + 1) n else presentFrom pm (p + 1) n

def presentSlots (pm : BitVec 24) : List (BitVec 5) := presentFrom pm 0 24

/-- Length of a bundle in bytes, 6 × (1 + popcount(pm)) (R53). -/
def bundleLength (pm : BitVec 24) : Nat := 6 * (1 + (presentSlots pm).length)

/-- The slots of a bundle from the parcels after its header. -/
def decodeSlots : List (BitVec 5) → List Byte → Except Reject (List Instr × List Byte)
  | [], bs => .ok ([], bs)
  | p :: ps, bs =>
    match takeParcel bs with
    | none => .error .noWord
    | some (w, rest) =>
      match decodeSlot p w with
      | .error e => .error e
      | .ok i =>
        match decodeSlots ps rest with
        | .error e => .error e
        | .ok (is, r) => .ok (i :: is, r)

/-- A whole bundle from a list of bytes, with the bytes after it (R53). -/
def decodeBundle (bs : List Byte) : Except Reject (BundleHdr × List Instr × List Byte) :=
  match takeParcel bs with
  | none => .error .noWord
  | some (w, rest) =>
    let h := decodeHdr w
    match decodeSlots (presentSlots h.pm) rest with
    | .error e => .error e
    | .ok (is, r) => .ok (h, is, r)

/-- `n` bytes of a number, lowest first (R2). -/
def natBytes : Nat → Nat → List Byte
  | 0, _ => []
  | n + 1, w => BitVec.ofNat 8 w :: natBytes n (w / 256)

/-- The instruction the decoder reads from an instruction's bits as the hardware stores them: the
bundle header parcel first, then the slot parcels (R53). A bundle of one slot is that slot's
instruction; a header word of no slots is the empty bundle of R56, and the block header of R64 when
its `st` is one. A bundle of several slots is the step of the bundle as a whole. -/
def decodeTableWord (_nbits w : Nat) : Option Instr :=
  match decodeBundle (natBytes (bundleLength (decodeHdr (BitVec.ofNat 48 w)).pm) w) with
  | .error _ => none
  | .ok (h, [], _) => some (if h.st then .blockEntry ⟨0, false⟩ else .emptyBundle ⟨0, false⟩)
  | .ok (_, [i], _) => some i
  | .ok (_, _ :: _ :: _, _) => some (.bundle ⟨⟨0, false⟩, []⟩)

/-- A slot word from its common fields, its opcode and its operands (R69). -/
def slotWord (h : Slot) (op : BitVec 8) (x : BitVec 34) : Parcel :=
  BitVec.ofBool h.vt ++ h.pf ++ BitVec.ofBool h.pn ++ op ++ x

/-- The slot word of an instruction; events have none. -/
def encode : Instr → Option Parcel
  | .nop h => some (slotWord h 0 0)
  | .add h o => some (slotWord h 0x01 o.bits)
  | .sub h o => some (slotWord h 0x02 o.bits)
  | .addi h o => some (slotWord h 0x03 o.bits)
  | .and h o => some (slotWord h 0x04 o.bits)
  | .or h o => some (slotWord h 0x05 o.bits)
  | .xor h o => some (slotWord h 0x06 o.bits)
  | .andi h o => some (slotWord h 0x07 o.bits)
  | .ori h o => some (slotWord h 0x08 o.bits)
  | .xori h o => some (slotWord h 0x09 o.bits)
  | .shl h o => some (slotWord h 0x0A o.bits)
  | .shr h o => some (slotWord h 0x0B o.bits)
  | .sra h o => some (slotWord h 0x0C o.bits)
  | .shli h o => some (slotWord h 0x0D o.bits)
  | .shri h o => some (slotWord h 0x0E o.bits)
  | .srai h o => some (slotWord h 0x0F o.bits)
  | .mul h o => some (slotWord h 0x10 o.bits)
  | .mulh h o => some (slotWord h 0x11 o.bits)
  | .mulhz h o => some (slotWord h 0x12 o.bits)
  | .div h o => some (slotWord h 0x13 o.bits)
  | .divz h o => some (slotWord h 0x14 o.bits)
  | .rem h o => some (slotWord h 0x15 o.bits)
  | .remz h o => some (slotWord h 0x16 o.bits)
  | .min h o => some (slotWord h 0x17 o.bits)
  | .max h o => some (slotWord h 0x18 o.bits)
  | .minz h o => some (slotWord h 0x19 o.bits)
  | .maxz h o => some (slotWord h 0x1A o.bits)
  | .cmp h o => some (slotWord h 0x1B o.bits)
  | .cmpi h o => some (slotWord h 0x1C o.bits)
  | .csel h o => some (slotWord h 0x1D o.bits)
  | .movi h o => some (slotWord h 0x1E o.bits)
  | .movs h o => some (slotWord h 0x1F o.bits)
  | .clz h o => some (slotWord h 0x20 o.bits)
  | .popc h o => some (slotWord h 0x21 o.bits)
  | .bfx h o => some (slotWord h 0x22 o.bits)
  | .bfi h o => some (slotWord h 0x23 o.bits)
  | .fadd h o => some (slotWord h 0x24 o.bits)
  | .fsub h o => some (slotWord h 0x25 o.bits)
  | .fmul h o => some (slotWord h 0x26 o.bits)
  | .ffma h o => some (slotWord h 0x27 o.bits)
  | .fmin h o => some (slotWord h 0x28 o.bits)
  | .fmax h o => some (slotWord h 0x29 o.bits)
  | .fcmp h o => some (slotWord h 0x2A o.bits)
  | .fcvt h o => some (slotWord h 0x2B o.bits)
  | .fsgn h o => some (slotWord h 0x2C o.bits)
  | .pset h o => some (slotWord h 0x2D o.bits)
  | .pclr h o => some (slotWord h 0x2E o.bits)
  | .pand h o => some (slotWord h 0x2F o.bits)
  | .por h o => some (slotWord h 0x30 o.bits)
  | .pnot h o => some (slotWord h 0x31 o.bits)
  | .bra h o => some (slotWord h 0x01 o.bits)
  | .brf h o => some (slotWord h 0x02 o.bits)
  | .call h o => some (slotWord h 0x03 o.bits)
  | .ret h o => some (slotWord h 0x04 o.bits)
  | .jmp h o => some (slotWord h 0x05 o.bits)
  | .loop h o => some (slotWord h 0x06 o.bits)
  | .lbrk h o => some (slotWord h 0x07 o.bits)
  | .done h o => some (slotWord h 0x08 o.bits)
  | .trap h o => some (slotWord h 0x09 o.bits)
  | .eret h o => some (slotWord h 0x0A o.bits)
  | .yield h o => some (slotWord h 0x0B o.bits)
  | .loopi h o => some (slotWord h 0x0C o.bits)
  | .ld h o => some (slotWord h 0x01 o.bits)
  | .st h o => some (slotWord h 0x02 o.bits)
  | .ldx h o => some (slotWord h 0x03 o.bits)
  | .stx h o => some (slotWord h 0x04 o.bits)
  | .stg h o => some (slotWord h 0x05 o.bits)
  | .ldg h o => some (slotWord h 0x06 o.bits)
  | .aadd h o => some (slotWord h 0x07 o.bits)
  | .aand h o => some (slotWord h 0x08 o.bits)
  | .aor h o => some (slotWord h 0x09 o.bits)
  | .axor h o => some (slotWord h 0x0A o.bits)
  | .amin h o => some (slotWord h 0x0B o.bits)
  | .amax h o => some (slotWord h 0x0C o.bits)
  | .aminz h o => some (slotWord h 0x0D o.bits)
  | .amaxz h o => some (slotWord h 0x0E o.bits)
  | .axch h o => some (slotWord h 0x0F o.bits)
  | .acas h o => some (slotWord h 0x10 o.bits)
  | .afadd h o => some (slotWord h 0x11 o.bits)
  | .mjld h o => some (slotWord h 0x12 o.bits)
  | .mjst h o => some (slotWord h 0x13 o.bits)
  | .fenceAcquire h o => some (slotWord h 0x14 o.bits)
  | .fenceRelease h o => some (slotWord h 0x14 o.bits)
  | .fenceFull h o => some (slotWord h 0x14 o.bits)
  | .fenceEngineComplete h o => some (slotWord h 0x14 o.bits)
  | .fencePublishVisible h o => some (slotWord h 0x14 o.bits)
  | .bar h o => some (slotWord h 0x15 o.bits)
  | .evpop h o => some (slotWord h 0x16 o.bits)
  | .evpost h o => some (slotWord h 0x17 o.bits)
  | .launch h o => some (slotWord h 0x18 o.bits)
  | .sysr h o => some (slotWord h 0x19 o.bits)
  | .sysw h o => some (slotWord h 0x1A o.bits)
  | .tq h o => some (slotWord h 0x1B o.bits)
  | .chsigReady h o => some (slotWord h 0x1C o.bits)
  | .chsigReturn h o => some (slotWord h 0x1C o.bits)
  | .brel h o => some (slotWord h 0x1D o.bits)
  | .vadd h o => some (slotWord h 0x01 o.bits)
  | .vsub h o => some (slotWord h 0x02 o.bits)
  | .vmul h o => some (slotWord h 0x03 o.bits)
  | .vmulh h o => some (slotWord h 0x04 o.bits)
  | .vfma h o => some (slotWord h 0x05 o.bits)
  | .vfms h o => some (slotWord h 0x06 o.bits)
  | .vfnma h o => some (slotWord h 0x07 o.bits)
  | .vmin h o => some (slotWord h 0x08 o.bits)
  | .vmax h o => some (slotWord h 0x09 o.bits)
  | .vabs h o => some (slotWord h 0x0A o.bits)
  | .vneg h o => some (slotWord h 0x0B o.bits)
  | .vand h o => some (slotWord h 0x0C o.bits)
  | .vor h o => some (slotWord h 0x0D o.bits)
  | .vxor h o => some (slotWord h 0x0E o.bits)
  | .vshl h o => some (slotWord h 0x0F o.bits)
  | .vshr h o => some (slotWord h 0x10 o.bits)
  | .vsra h o => some (slotWord h 0x11 o.bits)
  | .vcmp h o => some (slotWord h 0x12 o.bits)
  | .vsel h o => some (slotWord h 0x13 o.bits)
  | .vclamp h o => some (slotWord h 0x14 o.bits)
  | .vmov h o => some (slotWord h 0x15 o.bits)
  | .vbcs h o => some (slotWord h 0x16 o.bits)
  | .vext h o => some (slotWord h 0x17 o.bits)
  | .vins h o => some (slotWord h 0x18 o.bits)
  | .vred h o => some (slotWord h 0x19 o.bits)
  | .vshuf h o => some (slotWord h 0x1A o.bits)
  | .vrmg h o => some (slotWord h 0x1B o.bits)
  | .vcvt h o => some (slotWord h 0x1C o.bits)
  | .vpack h o => some (slotWord h 0x1D o.bits)
  | .vunpk h o => some (slotWord h 0x1E o.bits)
  | .vqnt h o => some (slotWord h 0x1F o.bits)
  | .vdqnt h o => some (slotWord h 0x20 o.bits)
  | .vdot4 h o => some (slotWord h 0x21 o.bits)
  | .vexp2 h o => some (slotWord h 0x22 o.bits)
  | .vlog2 h o => some (slotWord h 0x23 o.bits)
  | .vrcp h o => some (slotWord h 0x24 o.bits)
  | .vrsq h o => some (slotWord h 0x25 o.bits)
  | .vsqrt h o => some (slotWord h 0x26 o.bits)
  | .vtanh h o => some (slotWord h 0x27 o.bits)
  | .vmand h o => some (slotWord h 0x28 o.bits)
  | .vmor h o => some (slotWord h 0x29 o.bits)
  | .vmnot h o => some (slotWord h 0x2A o.bits)
  | .vmpop h o => some (slotWord h 0x2B o.bits)
  | .vrng h o => some (slotWord h 0x2C o.bits)
  | .vld h o => some (slotWord h 0x01 o.bits)
  | .vst h o => some (slotWord h 0x02 o.bits)
  | .vstm h o => some (slotWord h 0x03 o.bits)
  | .vldt h o => some (slotWord h 0x04 o.bits)
  | .vldh h o => some (slotWord h 0x05 o.bits)
  | .vsth h o => some (slotWord h 0x06 o.bits)
  | .vldx h o => some (slotWord h 0x07 o.bits)
  | .vstx h o => some (slotWord h 0x08 o.bits)
  | .vxfer h o => some (slotWord h 0x09 o.bits)
  | .vqpush h o => some (slotWord h 0x0A o.bits)
  | .vbld h o => some (slotWord h 0x0B o.bits)
  | .mlw h o => some (slotWord h 0x01 o.bits)
  | .mma h o => some (slotWord h 0x02 o.bits)
  | .mmar h o => some (slotWord h 0x03 o.bits)
  | .mzr h o => some (slotWord h 0x04 o.bits)
  | .mst h o => some (slotWord h 0x05 o.bits)
  | .mscl h o => some (slotWord h 0x06 o.bits)
  | .mnest h o => some (slotWord h 0x07 o.bits)
  | .mcop h o => some (slotWord h 0x08 o.bits)
  | .smv h o => some (slotWord h 0x09 o.bits)
  | .cpy h o => some (slotWord h 0x01 o.bits)
  | .cpg h o => some (slotWord h 0x02 o.bits)
  | .cps h o => some (slotWord h 0x03 o.bits)
  | .cptOffload h o => some (slotWord h 0x04 o.bits)
  | .cptFetch h o => some (slotWord h 0x04 o.bits)
  | .cpz h o => some (slotWord h 0x05 o.bits)
  | .coll h o => some (slotWord h 0x06 o.bits)
  | .pub h o => some (slotWord h 0x07 o.bits)
  | .cpf h o => some (slotWord h 0x08 o.bits)
  | .cpc h o => some (slotWord h 0x09 o.bits)
  | .txp h o => some (slotWord h 0x01 o.bits)
  | .txw h o => some (slotWord h 0x02 o.bits)
  | .hdef h o => some (slotWord h 0x01 o.bits)
  | .hadv h o => some (slotWord h 0x02 o.bits)
  | .hqry h o => some (slotWord h 0x03 o.bits)
  | .qcfg h o => some (slotWord h 0x04 o.bits)
  | .qspl h o => some (slotWord h 0x05 o.bits)
  | .bundle _ => none
  | .emptyBundle _ => none
  | .residencyChange _ _ _ => none
  | .blockEntry _ => none
  | .clearingTokenGrant _ => none
  | .startTokenGrant _ => none
  | .regulatorStep _ => none
  | .writeBack _ => none
  | .landing _ => none
  | .lockstepCompare _ _ _ => none
  | .rowStage _ => none
  | .engineCompletion _ _ => none
  | .repeatIteration _ => none
  | .nestCommand _ => none
  | .handleRowProduced _ _ => none
  | .queueArrival _ => none
  | .handlePointerUpdate _ => none
  | .eventRecordArrival _ => none
  | .barrierCompletion _ => none
  | .accessPerformed _ _ => none
  | .atomicAtUnit _ _ => none
  | .replayTimeout _ _ => none
  | .majorityCompletion _ => none
  | .majorityMemberDown _ _ => none
  | .majorityRepair _ => none
  | .majorityWalk _ => none
  | .mhsWrite _ _ _ => none
  | .publishFlip _ => none
  | .bankOwnershipPass _ _ => none
  | .intakeWrite _ _ _ => none
  | .slotConsume _ _ => none
  | .hubCopyComplete _ _ => none
  | .nodePlacement _ => none
  | .launchStart _ => none
  | .taskEntry _ => none
  | .nodeCompletion _ _ => none
  | .priorityPreemption _ _ => none
  | .restore _ => none
  | .contextCreate _ _ => none
  | .teardown _ => none
  | .teardownComplete _ => none
  | .preemptNode _ _ => none
  | .resumeNode _ _ => none
  | .eventCounterWrite _ _ _ => none
  | .containment _ _ => none
  | .packageHalt => none
  | .erackWrite _ _ => none
  | .peackWrite _ => none
  | .tlackWrite _ => none
  | .sramScrub _ _ => none
  | .hbmScrub _ _ => none
  | .raceTagSweep _ => none
  | .canopyPeriod _ => none
  | .islandRailOff _ => none
  | .thermalSample _ => none
  | .setIslandSlope => none
  | .setPackageSlope => none
  | .setPowerLimit => none
  | .gateIsland => none
  | .ungateIsland => none
  | .appendRetiredRange => none
  | .attestationReport => none
  | .packageReset _ => none
  | .functionReady _ _ => none
  | .partWrite _ _ => none
  | .tdecWrite _ _ _ => none
  | .portEnable _ => none
  | .portTrained _ _ _ => none
  | .flitReceive _ _ => none
  | .portFailure _ => none
  | .laneShed _ => none
  | .linkRetrained _ => none
  | .packetReceive _ _ => none
  | .ackReceive _ _ => none
  | .retransmitTimeout _ _ => none
  | .routeInstall _ _ => none
  | .refusalReplay _ _ => none
  | .collStepFailure _ => none
  | .secondTierNoRoute _ => none
  | .secondTierPortTrain _ _ => none
  | .hostMemoryAccess _ => none
  | .hostAtomic _ => none
  | .chainGo _ => none
  | .chainStop _ => none
  | .chainTick => none
  | .chainEntryComplete _ _ => none
  | .chainNotification _ _ _ => none
  | .slotReturn _ _ => none
  | .cslotWrite _ _ => none
  | .smaxWrite _ _ => none
  | .chainRegisterWrite _ _ _ => none
  | .migrationStart _ => none
  | .migrationReset _ => none
  | .migrationPhase _ _ => none
  | .registerWrite _ _ => none
  | .logAcknowledgment _ _ => none
  | .powerOn => none

/-- The slot position an instruction is encoded at (R55). -/
def Instr.slot? : Instr → Option Slot
  | .nop h => some h
  | .add h _ => some h
  | .sub h _ => some h
  | .addi h _ => some h
  | .and h _ => some h
  | .or h _ => some h
  | .xor h _ => some h
  | .andi h _ => some h
  | .ori h _ => some h
  | .xori h _ => some h
  | .shl h _ => some h
  | .shr h _ => some h
  | .sra h _ => some h
  | .shli h _ => some h
  | .shri h _ => some h
  | .srai h _ => some h
  | .mul h _ => some h
  | .mulh h _ => some h
  | .mulhz h _ => some h
  | .div h _ => some h
  | .divz h _ => some h
  | .rem h _ => some h
  | .remz h _ => some h
  | .min h _ => some h
  | .max h _ => some h
  | .minz h _ => some h
  | .maxz h _ => some h
  | .cmp h _ => some h
  | .cmpi h _ => some h
  | .csel h _ => some h
  | .movi h _ => some h
  | .movs h _ => some h
  | .clz h _ => some h
  | .popc h _ => some h
  | .bfx h _ => some h
  | .bfi h _ => some h
  | .fadd h _ => some h
  | .fsub h _ => some h
  | .fmul h _ => some h
  | .ffma h _ => some h
  | .fmin h _ => some h
  | .fmax h _ => some h
  | .fcmp h _ => some h
  | .fcvt h _ => some h
  | .fsgn h _ => some h
  | .pset h _ => some h
  | .pclr h _ => some h
  | .pand h _ => some h
  | .por h _ => some h
  | .pnot h _ => some h
  | .bra h _ => some h
  | .brf h _ => some h
  | .call h _ => some h
  | .ret h _ => some h
  | .jmp h _ => some h
  | .loop h _ => some h
  | .lbrk h _ => some h
  | .done h _ => some h
  | .trap h _ => some h
  | .eret h _ => some h
  | .yield h _ => some h
  | .loopi h _ => some h
  | .ld h _ => some h
  | .st h _ => some h
  | .ldx h _ => some h
  | .stx h _ => some h
  | .stg h _ => some h
  | .ldg h _ => some h
  | .aadd h _ => some h
  | .aand h _ => some h
  | .aor h _ => some h
  | .axor h _ => some h
  | .amin h _ => some h
  | .amax h _ => some h
  | .aminz h _ => some h
  | .amaxz h _ => some h
  | .axch h _ => some h
  | .acas h _ => some h
  | .afadd h _ => some h
  | .mjld h _ => some h
  | .mjst h _ => some h
  | .fenceAcquire h _ => some h
  | .fenceRelease h _ => some h
  | .fenceFull h _ => some h
  | .fenceEngineComplete h _ => some h
  | .fencePublishVisible h _ => some h
  | .bar h _ => some h
  | .evpop h _ => some h
  | .evpost h _ => some h
  | .launch h _ => some h
  | .sysr h _ => some h
  | .sysw h _ => some h
  | .tq h _ => some h
  | .chsigReady h _ => some h
  | .chsigReturn h _ => some h
  | .brel h _ => some h
  | .vadd h _ => some h
  | .vsub h _ => some h
  | .vmul h _ => some h
  | .vmulh h _ => some h
  | .vfma h _ => some h
  | .vfms h _ => some h
  | .vfnma h _ => some h
  | .vmin h _ => some h
  | .vmax h _ => some h
  | .vabs h _ => some h
  | .vneg h _ => some h
  | .vand h _ => some h
  | .vor h _ => some h
  | .vxor h _ => some h
  | .vshl h _ => some h
  | .vshr h _ => some h
  | .vsra h _ => some h
  | .vcmp h _ => some h
  | .vsel h _ => some h
  | .vclamp h _ => some h
  | .vmov h _ => some h
  | .vbcs h _ => some h
  | .vext h _ => some h
  | .vins h _ => some h
  | .vred h _ => some h
  | .vshuf h _ => some h
  | .vrmg h _ => some h
  | .vcvt h _ => some h
  | .vpack h _ => some h
  | .vunpk h _ => some h
  | .vqnt h _ => some h
  | .vdqnt h _ => some h
  | .vdot4 h _ => some h
  | .vexp2 h _ => some h
  | .vlog2 h _ => some h
  | .vrcp h _ => some h
  | .vrsq h _ => some h
  | .vsqrt h _ => some h
  | .vtanh h _ => some h
  | .vmand h _ => some h
  | .vmor h _ => some h
  | .vmnot h _ => some h
  | .vmpop h _ => some h
  | .vrng h _ => some h
  | .vld h _ => some h
  | .vst h _ => some h
  | .vstm h _ => some h
  | .vldt h _ => some h
  | .vldh h _ => some h
  | .vsth h _ => some h
  | .vldx h _ => some h
  | .vstx h _ => some h
  | .vxfer h _ => some h
  | .vqpush h _ => some h
  | .vbld h _ => some h
  | .mlw h _ => some h
  | .mma h _ => some h
  | .mmar h _ => some h
  | .mzr h _ => some h
  | .mst h _ => some h
  | .mscl h _ => some h
  | .mnest h _ => some h
  | .mcop h _ => some h
  | .smv h _ => some h
  | .cpy h _ => some h
  | .cpg h _ => some h
  | .cps h _ => some h
  | .cptOffload h _ => some h
  | .cptFetch h _ => some h
  | .cpz h _ => some h
  | .coll h _ => some h
  | .pub h _ => some h
  | .cpf h _ => some h
  | .cpc h _ => some h
  | .txp h _ => some h
  | .txw h _ => some h
  | .hdef h _ => some h
  | .hadv h _ => some h
  | .hqry h _ => some h
  | .qcfg h _ => some h
  | .qspl h _ => some h
  | .bundle _ => none
  | .emptyBundle _ => none
  | .residencyChange _ _ _ => none
  | .blockEntry _ => none
  | .clearingTokenGrant _ => none
  | .startTokenGrant _ => none
  | .regulatorStep _ => none
  | .writeBack _ => none
  | .landing _ => none
  | .lockstepCompare _ _ _ => none
  | .rowStage _ => none
  | .engineCompletion _ _ => none
  | .repeatIteration _ => none
  | .nestCommand _ => none
  | .handleRowProduced _ _ => none
  | .queueArrival _ => none
  | .handlePointerUpdate _ => none
  | .eventRecordArrival _ => none
  | .barrierCompletion _ => none
  | .accessPerformed _ _ => none
  | .atomicAtUnit _ _ => none
  | .replayTimeout _ _ => none
  | .majorityCompletion _ => none
  | .majorityMemberDown _ _ => none
  | .majorityRepair _ => none
  | .majorityWalk _ => none
  | .mhsWrite _ _ _ => none
  | .publishFlip _ => none
  | .bankOwnershipPass _ _ => none
  | .intakeWrite _ _ _ => none
  | .slotConsume _ _ => none
  | .hubCopyComplete _ _ => none
  | .nodePlacement _ => none
  | .launchStart _ => none
  | .taskEntry _ => none
  | .nodeCompletion _ _ => none
  | .priorityPreemption _ _ => none
  | .restore _ => none
  | .contextCreate _ _ => none
  | .teardown _ => none
  | .teardownComplete _ => none
  | .preemptNode _ _ => none
  | .resumeNode _ _ => none
  | .eventCounterWrite _ _ _ => none
  | .containment _ _ => none
  | .packageHalt => none
  | .erackWrite _ _ => none
  | .peackWrite _ => none
  | .tlackWrite _ => none
  | .sramScrub _ _ => none
  | .hbmScrub _ _ => none
  | .raceTagSweep _ => none
  | .canopyPeriod _ => none
  | .islandRailOff _ => none
  | .thermalSample _ => none
  | .setIslandSlope => none
  | .setPackageSlope => none
  | .setPowerLimit => none
  | .gateIsland => none
  | .ungateIsland => none
  | .appendRetiredRange => none
  | .attestationReport => none
  | .packageReset _ => none
  | .functionReady _ _ => none
  | .partWrite _ _ => none
  | .tdecWrite _ _ _ => none
  | .portEnable _ => none
  | .portTrained _ _ _ => none
  | .flitReceive _ _ => none
  | .portFailure _ => none
  | .laneShed _ => none
  | .linkRetrained _ => none
  | .packetReceive _ _ => none
  | .ackReceive _ _ => none
  | .retransmitTimeout _ _ => none
  | .routeInstall _ _ => none
  | .refusalReplay _ _ => none
  | .collStepFailure _ => none
  | .secondTierNoRoute _ => none
  | .secondTierPortTrain _ _ => none
  | .hostMemoryAccess _ => none
  | .hostAtomic _ => none
  | .chainGo _ => none
  | .chainStop _ => none
  | .chainTick => none
  | .chainEntryComplete _ _ => none
  | .chainNotification _ _ _ => none
  | .slotReturn _ _ => none
  | .cslotWrite _ _ => none
  | .smaxWrite _ _ => none
  | .chainRegisterWrite _ _ _ => none
  | .migrationStart _ => none
  | .migrationReset _ => none
  | .migrationPhase _ _ => none
  | .registerWrite _ _ => none
  | .logAcknowledgment _ _ => none
  | .powerOn => none

/-- The opcode of an instruction within its class (R75 to R79), for SNW's OPC (R213). -/
def Instr.opcode (i : Instr) : BitVec 8 :=
  match encode i with
  | some w => w.extractLsb' 34 8
  | none => 0

end Sys2Proof
end

