-- ==== Sys2Proof/Config.lean ====
section
/-!
DEFINITION. The values the spec leaves open, as constants without a body: nothing can be proved of a value
they take. A constant that is applied to a counter of State gives a fresh value each time.
-/
namespace Sys2Proof.Config

/-- What an engine reads inside a range at an address that no entry maps: R164 translates the first and the
last byte only (log 13). -/
opaque gapRow : Nat → Row

/-- The format register of a bank of another package (R301), by physical address (log 14). -/
opaque remoteFmt : Nat → BitVec 32

/-- Is a package that is no neighbour of the stage in the chain of a context (R305, R339)? The package's own state names
its neighbours only (log 61). -/
opaque chainHas : Nat → Nat → Bool

/-- The log positions that a replay starts and ends at (R362): the driver captures the first, and no rule names the register
by which it sets them. Applied to the counter `fresh` (log 58). -/
opaque replaySpan : Nat → Nat × Nat

/-- How many launches of a cross-package barrier group other packages have created (R274). Applied to the counter `fresh`
(log 39). -/
opaque groupFar : Nat → Nat

/-- The 16 bytes of an undo-log entry, by the word's address, the opcode, the operand, the old and the new value (R394): the
spec gives their number and no layout (log 69). -/
opaque undoEntry : Nat → Nat → Word → Word → Word → BitVec 128

/-- The place of an entry in the undo log's ring, which the running nodes of a context divide among them (R394). Applied to
the counter `fresh` (log 69). -/
opaque undoPlace : Nat → Nat

/-- Has a second-tier device room for a range (R190, R411)? Applied to the counter `fresh` (log 15). -/
opaque tierRoom : Nat → Bool

/-- The stash count after a completion whose negative `SDL` exceeds it (R345). Applied to the counter `fresh`
(log 16). -/
opaque stashBelow : Nat → BitVec 8

/-- The place that the dispatcher allocates for a dropped region (R298). Applied to the counter `fresh` (log 18). -/
opaque backing : Nat → Nat

/-- Which copies of a majority cell answer first (R151). Applied to 8 x the counter `fresh` and the place (log 19). -/
opaque mjFirst : Nat → Nat

/-- The configuration record as the module shipped, by its copy and the number of a field (R434, log 7). -/
opaque flash : Nat → Nat → Nat

/-- The retirement list of the configuration record as the module shipped, by its copy (R434, log 7). -/
opaque flashRetire : Nat → List (BitVec 48)

/-- SHA-384 of a configuration record with its fields (R436, log 8). -/
opaque recHash : List Nat → BitVec 384

/-- The hashes of an attestation report of what never changes, by their place from the record's, 0, on in the order of R436 (log 8). -/
opaque hash : Nat → BitVec 384

/-- The rows of a saved core's image: row of the core's part of the save area, and data (R385). The spec lays no image out.
Applied to the counter `fresh` (log 71). -/
opaque saveImage : Nat → List (Nat × Row)

/-- The number that the dispatcher gives the next node of a context created for replay (R362). Applied to the counter `fresh`
(log 58). -/
opaque replayNode : Nat → Nat

/-- The two signatures over the 512-byte body of an attestation report (R259, R436, log 8). -/
opaque signatures : BitVec 4096 → BitVec 65920

/-- The CXL opcode of a host AtomicOp (R398 kind 0x0A), by operation and size in bits (log 21). -/
opaque cxlOpcode : Nat → Nat → Nat

end Sys2Proof.Config
end

