-- ==== Sys2Proof/Machine/State.lean ====
section
/-!
DEFINITION. The state of one package of the Trieno TN960 as plain data: the cores with everything in
flight in them, the memory with its side bands, the hub, the fabric and the canopy, and the state
after package reset. Register files are tables with a default (`Tbl`); an entry that is not listed
holds the default its accessor names, which is its reset value.
-/
namespace Sys2Proof.Machine

/-- Why a step stops. -/
inductive Fault where
  /-- Raised when an access, a scrub or a host request names storage that R289 and R290 say does not
  exist. Safe: nothing is claimed of what such an access would do. -/
  | noStorage (pa : Nat)
deriving DecidableEq, Repr

/-- Why a step has no meaning. -/
inductive Refusal where
  /-- Raised by an arm of `exec` that has no meaning yet. Safe: the machine claims nothing. -/
  | notModelled (mnemonic : String)
deriving DecidableEq, Repr

/-! ### A stream -/

/-- What a stream waits to fetch at its program counter (R65, R66). -/
inductive Due where
  /-- Nothing: the stream is idle, stopped or saved. -/
  | nothing
  /-- A bundle inside the current extent. -/
  | bundle
  /-- A block header: a transfer out of the extent, a fall through at E, or a `ret` (R102). -/
  | header
  /-- A `done` has issued and waits for its drains (R106). -/
  | done
  /-- A `yield` has issued and drains (R109). -/
  | yield
  /-- An `eret` has issued and drains (R212). -/
  | eret
deriving DecidableEq, Repr

/-- The destination of an operation in flight (R28, R213). -/
inductive Dst where
  | none
  | s (n : Nat)
  | f (n : Nat)
  | v (c n : Nat)
  | m (c n : Nat)
deriving DecidableEq, Repr

/-- The shape in which landed data is written (R139, R144, R148). -/
inductive Shape where
  | row
  /-- The word repeated in every pair of lanes (`vbld`). -/
  | bcast
  | word
  /-- The half of the word that an `afadd` returns (R148). -/
  | half (hi : Bool)
deriving DecidableEq, Repr

/-- Which result latch an operation also writes (R17). -/
inductive Latched where
  | none
  | la
  | lm
deriving DecidableEq, Repr

/-- One operation that has issued and not yet written its result (R28). At the boundary after counted cycle c, `rem`
is r - c for a result first readable by the bundle of cycle r; a result of latency 1 stands at 0 in its own open cycle,
at whose end it is written (R57). -/
structure Flight where
  slot    : BitVec 5
  opc     : BitVec 8
  dst     : Dst
  /-- The bits of the destination that are written. -/
  mask    : Row
  val     : Row
  latch   : Latched
  rem     : Nat
  /-- The flags the operation raises, in the order of FPC[13:8] (R23). -/
  flags   : BitVec 6
  rm      : BitVec 2
  en      : BitVec 5
  fz      : Bool
  pc      : BitVec 48
  /-- A timed landing: the request it awaits and whether the data has arrived (R26). -/
  landing : Bool
  shape   : Shape
  req     : Nat
  got     : Bool
  /-- The row consumed carried an uncorrectable error (R392). -/
  bad     : Option Nat
  /-- The operation raised an enabled exception (R41). -/
  fpx     : Bool
  /-- A landing whose named cycle has come without its data (R26). -/
  late    : Bool
  /-- The bits of its latch that a later-issued operation of latency 1 has written in the same core cycle (R17). The
  model's own. -/
  hid     : Row := 0
deriving DecidableEq, Repr

/-- The matrix commands that run in the ports (R167). -/
inductive MxOp where
  | mlw
  | mma
  | mmar
  | mzr
  | mst
  | mscl
  | mcop
deriving DecidableEq, Repr

/-- One matrix command accepted and not complete (R167), with what it captured at acceptance. Row
addresses are slice rows of the own slice. -/
structure MxCmd where
  op    : MxOp
  slot  : BitVec 5
  opc   : BitVec 8
  pc    : BitVec 48
  cf    : BitVec 4
  ce    : Bool
  /-- Commands the array had accepted with this one, for the record's TAG (R201). -/
  num   : Nat
  /-- An internal command of the running nest (R180). -/
  sub   : Bool
  /-- Counted cycles since the accepting one in which the engine ran. -/
  age   : Nat
  /-- Counted cycles that it has still to wait in the engine behind commands accepted before it, and those that it has waited
  (R163). The model's own. -/
  wait  : Nat := 0
  lag   : Nat := 0
  /-- Slice rows of its ranges in banks that the core did not own at acceptance: the command waits for them in the engine
  (R163, R278). -/
  bank  : List Nat := []
  /-- Rows, the next row to stage, the row rate, and D of R167. -/
  rows  : Nat
  next  : Nat
  rho   : Nat
  d     : Nat
  wl    : Nat
  ac    : Nat
  ar    : Nat
  a     : Nat
  apt   : Nat
  dpt   : Nat
  zr    : Bool
  /-- The source position of an `mcop` (R178). -/
  src   : Nat
  /-- The format registers captured (R49), by bank. -/
  fmts  : Tbl (BitVec 32)
  /-- The format error of R166: the command writes nothing. -/
  ferr  : Bool
  fz    : Bool
  rm    : BitVec 2
  en    : BitVec 5
  nsat  : Nat
  ninv  : Nat
  ninx  : Nat
deriving DecidableEq, Repr

/-- The running continuation of a repeat (R181). -/
structure Rep where
  slot : Slot
  /-- Opcode and operands of the repeated command. -/
  opc  : BitVec 8
  o    : EnF
  /-- The next iteration and the iterations still to issue. -/
  j    : Nat
  left : Nat
  fz   : Bool
  rm   : BitVec 2
  en   : BitVec 5
  pc   : BitVec 48
  /-- s[sa] as it stood before the bundle. -/
  base : Word
  /-- The staging set the command copied (R22). -/
  set  : Tbl Word
deriving DecidableEq, Repr

/-- The running nest (R180). -/
structure Nest where
  slot : Slot
  o    : EnF
  idx  : List Nat
  /-- Internal commands of this index vector issued, and whether all of the nest's have been. -/
  pos  : Nat
  tail : Bool
  base : Word
  /-- The staging set the command copied (R22). -/
  set  : Tbl Word
  fz   : Bool
  rm   : BitVec 2
  en   : BitVec 5
  pc   : BitVec 48
  num  : Nat
  /-- What its completed internal commands have reported (R165). -/
  nsat : Nat
  ninv : Nat
  ninx : Nat
  ferr : Bool
deriving DecidableEq, Repr

/-- The transpose command in flight (R195, R196): the rows read are taken at completion. -/
structure TxCmd where
  txw  : Bool
  pc   : BitVec 48
  cf   : BitVec 4
  ce   : Bool
  age  : Nat
  busy : Nat
  done : Nat
  wl   : Nat
  src  : Nat
  dst  : Nat
  sp   : Nat
  dp   : Nat
  nr   : Nat
  nc   : Nat
  ew   : Nat
  fmts : Tbl (BitVec 32)
  ferr : Bool
  rm   : BitVec 2
  en   : BitVec 5
  fz   : Bool
  num  : Nat
  buf  : List (BitVec 4096)
  /-- Slice rows in banks that the core did not own at acceptance (R163, R278). -/
  bank : List Nat := []
deriving DecidableEq, Repr

/-- Everything in flight in the core clock domain of a stream (R28), in one pipeline mode. -/
structure Pipe where
  ops    : List Flight
  mx     : List MxCmd
  rep    : Option Rep
  nest   : Option Nest
  tx     : List TxCmd
  merged : Bool
deriving DecidableEq, Repr

/-- The current block (R64, R65). -/
structure Block where
  hdr : BitVec 48
  ext : BitVec 48
  pt  : BitVec 3
  rrg : Bool
deriving DecidableEq, Repr

/-- The clearing state of R231. -/
structure Clearing where
  /-- The point of the block in which the core stands. -/
  pt    : BitVec 3
  dep   : Nat
  nom   : Nat
  steps : Nat
  cyc   : Nat
  lim   : Nat
deriving DecidableEq, Repr

/-- The trap frame, registers 0x020 to 0x02C (R208), with the snapshots and the clearing it holds. -/
structure Frame where
  tcause : Word
  tpc    : BitVec 48
  tfa    : BitVec 48
  targ   : Word
  tflg   : BitVec 16
  tfpc   : BitVec 32
  tblk   : BitVec 48
  tlc0   : BitVec 32
  tlb0   : BitVec 48
  tle0   : BitVec 48
  tlc1   : BitVec 32
  tlb1   : BitVec 48
  tle1   : BitVec 48
  snsel  : BitVec 8
  held   : Pipe
  clr    : Clearing
  /-- The interrupted block, to which `eret` returns when the handler leaves `tblk` (R212). -/
  blk    : Block
  /-- A `done` or `yield` whose drain the trap interrupted (R106, R109). The model's own. -/
  due    : Due
  /-- Traps of the same boundary that wait for the return. The model's own. -/
  more   : List (BitVec 64 × BitVec 48 × Word)
deriving DecidableEq, Repr

/-- The parts of a counted cycle after its bundle: row stages, the results written at commit, completions of the
array and the transpose engine, the regulator's step. The model's own. -/
inductive CycPart where
  | rows
  | writes
  | ends
  | txEnds
  | step
deriving DecidableEq, Repr

/-- One instruction stream (R9, R29): registers, program counter and frame. -/
structure Stream where
  s     : Tbl Word
  f     : BitVec 16
  lc0   : BitVec 32
  lb0   : BitVec 48
  le0   : BitVec 48
  lc1   : BitVec 32
  lb1   : BitVec 48
  le1   : BitVec 48
  rc    : BitVec 16
  pc    : BitVec 48
  due   : Due
  blk   : Block
  /-- The issue conditions that the bundle or block entry at `pc` has passed (R59, R136, R221). -/
  stage : Nat
  /-- The translations under which the bundle at `pc` passed its faults while a later condition holds it (R136). The
  model's own. -/
  tabAt : Option (Tbl TEntry)
  pipe  : Pipe
  frame : Frame
  ccnt  : BitVec 64
  /-- Traps that wait for the next bundle boundary (R41, R162, R178, R392): code + 2^8 x slot + 2^16 x AUX,
  the faulting address, the argument. -/
  pend  : List (BitVec 64 × BitVec 48 × Word)
  /-- After `eret` into another block: where its first bundle issues (R212). -/
  resume : Option (BitVec 48)
  /-- The regulator has to reach the restore code before the next counted cycle (R231). -/
  resto : Bool
  /-- The parts of the open counted cycle still to run. The model's own. -/
  cyc   : List CycPart
  /-- The sides whose landing entries were freed in the counted cycle about to open (R26). The model's own. -/
  freed : List Nat
  /-- The scalar understory words that the bundle of the open counted cycle writes (R18). The model's own. -/
  ust   : List Nat
  /-- Identities below this were issued before the open counted cycle (R169). The model's own. -/
  mark  : Nat
  /-- The repeat or nest has issued for the cycle about to open (R180, R181): the weight it adds. The model's
  own. -/
  contd : Option Nat
  /-- The limiter holds the bundle until the clearing ends (R224). -/
  lheld : Bool
  /-- The bits of `FPC` that results written for the counted cycle about to open have set: a write of `FPC` in that cycle
  does not lose them (R24). The model's own. -/
  raised : BitVec 32 := 0
  /-- The scope of the stream's last fence, where that fence makes its later stores releases (R312). -/
  relF  : Option Nat
  /-- The row of the majority operation that the bundle at `pc` waits for, once performed (R151). -/
  mjok  : Option Row
deriving DecidableEq, Repr

/-! ### A core -/

/-- One cluster (R15 to R17, R25). -/
structure Cluster where
  v   : Tbl Row
  m   : Tbl (BitVec 16)
  la  : Row
  lm  : Row
  und : Tbl Row
deriving DecidableEq, Repr

/-- One entry of a queue: its data, its pusher's agent id, its node (context, sequence number), and
whether the push was a release (R159, R160, R323). -/
structure QEnt where
  id   : Nat
  data : Row
  src  : Nat
  ctx  : Nat
  node : Nat
  rel  : Bool
deriving DecidableEq, Repr

/-- The spill ring of a queue (R162). -/
structure Ring where
  base  : Nat
  size  : Nat
  quota : Nat
  head  : Nat
  ents  : List QEnt
deriving DecidableEq, Repr

/-- One inbound queue (R19, R159 to R162). -/
structure Queue where
  ents  : List QEnt
  cfg   : BitVec 3
  ring  : Option Ring
  qov   : Bool
  /-- Producers seen since launch start, for the order log (R355). -/
  prods : List Nat
deriving DecidableEq, Repr

/-- One weight latch (R21, R173, R174). -/
structure WLatch where
  fmt    : BitVec 4
  gs     : BitVec 2
  rows   : Tbl (BitVec 2048)
  scales : Tbl Row
deriving DecidableEq, Repr

/-- One accumulator row: whether its last writer wrote S32, and its 128 words (R21). -/
structure AccRow where
  int  : Bool
  bits : BitVec 4096
deriving DecidableEq, Repr

/-- What a request does at its home (R307, R146). -/
inductive ReqOp where
  | load
  | store
  | atom (opc : BitVec 8)
deriving DecidableEq, Repr

/-- A memory request that has left a stream and is not yet performed (R57, R307). -/
structure Req where
  id   : Nat
  side : Bool
  slot : BitVec 5
  pc   : BitVec 48
  op   : ReqOp
  pa   : Nat
  /-- 64 for a row form, 8 for a word form. -/
  len  : Nat
  data : Row
  mask : BitVec 64
  cmp  : Word
  acq  : Bool
  rel  : Bool
  scp  : Nat
  /-- The handle through which a `vldh` or `vsth` goes (R157). -/
  hnd  : Option Nat
  /-- Requests that must be performed first (R308 to R310, R324). -/
  wait : List Nat
  /-- In protected mode, the bundle whose compare it awaits (R29). -/
  stg  : Option Nat
  /-- The packet of the source retry buffer that carries it to another package (R404). -/
  sent : Bool
  /-- Its write counts as a release: by its order or by a fence before it (R310, R312). -/
  sig  : Bool
  /-- It is a `vstm`, which leaves a poisoned row poisoned whatever its mask (R391). -/
  part : Bool := false
  /-- The node whose task issued it: context and sequence number (R355). -/
  ctx  : Nat := 0
  node : Nat := 0
  /-- It is a row that an array or the transpose engine wrote behind the core's own stores to it (R169). The model's own. -/
  eng  : Bool := false
deriving DecidableEq, Repr

/-- A write that a copy command makes: physical row, data, bytes, 1 or 2 for an FP32 or S32 addition; for compressed
gradients, the group size and the headers of the elements (R193). -/
structure CpWr where
  pa   : Nat
  data : Row
  mask : BitVec 64
  add  : Nat
  grp  : Nat := 0
  hdrs : List Nat := []
deriving DecidableEq, Repr

/-- A copy-engine command accepted and not complete (R184). -/
structure CpCmd where
  num  : Nat
  opc  : BitVec 8
  slot : BitVec 5
  pc   : BitVec 48
  side : Bool
  cf   : BitVec 4
  ce   : Bool
  prm  : BitVec 21
  /-- The current staging set, with s[sa] already added to `CD`. -/
  w    : List Word
  /-- The translations of acceptance (R297). -/
  tab  : Tbl TEntry
  /-- The format registers of acceptance (R49), by bank number grove and core included. -/
  fmts : Tbl (BitVec 32)
  /-- Rows of a handle-producing command already produced (R189). -/
  made : Nat
  /-- Bytes already decoded or counts already reported by the command. -/
  nsat : Nat
  ninv : Nat
  ninx : Nat
  sts  : BitVec 4
  /-- The retries a `coll` has spent (R192). -/
  tries : Nat
  /-- 0 accepted, 1 its effects have left the engine and packets are out, 2 written (R165). -/
  phase : Nat
  /-- Rows of other packages it has asked for, and those that have come (R403). -/
  asked : List Nat
  got   : List (Nat × Row)
  /-- The publish of the command has completed (R194). -/
  flip : Bool
  /-- Its publish has been performed: the number of its broadcast (R322). -/
  pub  : Option Nat := none
  /-- Its writes that the order log holds at their units (R358). -/
  left : List CpWr := []
  /-- Rows of other packages that came with an uncorrectable error (R392). -/
  bads : List Nat := []
  /-- A destination has returned an error for its step (R410). -/
  err  : Bool := false
  /-- The hub tick of its acceptance (R411). -/
  tick : Nat := 0
  /-- Earlier requests of the issuing stream that its reads follow (R184). -/
  wait : List Nat
  stg  : Option Nat
deriving DecidableEq, Repr

/-- An `smv` command at its stack (R179). -/
structure SmvCmd where
  num  : Nat
  pc   : BitVec 48
  cf   : BitVec 4
  ce   : Bool
  hd   : BitVec 4
  fmt  : BitVec 2
  gs   : BitVec 2
  n    : Nat
  k    : Nat
  a    : Nat
  b    : Nat
  h    : Nat
  made : Nat
  fz   : Bool
  /-- The translations of acceptance (R297). -/
  tab  : Tbl TEntry := []
  /-- The format error of an ECW bank (R49), and a poisoned row of the vector (R392). -/
  ferr : Bool
  bad  : Option Nat
  nsat : Nat
  ninv : Nat
  ninx : Nat
  /-- The vector, taken when the core owns its banks. -/
  vec  : List Row
  /-- Slice rows of the vector in banks that the core does not own yet: the vector has still to be taken (R163, R278). -/
  bank : List Nat := []
  /-- Identities below this were given before its acceptance: its vector follows the stores of those. The model's own. -/
  mark : Nat := 0
  wait : List Nat
  stg  : Option Nat
deriving DecidableEq, Repr

/-- An event record: header and payload (R201). -/
structure EvRec where
  hdr : Word
  pay : Word
  /-- It was posted with release (R203, R323). -/
  rel : Bool := false
deriving DecidableEq, Repr

/-- Whether a core runs (R385, R386, R296). -/
inductive RunState where
  | idle
  | running
  /-- Saved: an image of the core stands in its context's save area. -/
  | saved
  /-- Stopped by containment or by a double trap (R211, R393). -/
  | stopped
deriving DecidableEq, Repr

/-- The launch a core runs (R272): its node, allotment, handler, logical index and tiles. -/
structure Task where
  ctx  : Nat
  node : Nat
  alb  : Nat
  aln  : Nat
  hnd  : Option (BitVec 48)
  ent  : BitVec 48
  k    : Nat
  c    : Nat
  /-- Next linear index and how many tiles remain under fixed placement (R269). -/
  next : Nat
  left : Nat
  /-- A tile is running on the core. -/
  live : Bool
deriving DecidableEq, Repr

/-- The tokens of a core (R229, R230): requested and granted, for clearings and for starts. -/
structure Tokens where
  clrReq : Bool
  clrGot : Bool
  stReq  : Bool
  stGot  : Bool
deriving DecidableEq, Repr

/-- Why a core stays saved (R385, R430, R296). -/
inductive SaveCause where
  | prs
  | gate
  | page (region : Nat)
  | priority (ctx node : Nat)
deriving DecidableEq, Repr

/-- One broadcast A row (R178): its source position, its number, the pass's row count, its parts; the format registers of
the banks of the pass's A rows, whether every row begins at a group of its bank, and the headers of the row's groups
(R52, R166). -/
structure Cast where
  src   : Nat
  row   : Nat
  count : Nat
  parts : List Row
  regs  : List (BitVec 32)
  atGrp : Bool
  hdrs  : List Nat
deriving DecidableEq, Repr

/-- A core outside its sequencer pair's rollback buffer: all the state a bundle can change. -/
structure Arch where
  main   : Stream
  side   : Stream
  cl     : Tbl Cluster
  q      : Tbl Queue
  h      : Tbl Word
  hqv    : Word
  w      : Tbl WLatch
  acc    : Tbl (Tbl AccRow)
  /-- Shadow and current staging sets, 0 MX, 1 CP, 2 TX (R22). -/
  shd    : Tbl (Tbl Word)
  cur    : Tbl (Tbl Word)
  fpc    : BitVec 32
  und    : Tbl Word
  reqs   : List Req
  cp     : List CpCmd
  smv    : List SmvCmd
  /-- Broadcast rows received by `mcop` and not yet staged (R178). -/
  bcast  : List Cast
  /-- Commands accepted since launch start, by engine (R201). -/
  nacc   : Tbl Nat
  evq    : List EvRec
  evdrop : Nat
  lost   : Bool
  bfmt   : Tbl (BitVec 32)
  disc   : BitVec 32
  /-- Banks the launch declared and banks the running task released (R133, R163). -/
  decl   : BitVec 32
  rlsd   : BitVec 32
  tab    : Tbl TEntry
  clr    : Clearing
  vcode  : Nat
  regCyc : Nat
  regTgt : Nat
  tok    : Tokens
  phn    : BitVec 8
  /-- The acquire set; none is the set of all ids (R317). -/
  aset   : Option (List Nat)
  pids   : List Nat
  /-- Barriers at which the core has arrived: scope, id, and whether that phase has completed (R200). -/
  arrv   : List (Nat × Nat × Bool)
  sweep  : Bool
  task   : Option Task
  run    : RunState
  /-- Preemptions requested by the dispatcher, for the next boundary, by their causes (R385). -/
  preq   : List SaveCause
  /-- Handle pointers that a peer moved in the core cycle about to open: handle and whether the producer's (R20). The
  model's own. -/
  moved  : List (Nat × Bool)
deriving DecidableEq, Repr

/-- A core (R9, R29). -/
structure Core where
  arch  : Arch
  /-- Sequencer mode: true is split (R29, register SPLIT). -/
  split : Bool
  /-- In protected mode: the bundles issued and not yet compared, oldest first, each with its
  sequence number, its age in counted cycles, its address and the state it replaced (R29). -/
  roll  : List (Nat × Nat × BitVec 48 × Arch)
  seq   : Nat
deriving DecidableEq, Repr

/-! ### Messages, contexts and nodes -/

/-- What travels between cores of the package (R157, R160, R203). -/
inductive Msg where
  /-- An entry for a queue (R159). -/
  | push (q : Nat) (e : QEnt)
  /-- A pointer update for the handle of the same number (R153). -/
  | pointer (h : Nat) (prd : Bool) (v : BitVec 13)
  /-- An event record (R201). -/
  | event (r : EvRec)
deriving DecidableEq, Repr

/-- A message on its way (R309): its sender, its target core, and the requests of the sender that
must be performed first. -/
structure NetMsg where
  src  : Nat
  side : Bool
  dst  : Nat
  msg  : Msg
  wait : List Nat
  /-- It holds an entry of the sender's outbound buffer (R160). -/
  out  : Bool
  stg  : Option Nat
  /-- The node of the sender, 0 for the dispatcher. -/
  ctx  : Nat := 0
  node : Nat := 0
  /-- The launch that a record of the dispatcher is for: context and node, 0 for none named (R282, R386). -/
  toCtx  : Nat := 0
  toNode : Nat := 0
deriving DecidableEq, Repr

/-- Where a node came from (R263, R344, R298). -/
inductive NodeSrc where
  | host (q sub : Nat)
  | core (core : Nat) (side : Bool)
  | chain (entry : Nat)
  | producer (region : Nat)
deriving DecidableEq, Repr

/-- How far a node is (R276, R281). -/
inductive NodeState where
  | waiting
  | ready
  | placed
  /-- Preempted by a `PRS` write (R385). -/
  | stopped
deriving DecidableEq, Repr

/-- One undo entry of a restartable node (R394): the word, the atomic's opcode, its operand, the
value it replaced and the value it wrote. -/
structure Undo where
  pa  : Nat
  opc : BitVec 8
  b   : Word
  old : Word
  new : Word
deriving DecidableEq, Repr

/-- A node of the task graph (R263 to R282, R360, R393, R394). -/
structure Node where
  record : BitVec 1024
  src    : NodeSrc
  st     : NodeState
  /-- The cores of the stand in logical order (R267), once placed. -/
  stand  : List Nat
  draw   : Nat
  /-- Cores that have departed (R272) and cores whose launch start has run. -/
  gone   : List Nat
  begun  : List Nat
  restart : Bool
  undo   : List Undo
  /-- Regions published, and the side of every shadowed region at the node's first launch start (R360). -/
  pubs   : List Nat
  sides  : List (Nat × Bool)
  /-- The undo of an atomic in another package is under way: its result once it has come (R394). The model's own. -/
  back   : Option (Option Word)
  reruns : Nat
  log0   : Nat
  log1   : Nat
  /-- The hub tick in which it became ready (R279, R385). -/
  since  : Nat
  /-- The entry word of a chain node (R344). -/
  word   : Option Word
  /-- A K trap has stopped it: the trap code and whether an undo has failed (R393). -/
  kill   : Option (Nat × Bool)
  /-- How deep a producer run is nested in others (R298). -/
  depth  : Nat
  /-- The hub tick of its acceptance (R384). -/
  born   : Nat
  /-- Requests of its tasks that were not performed when a core departed: core and request (R276). The model's own. -/
  late   : List (Nat × Nat)
  /-- The node whose task launched it from a core, 0 for none (R277, R386). -/
  parent : Nat := 0
  /-- The hub tick from which, ready and admitted, it has waited for cores that launches of priority 2 or 3 hold (R385). -/
  waits  : Option Nat := none
deriving DecidableEq, Repr

/-- A launch queue of a context (R379 to R381). -/
structure LQueue where
  base : BitVec 56
  int  : Bool
  kind : Bool
  en   : Bool
  head : BitVec 7
  tail : BitVec 7
  /-- Submissions consumed, counted without wrap, and those consumed and not complete. -/
  subs : Nat
  busy : List Nat
  /-- The last write of the intake row in this hub tick (R380). -/
  want : Option Row
  /-- The copy control blocks being performed (R383): submission and block. -/
  copies : List (Nat × BitVec 1024)
deriving DecidableEq, Repr

/-- A chain context (R339, R348). -/
structure Chain where
  w0     : Word
  w8     : Word
  crec   : Word
  dfree  : Nat
  smax   : Nat
  stash  : Nat
  why    : Nat
  cur    : Nat
  cpass  : BitVec 32
  cslot  : BitVec 16
  cerr   : Word
  bub    : Tbl Word
  rdy    : Tbl (BitVec 32)
  ents   : Tbl (BitVec 128)
  /-- The advertised count, once a first GO has been written (R347). -/
  adv    : Option Nat
  /-- Entries started and not complete: pass (0 for an earlier walk), entry, node. -/
  open_  : List (Nat × Nat × Nat)
  goHeld : Bool
  /-- What each ready counter and `DFREE` have risen by in this hub tick, seen from the next on (R343). -/
  ups    : Tbl Nat
  dup    : Nat
  /-- What the stash count has fallen by in this hub tick, seen from the next on (R343, R373). The model's own. -/
  sdn    : Nat := 0
deriving DecidableEq, Repr

/-- A chain signal at the hub's intake (R205): its core and stream, whether it returns slots, its
counter and amount, the requests it waits for, the bundle whose compare it awaits (R29). -/
structure Sig where
  core : Nat
  side : Bool
  ret  : Bool
  ctr  : Nat
  amt  : Nat
  wait : List Nat
  stg  : Option Nat := none
deriving DecidableEq, Repr

/-- A context (R378, R379). -/
structure Ctx where
  state  : BitVec 2
  record : BitVec 1024
  tdq    : BitVec 32
  tddev  : BitVec 32
  qs     : Tbl LQueue
  erhead : BitVec 32
  eirq   : Bool
  erack  : BitVec 32
  erlost : Nat
  vector : Bool
  shtb   : BitVec 56
  shtn   : BitVec 16
  ctrs   : Tbl (BitVec 32)
  next   : Nat
  imgs   : Tbl Image
  intake : Nat
  /-- Deficits by priority (R279). -/
  defic  : Tbl Nat
  nodes  : Tbl Node
  logpos : Nat
  logack : Nat
  logbad : Bool
  logm   : BitVec 8
  /-- Next `SEQ` of each unit with records: kind and unit, and the count (R356). -/
  logseq : List (Nat × Nat × Nat)
  /-- Replay: records used of each unit (R358). -/
  replay : List (Nat × Nat × Nat)
  /-- Held arrivals (R358): unit, agent, the tick at which each was held, and its node. -/
  held   : List (Nat × Nat × Nat × Nat)
  /-- The log positions that replay goes from and to (R362). -/
  logs   : Nat
  loge   : Nat
  chain  : Option Chain
  /-- Chain signals at the hub's intake (R205). -/
  sigs   : List Sig
  /-- Page requests posted to the driver, by region (R296). -/
  pages  : List Nat
  /-- The log range of the node that last wrote each tensor with a producer, and whether the log was whole
  (R359): region, start, end. -/
  ranges : List (Nat × Nat × Nat × Bool)
  /-- The second-tier copy left by the `cpt` that dropped each region (R298): region, address. -/
  left   : List (Nat × Nat)
  /-- Launches created of each cross-package barrier group, and whether its count is known to be full (R274). -/
  made   : Tbl (Nat × Bool)
  /-- Dropped regions that tasks have met and the dispatcher has not taken up: region, consuming node (R298). -/
  drops  : List (Nat × Nat)
  /-- Counters that have risen in this hub tick: the waits on them are evaluated again in the next (R276). The model's own. -/
  rose   : List Nat := []
deriving DecidableEq, Repr

/-- A barrier instance with arrivals (R200): context, node, scope, id, instance number, arrivals. -/
structure Barrier where
  ctx  : Nat
  node : Nat
  scp  : Nat
  id   : Nat
  inst : Nat
  arr  : List Nat
deriving DecidableEq, Repr

/-- A saved core (R385, R386): its node, its state, the causes that hold it, the messages held for it. -/
structure Save where
  core   : Nat
  ctx    : Nat
  node   : Nat
  arch   : Arch
  split  : Bool
  causes : List SaveCause
  holds  : List NetMsg
  /-- The bytes of the kept banks and of the argument rows, their race tags, and the first of their rows that
  carries a poison mark. -/
  mem    : List Host.Cell
  tags   : Tbl (BitVec 32)
  bad    : Option Nat
deriving DecidableEq, Repr

/-- A ring of records in HBM (R399, R438). -/
structure RecRing where
  base : BitVec 56
  n    : BitVec 32
  head : BitVec 32
  ack  : BitVec 32
  lost : Nat
deriving DecidableEq, Repr

/-- What serves the cores of one hub tick in ascending order: a rail's tokens of a kind (R229), a context's intake (R450), a
launch's draws (R270). -/
inductive Turn where
  | token (rail : Nat) (start : Bool)
  | intake (ctx : Nat)
  | draw (ctx node : Nat)
deriving DecidableEq, Repr

/-- The broadcast of a publish (R322): its number, the issuing core, the context, the new side of each region, and the cores
whose tables it has still to reach, 1024 standing for the other packages. -/
structure Flip where
  id    : Nat
  core  : Nat
  ctx   : Nat
  sides : List (Nat × Bool)
  todo  : List Nat
  /-- The scope of the publish. -/
  scp   : Nat := 0
deriving DecidableEq, Repr

/-- The completion of a host request (R325, R376, R392): a write is performed; data, with its CXL poison; Unsupported
Request; and what `yild` returns of a load, its image identifier or nothing (R265). -/
inductive Reply where
  | done
  | data (l : List Byte) (poison : Bool)
  | unsupported
  | loaded (id : Option Nat)
deriving DecidableEq, Repr

/-- A host request that a migration holds at its port (R325, R420). -/
inductive HostReq where
  | access (a : HostAccess)
  | atomic (a : HostAtomic)
deriving DecidableEq, Repr

/-- A migration slot (R419). -/
structure Mig where
  mds0  : BitVec 56
  mds1  : BitVec 56
  mctx  : BitVec 4
  mreg  : BitVec 16
  mret  : Bool
  mpass : Nat
  mst   : Nat
  /-- Dirty rows of the source and the next row the copy reaches; the source bases. -/
  dirty : List Nat
  src0  : Nat
  src1  : Nat
  size  : Nat
  pair  : Bool
  /-- Host writes to the source held at their port during the switch, and what follows them on their lines (R325). -/
  held  : List HostReq
deriving DecidableEq, Repr

/-- A majority set (R422 to R425): register, laggard cells, running walk, cells allocated. -/
structure MjSet where
  reg   : Word
  base  : Nat
  cells : Nat
  lag   : List Nat
  walk  : Bool
deriving DecidableEq, Repr

/-- A Chomar port (R400 to R402). -/
structure Port where
  reg    : Word
  txseq  : BitVec 12
  rxseq  : BitVec 12
  credit : Nat
  retry  : List (BitVec 12 × BitVec 2048)
  /-- Retransmission requests in a row that acknowledged nothing new (R401). -/
  fails  : Nat
  /-- Flits of the packet being received; credits to return to the peer. -/
  asm    : List (BitVec 2048)
  owed   : Nat
  /-- Flits of `retry` that are still to be sent again (R401). -/
  again  : Nat := 0
  /-- A retransmission has been requested (R401). -/
  ask    : Bool := false
  /-- The link header of the last type-3 flit sent (R401). -/
  note   : Option Word := none
  /-- Flits sent before the last retransmission began whose credits have not come back: a request that one of them raises
  belongs to the pass that has already failed (R401). The model's own. -/
  stale  : Nat := 0
deriving DecidableEq, Repr

/-- A packet in the source retry buffer (R403, R404, R406). -/
structure Pkt where
  hdr  : BitVec 256
  data : Row
  core : Nat
  /-- The request it carries, or the number of the `CP` command it belongs to. -/
  req  : Option Nat
  cmd  : Option Nat
  /-- Refused by a migration's switch (R409); sent over the current route. -/
  refd : Bool
  sent : Bool
  /-- It has left the package at least once and stands in the hub's buffer (R406). -/
  gone : Bool := false
  /-- The port that it last left over, and whether that path has failed since (R408). -/
  port : Option Nat := none
  lost : Bool := false
  /-- The hub tick from which its step counts it unacknowledged (R410). -/
  tick : Nat := 0
deriving DecidableEq, Repr

/-- The windows of one peer package and class (R404): next sequence to send, the destination's
expected sequence or base, its bitmap, the response cache of R405, the errors reported. -/
structure Win where
  next  : BitVec 16
  exp   : BitVec 16
  bits  : BitVec 1024
  cache : List (BitVec 16 × Word)
  /-- Packets that met an uncorrectable error, for their acknowledgment (R392). -/
  errs  : List (BitVec 16)
  /-- Packets refused during a switch: number, and the address in the migration's destination at which each is performed
  (R409, R420). -/
  refs  : List (BitVec 16 × Nat) := []
deriving DecidableEq, Repr

/-- The fabric side of the hub (R400 to R413). -/
structure Fabric where
  ports  : Tbl Port
  rt     : Tbl Word
  wins   : Tbl Win
  retry  : List Pkt
  tdec   : Tbl (Word × Word)
  /-- Answers that wait for a port: acknowledgments, read data, refusals (R404, R409). -/
  out    : List Pkt
  /-- The hub tick at which each decoder last came to have no port that is up (R411). -/
  down   : Tbl Nat := []
deriving DecidableEq, Repr

/-- A copy of the configuration record (R434): the fields of its head, its key pairs, and its settings: the current step in mA, the
island slope limits by island and the package's in A/µs, the power limit in W, the port enables, the partition defaults, the shares
of the bump groups by 32 x grove + group (R445), the retirement list in granules of 64 KiB. -/
structure CfgRec where
  mag    : BitVec 32
  ver    : BitVec 32
  minf   : BitVec 32
  len    : BitVec 32
  keys   : List Nat
  stepI  : Nat
  slopeI : Tbl Nat
  slopeP : Nat
  limit  : Nat
  ports  : BitVec 64
  parts  : Tbl Word
  shares : Tbl Nat
  retire : List (BitVec 48)
deriving DecidableEq, Repr

/-- The canopy (R426 to R436, R442 to R445). -/
structure Canopy where
  islt   : Tbl Word
  rrt    : Tbl Word
  slope  : Tbl Nat
  pslope : Option Nat
  plimit : Option Nat
  /-- The copies 0 and 1 of the configuration record in module flash; one that is not listed is as the module shipped (R434). -/
  flash  : Tbl CfgRec
  /-- The boot ROM has found a valid record, the one in use; its verdicts on the canopy image, the image of dispatcher and chain
  sequencer, and the fabric-manager image, as 0, 1 and 2 (R435). -/
  recd   : Bool
  imgs   : Tbl Bool
  mcmd   : Word
  mres   : Word
  mnon   : BitVec 128
  mpend  : Bool
  throt  : List Nat
  trip   : List Nat
  /-- Low milliseconds in a row of each bump group, and the clean milliseconds left of each cap. -/
  low    : Tbl Nat
  cap    : Tbl Nat
  /-- Islands gated by the host (R431). -/
  gated  : List Nat
  /-- A period is due, its sensors have been read, and its command has not been taken (R426). -/
  due    : Bool
  read   : Bool
  turn   : Bool
  /-- Writes of target registers made in this hub tick, which take effect in the next, and the result of the command that they
  carry out (R426, R431). -/
  tgts   : List (Nat × Word)
  mres1  : Option Nat
  /-- The budget that the canopy last computed for each island (R445). -/
  buds   : Tbl Nat
  /-- The boot ROM found no valid configuration record (R435). -/
  norec  : Bool
deriving DecidableEq, Repr

/-- Telemetry and health registers (R438, R441, R443). -/
structure Health where
  ring : RecRing
  tmx  : Word
  tthr : Word
  shlt : Tbl Word
  /-- The last reading of each matrix-array sensor, by grove x 64 + crown core, in 1/8 °C (R441). -/
  temps : List (Nat × Int)
deriving DecidableEq, Repr

/-- The hub (R263 to R283, R376 to R399, R415 to R425). -/
structure Hub where
  htck   : BitVec 64
  rdy    : Word
  rfl    : Word
  part   : Tbl Word
  halted : Bool
  fcfg   : Word
  ctxs   : Tbl Ctx
  /-- Launches placed on each core, oldest first (R281): context and node. -/
  order  : Tbl (List (Nat × Nat))
  /-- Launches that declared each bank of each core, the owner first (R278), by 32 x core + bank. -/
  banks  : Tbl (List (Nat × Nat))
  bars   : List Barrier
  saves  : List Save
  ring   : RecRing
  migs   : Tbl Mig
  marea  : BitVec 56
  samap  : List Nat
  mjs    : Tbl MjSet
  /-- Token requests in arrival order: rail, whether a start token, core, hub tick (R229). -/
  tokq   : List (Nat × Bool × Nat × Nat)
  /-- The latest grants that count, by 2 x rail + kind: core and tick (R229, R230). -/
  tokAt  : Tbl (List (Nat × Nat))
  /-- The round-robin pointer of each priority (R279). -/
  rr     : Tbl Nat
  /-- The highest core served so far in this hub tick of each thing that serves cores in ascending order (R229, R270,
  R450). -/
  turns  : List (Turn × Nat)
  /-- Publishes that are being broadcast (R322). -/
  flips  : List Flip
deriving DecidableEq, Repr

/-- The issue context of the slots of one bundle: what they share of the header and of the bundle's
other slots (R57, R136). The model's own. -/
structure Issue where
  pc    : BitVec 48
  fz    : Bool
  rp    : Bool
  st    : Bool
  len   : Nat
  /-- Remote pushes and posts of the bundle together (R160). -/
  outs  : Nat
  /-- Vertical pushes of the bundle to each target (R160). -/
  verts : Tbl Nat
  /-- A control transfer taken by the bundle: its target and whether it must be a header. -/
  jump  : Option (BitVec 48 × Bool)
  /-- The bundle carries a `trap` whose slot executes (R107): software code and argument. -/
  soft  : Option (BitVec 16 × Word)
  /-- What the `BR` slot asks of the bundle's end. -/
  ends  : BitVec 3
  /-- Translations of stores in the bundle, by row (R58). -/
  rows  : List Nat
  /-- Flags written by slots this cycle before completions (R11). -/
  lbrk  : Bool
deriving DecidableEq, Repr

/-- One package. -/
structure State where
  /-- Events the outside world and the agents that act on their own supply next. The model's own. -/
  agenda : List Instr
  /-- The stream that issues when no event is due. The model's own. -/
  focus  : Sid
  iss    : Issue
  /-- The counter that free values are applied to. The model's own. -/
  fresh  : Nat
  /-- The next request or entry identity. The model's own. -/
  ids    : Nat
  /-- What the environment has found at the bundle at which a stream stands (R63, R389). The model's own. -/
  upsets : List (Sid × Upset)
  pkg    : BitVec 8
  mem    : List Host.Cell
  /-- Rows that carry a poison mark (R391), by row number. -/
  poison : List Nat
  /-- Rows that hold an uncorrectable error which nothing has met yet (R389, R391), by row number. -/
  flaws  : List Nat
  /-- Race tags of SRAM rows (R315). -/
  tags   : Tbl (BitVec 32)
  /-- The last releaser of each word or row (R317), by address. -/
  rels   : Tbl Nat
  /-- Retired ranges: base and bytes (R420). -/
  retd   : List (Nat × Nat)
  cores  : Tbl Core
  net    : List NetMsg
  hub    : Hub
  /-- The completions returned to the host when requests of it were last performed (R325, R376), oldest first. -/
  replies : List Reply
  fab    : Fabric
  can    : Canopy
  health : Health
deriving DecidableEq, Repr

/-! ### Results of issue -/

/-- A trap about to be taken (R209): code, slot position, fault group, addresses, argument, AUX and
software code. -/
structure Trap where
  code : Nat
  slot : BitVec 5
  grp  : Nat
  tpc  : BitVec 48
  tfa  : BitVec 48
  targ : Word
  aux  : BitVec 16
  swc  : BitVec 16
deriving DecidableEq, Repr

/-- What a held slot leaves behind while it waits: a start-token request (R230), a barrier arrival
(R200), a majority operation in progress (R151). -/
inductive Wait where
  /-- Acquires of the stream before its race check (R319). -/
  | checks
  | plain
  | token
  | arrive (scp id : Nat)
  | majority
  | launch (va : Word)
deriving DecidableEq, Repr

/-- What the issue of one slot comes to: its effects, a condition of R59 or R136 that does not hold yet
(its number, whether the stream drains, what it leaves behind), or a trap. -/
inductive SlotRes where
  | ok (s : State)
  | hold (cond : Nat) (drain : Bool) (w : Wait)
  | trap (t : Trap)
deriving DecidableEq, Repr

/-! ### Reset -/

/-- Nothing in flight. -/
def Pipe.empty : Pipe := { ops := [], mx := [], rep := none, nest := none, tx := [], merged := true }

/-- No block: the place of a core before its first block entry, at P3 (R221). -/
def Block.none : Block := { hdr := 0, ext := 0, pt := 3, rrg := false }

/-- P3, no clearing in progress (R221); the limit is that of P3 (R220). -/
def Clearing.idle : Clearing := { pt := 3, dep := 15, nom := 15, steps := 0, cyc := 0, lim := 44 }

/-- No frame active (R208). -/
def Frame.empty : Frame :=
  { tcause := 0, tpc := 0, tfa := 0, targ := 0, tflg := 0, tfpc := 0, tblk := 0, tlc0 := 0, tlb0 := 0
    tle0 := 0, tlc1 := 0, tlb1 := 0, tle1 := 0, snsel := 0, held := Pipe.empty, clr := Clearing.idle
    blk := Block.none, due := .nothing, more := [] }

/-- A stream at its task-entry values (R9), with nothing to fetch. -/
def Stream.idle : Stream :=
  { s := [], f := 1, lc0 := 0, lb0 := 0, le0 := 0, lc1 := 0, lb1 := 0, le1 := 0, rc := 0, pc := 0
    due := .nothing, blk := Block.none, stage := 0, tabAt := none, pipe := Pipe.empty, frame := Frame.empty
    ccnt := 0, pend := [], resume := none, resto := false, cyc := [], freed := [], ust := [], mark := 0, contd := none, lheld := false, relF := none
    mjok := none }

/-- A cluster at its task-entry values (R9); mask m0 reads ones through its accessor. -/
def Cluster.idle : Cluster := { v := [], m := [], la := 0, lm := 0, und := [] }

/-- A queue at its launch-start values (R9, R161). -/
def Queue.idle : Queue := { ents := [], cfg := 1, ring := none, qov := false, prods := [] }

/-- A latch at its launch-start value: BF16, all bits and scales zero (R21). -/
def WLatch.idle : WLatch := { fmt := 2, gs := 0, rows := [], scales := [] }

/-- No token requested or granted. -/
def Tokens.none : Tokens := { clrReq := false, clrGot := false, stReq := false, stGot := false }

/-- A core that has run nothing: launch-start values (R9; DESIGN CHOICE, log 5), standing at P3 with its regulator at
code 15 (R221). -/
def Arch.idle : Arch :=
  { main := Stream.idle, side := Stream.idle, cl := [], q := [], h := [], hqv := 0, w := [], acc := []
    shd := [], cur := [], fpc := 0, und := [], reqs := [], cp := [], smv := [], bcast := [], nacc := []
    evq := [], evdrop := 0, lost := false, bfmt := [], disc := 0, decl := 0, rlsd := 0, tab := []
    clr := Clearing.idle, vcode := 15, regCyc := 0, regTgt := 15, tok := Tokens.none, phn := 0
    aset := some [], pids := [], arrv := [], sweep := false, task := none, run := .idle, preq := [], moved := [] }

/-- A core after reset. -/
def Core.idle : Core := { arch := Arch.idle, split := false, roll := [], seq := 0 }

/-- No bundle is being issued. -/
def Issue.none : Issue :=
  { pc := 0, fz := false, rp := false, st := false, len := 0, outs := 0, verts := [], jump := .none
    soft := .none, ends := 0, rows := [], lbrk := false }

/-- A ring register block at reset (R399, R438). -/
def RecRing.reset : RecRing := { base := 0, n := 0, head := 0, ack := 0, lost := 0 }

/-- A launch queue at the creation of its context (R379). -/
def LQueue.reset : LQueue :=
  { base := 0, int := false, kind := false, en := false, head := 0, tail := 0, subs := 0, busy := []
    want := none, copies := [] }

/-- A free context (R379). -/
def Ctx.free : Ctx :=
  { state := 0, record := 0, tdq := 0, tddev := 0, qs := [], erhead := 0, eirq := false, erack := 0
    erlost := 0, vector := false, shtb := 0, shtn := 0, ctrs := [], next := 0, imgs := [], intake := 0
    defic := [], nodes := [], logpos := 0, logack := 0, logbad := false, logm := 0, logseq := []
    replay := [], held := [], logs := 0, loge := 0, chain := none, sigs := [], pages := [], ranges := [], left := []
    made := [], drops := [] }

/-- A chain context at its creation (R348). -/
def Chain.fresh : Chain :=
  { w0 := 0, w8 := 0, crec := 0, dfree := 0, smax := 0, stash := 0, why := 0, cur := 0, cpass := 0
    cslot := 0, cerr := 0, bub := [], rdy := [], ents := [], adv := none, open_ := []
    goHeld := false, ups := [], dup := 0 }

/-- An idle migration slot (R419). -/
def Mig.idle : Mig :=
  { mds0 := 0, mds1 := 0, mctx := 0, mreg := 0, mret := false, mpass := 0, mst := 0, dirty := []
    src0 := 0, src1 := 0, size := 0, pair := false, held := [] }

/-- An unallocated majority set (R422). -/
def MjSet.free : MjSet := { reg := 0, base := 0, cells := 0, lag := [], walk := false }

/-- A port at reset: SHT 8, the rest zero (R400). -/
def Port.off : Port :=
  { reg := 0x800000, txseq := 0, rxseq := 0, credit := 0, retry := [], fails := 0, asm := [], owed := 0 }

/-- Windows between packages that have exchanged nothing (R404). -/
def Win.fresh : Win := { next := 0, exp := 0, bits := 0, cache := [], errs := [] }

/-- The hub after reset (R377, R379, R399, R410, R419, R432). -/
def Hub.reset : Hub :=
  { htck := 0, rdy := 0, rfl := 0, part := [], halted := false, fcfg := 0x186A000000000, ctxs := []
    order := [], banks := [], bars := [], saves := [], ring := RecRing.reset, migs := [], marea := 0
    samap := [], mjs := [], tokq := [], tokAt := [], rr := [], turns := [], flips := [] }

/-- The machine after package reset (R9, R221, R446): no context, no launch, no memory written (DESIGN CHOICE, logs 2, 4
and 5). -/
def State.reset : State :=
  { agenda := [], focus := { core := 0, side := false }, iss := Issue.none, fresh := 0, ids := 0
    upsets := [], pkg := 0, mem := [], poison := [], flaws := [], tags := [], rels := [], retd := [], cores := []
    net := [], hub := Hub.reset, replies := []
    fab := { ports := [], rt := [], wins := [], retry := [], tdec := [], out := [] }
    can := { islt := [], rrt := [], slope := [], pslope := none, plimit := none, flash := [], recd := false, imgs := [], mcmd := 0
             mres := 0, mnon := 0, mpend := false, throt := [], trip := [], low := [], cap := []
             gated := [], due := false, read := false, turn := false, tgts := [], mres1 := none, buds := [], norec := false }
    health := { ring := RecRing.reset, tmx := 0, tthr := 0x646E005F5A40, shlt := [], temps := [] } }

end Sys2Proof.Machine
end

