-- ==== Sys2Proof/Machine/Base.lean ====
section
/-!
DEFINITION. The plainest operations: tables, bit fields, the bytes of memory in canonical form, and the
accessors of cores, streams and contexts through which everything else reads and writes the state.
-/
namespace Sys2Proof.Machine

/-! ### Tables -/

/-- The content of entry `n`, `d` when none is listed. -/
def tget {α : Type} (d : α) : Tbl α → Nat → α
  | [], _ => d
  | (k, v) :: t, n => if k = n then v else tget d t n

/-- Is entry `n` listed? -/
def thas {α : Type} : Tbl α → Nat → Bool
  | [], _ => false
  | (k, _) :: t, n => k == n || thas t n

/-- Set entry `n`, keeping the keys rising. -/
def tput {α : Type} : Tbl α → Nat → α → Tbl α
  | [], n, v => [(n, v)]
  | (k, w) :: t, n, v =>
    if n < k then (n, v) :: (k, w) :: t else if n = k then (n, v) :: t else (k, w) :: tput t n v

/-- Forget entry `n`. -/
def tdel {α : Type} : Tbl α → Nat → Tbl α
  | [], _ => []
  | (k, w) :: t, n => if k = n then tdel t n else (k, w) :: tdel t n

/-- Change entry `n` by a function. -/
def tmod {α : Type} (d : α) (t : Tbl α) (n : Nat) (g : α → α) : Tbl α := tput t n (g (tget d t n))

/-! ### Bit fields -/

/-- Bits [lo + w - 1 : lo] of a number (R2). -/
def fld (x lo w : Nat) : Nat := (x / 2 ^ lo) % 2 ^ w

/-- Bits of a word as a number. -/
def wf (x : BitVec n) (lo w : Nat) : Nat := fld x.toNat lo w

/-- Replace bits [lo + w - 1 : lo] of a bit vector. -/
def setFld (x : BitVec n) (lo w v : Nat) : BitVec n :=
  let m := BitVec.ofNat n ((2 ^ w - 1) * 2 ^ lo)
  (x &&& ~~~m) ||| (BitVec.ofNat n ((v % 2 ^ w) * 2 ^ lo))

/-- A number of `w` bits read as two's complement (R32). -/
def sgn (w x : Nat) : Int := if x < 2 ^ (w - 1) then x else (x : Int) - 2 ^ w

/-- The low `w` bits of an integer (Wrap, R33). -/
def wrapN (w : Nat) (x : Int) : Nat := (x % (2 ^ w : Int)).toNat

/-- Element `j` of width `w` of a row (R15). -/
def elem (w : Nat) (r : Row) (j : Nat) : Nat := fld r.toNat (j * w) w

/-- Join elements of width `w`, the first lowest (R15). -/
def joinN (w : Nat) : List Nat → Nat
  | [] => 0
  | x :: t => x % 2 ^ w + 2 ^ w * joinN w t

/-- A row from its elements (R15). -/
def ofElems (w : Nat) (l : List Nat) : Row := BitVec.ofNat 512 (joinN w l)

/-- Ceiling division. -/
def cdiv (a b : Nat) : Nat := if b = 0 then 0 else (a + b - 1) / b

/-! ### Memory bytes in canonical form -/

/-- What a byte that nothing has written reads as (log 4). -/
def blank : Byte := 0

/-- The byte at an address. (DESIGN CHOICE, log 4) -/
def cellAt : List Host.Cell → Nat → Byte
  | [], _ => blank
  | (k, v) :: t, a => if k = a then v else cellAt t a

/-- Write a byte, keeping the canonical form: addresses rise, no entry reads as `blank`. -/
def cellPut : List Host.Cell → Nat → Byte → List Host.Cell
  | [], a, b => if b = blank then [] else [(a, b)]
  | (k, v) :: t, a, b =>
    if a < k then (if b = blank then (k, v) :: t else (a, b) :: (k, v) :: t)
    else if a = k then (if b = blank then t else (a, b) :: t)
    else (k, v) :: cellPut t a b

/-- Every address of the list is above `a`. -/
def cellsAbove (a : Nat) : List Host.Cell → Bool
  | [] => true
  | (k, _) :: t => decide (a < k) && cellsAbove a t

/-- The canonical form of memory. (DESIGN CHOICE, log 4) -/
def memWf : List Host.Cell → Bool
  | [] => true
  | (k, v) :: t => v != blank && cellsAbove k t && memWf t

/-- `n` bytes from `a`, little-endian (R2). -/
def readN (m : List Host.Cell) (a : Nat) : Nat → Nat
  | 0 => 0
  | n + 1 => (cellAt m a).toNat + 256 * readN m (a + 1) n

/-- Write `n` bytes of `v` from `a`, those whose mask bit is one (R140). -/
def writeN (m : List Host.Cell) (a v mask : Nat) : Nat → List Host.Cell
  | 0 => m
  | n + 1 =>
    let m' := if mask % 2 = 1 then cellPut m a (BitVec.ofNat 8 v) else m
    writeN m' (a + 1) (v / 256) (mask / 2) n

/-! ### Physical addresses (R288 to R290) -/

/-- Package of a global physical address. -/
def paPkg (pa : Nat) : Nat := fld pa 48 8
/-- Space: 0 SRAM, 1 HBM, 2 second tier, 3 system registers. -/
def paSpace (pa : Nat) : Nat := fld pa 46 2
/-- Offset within the space. -/
def paOff (pa : Nat) : Nat := fld pa 0 46

/-- The one address under which storage is held: the interleaved view of HBM is turned into the stack
view (R290). -/
def canon (pa : Nat) : Nat :=
  if paSpace pa = 1 ∧ fld pa 45 1 = 1 then
    let o := fld pa 0 40
    (pa / 2 ^ 46) * 2 ^ 46 + (o / 4096 % 16) * 2 ^ 36 + (o / 65536) * 4096 + o % 4096
  else pa

/-- The core whose slice holds an SRAM address, as grove x 128 + core (R289). -/
def paCore (pa : Nat) : Nat := fld pa 22 10
/-- Bank of an SRAM address. -/
def paBank (pa : Nat) : Nat := fld pa 17 5
/-- Slice row of an SRAM address (R20). -/
def paRow (pa : Nat) : Nat := fld pa 6 16

/-- Is the core number of an agent a root core? -/
def isRoot (c : Nat) : Bool := decide (64 ≤ c % 128)
/-- Does the core exist (R289)? -/
def coreOkN (c : Nat) : Bool := decide (c < 1024) && decide (c % 128 < 80)
/-- Banks of a core's slice (R289). -/
def nBanks (c : Nat) : Nat := if isRoot c then 16 else 32
/-- Rows of a core's slice (R20, R31). -/
def nRows (c : Nat) : Nat := if isRoot c then 32768 else 65536

/-- The physical address of a slice row of a core of this package. (DESIGN CHOICE, log 48) -/
def sliceRow (pkg : BitVec 8) (c row : Nat) : Nat := pkg.toNat * 2 ^ 48 + c * 2 ^ 22 + row * 64

/-- Does an SRAM offset name storage (R289)? -/
def sramOk (o : Nat) : Bool :=
  decide (o < 2 ^ 32) && coreOkN (fld o 22 10) && (!isRoot (fld o 22 10) || decide (fld o 17 5 < 16))

/-- Does an HBM offset name storage (R290)? -/
def hbmOk (o : Nat) : Bool :=
  decide (fld o 40 5 = 0) &&
    (if fld o 45 1 = 1 then decide (fld o 0 40 < 768 * 2 ^ 30) else decide (fld o 0 36 < 48 * 2 ^ 30))

/-- Does decoder `d` map the second-tier offset (R413)? -/
def tdecHit (d : Word × Word) (o : Nat) : Bool :=
  d.1.getLsbD 63 && decide (wf d.1 0 17 * 2 ^ 28 ≤ o) &&
    decide (o < (wf d.1 0 17 + wf d.2 0 17) * 2 ^ 28)

/-- Does an address of the own package, or any address of another, name storage (R289, R290, R413)? (DEDUCED, log 92) -/
def storageOk (s : State) (pa : Nat) : Bool :=
  if paPkg pa ≠ s.pkg.toNat then paSpace pa != 3
  else match paSpace pa with
    | 0 => sramOk (paOff pa)
    | 1 => hbmOk (paOff pa)
    | 2 => s.fab.tdec.any (fun d => tdecHit d.2 (fld pa 0 45))
    | _ => false

/-- The ports of a decoder's interleave set (R413). -/
def tdecPorts (d : Word × Word) : List Nat := (List.range 8).filter (fun i => d.2.getLsbD (24 + i))

/-- The decoder that maps a second-tier offset. -/
def tdecOf (s : State) (o : Nat) : Option (Word × Word) := (s.fab.tdec.find? (fun d => tdecHit d.2 o)).map (·.2)

/-- Has a second-tier port trained (R413, R432)? -/
def tierTrained (s : State) (t : Nat) : Bool := s.hub.rdy.getLsbD (32 + t)

/-- Is the port that serves an address up? Addresses outside the second tier need none, and an offset that no decoder maps has
none (R413, R433). (DEDUCED, log 77) -/
def tierUp (s : State) (pa : Nat) : Bool :=
  if paSpace pa ≠ 2 ∨ paPkg pa ≠ s.pkg.toNat then true
  else
    let o := fld pa 0 45
    s.hub.rdy.getLsbD 3 && (match tdecOf s o with
      | none => false
      | some d => match (tdecPorts d)[(o - wf d.1 0 17 * 2 ^ 28) / 4096 % 2 ^ wf d.2 20 4]? with
        | some t => tierTrained s t
        | none => false)

/-- The hub tick from which no port of the decoder that maps a second-tier address has been up, while none is (R411); an offset
without a decoder has had none since reset. Until the fabric manager is ready, commands wait (R433). (DEDUCED, log 77) -/
def tierLost (s : State) (pa : Nat) : Option Nat :=
  if paSpace pa ≠ 2 ∨ paPkg pa ≠ s.pkg.toNat ∨ !s.hub.rdy.getLsbD 3 then none
  else match s.fab.tdec.find? (fun d => tdecHit d.2 (fld pa 0 45)) with
    | some d => if (tdecPorts d.2).all (fun t => !tierTrained s t) then some (tget 0 s.fab.down d.1) else none
    | none => some 0

/-- The stack that holds an HBM address (R290). -/
def paStack (pa : Nat) : Nat := fld (canon pa) 36 4

/-! ### Rows and words of memory -/

/-- The 64-byte row that holds an address. -/
def rowBase (pa : Nat) : Nat := pa / 64 * 64

/-- Read the row that holds an address. -/
def rowAt (s : State) (pa : Nat) : Row := BitVec.ofNat 512 (readN s.mem (canon (rowBase pa)) 64)

/-- Read the aligned 8-byte word that holds an address. -/
def wordAt (s : State) (pa : Nat) : Word := BitVec.ofNat 64 (readN s.mem (canon (pa / 8 * 8)) 8)

/-- Does a row carry the poison mark (R391)? -/
def marked (s : State) (pa : Nat) : Bool := s.poison.contains (canon pa / 64)

/-- Does a row hold an uncorrectable error: one that is marked, or one that nothing has met yet (R389, R391)? -/
def poisoned (s : State) (pa : Nat) : Bool := marked s pa || s.flaws.contains (canon pa / 64)

/-- Mark a row poisoned (R391). -/
def poisonRow (s : State) (pa : Nat) : State :=
  if marked s pa then s
  else { s with poison := canon pa / 64 :: s.poison, flaws := s.flaws.filter (· != canon pa / 64) }

/-- Count an error of an HBM row in its stack's health register, corrected ones by their bits, uncorrectable ones one by one
(R443). (DEDUCED, log 86) -/
def countStack (s : State) (pa : Nat) (bits : Option Nat) : State :=
  if paSpace pa ≠ 1 ∨ paPkg pa ≠ s.pkg.toNat then s
  else { s with health := { s.health with shlt := tmod 0 s.health.shlt (paStack pa) (fun w => match bits with
    | some b => setFld w 32 32 (min (2 ^ 32 - 1) (wf w 32 32 + b))
    | none => setFld w 24 8 (min 255 (wf w 24 8 + 1))) } }

/-- A reader meets the error of a row: the row is poisoned from then on, and its stack counts it once (R391, R392, R443).
(DEDUCED, log 86) -/
def meetError (s : State) (pa : Nat) : State :=
  if s.flaws.contains (canon pa / 64) then poisonRow (countStack s pa none) pa else if poisoned s pa then poisonRow s pa else s

/-- Does a write of the bytes of a mask need a read of its row: HBM codes whole rows, SRAM words (R389, R392)? -/
def partMask (pa mask : Nat) : Bool :=
  if paSpace pa = 0 then (List.range 8).any (fun i => fld mask (8 * i) 8 != 0 && fld mask (8 * i) 8 != 255)
  else mask != 0 && mask != 2 ^ 64 - 1

/-- A physical address in the interleaved view when it is one of HBM (R290). -/
def ilv (pa : Nat) : Nat :=
  if paSpace pa = 1 ∧ fld pa 45 1 = 0 then
    pa / 2 ^ 46 * 2 ^ 46 + 2 ^ 45 + fld pa 0 36 / 4096 * 65536 + fld pa 36 4 * 4096 + pa % 4096
  else pa

/-- The granules of the system-atomic map that storage reaches: 64 KiB of the interleaved view of HBM, of which a stack's own
rows take 4 KiB each, or of SRAM (R290, R421). -/
def granules (a n : Nat) : List Nat :=
  if paSpace a = 1 ∧ fld a 45 1 = 0 then (List.range (n / 4096)).map (fun i => ilv (a + 4096 * i) / 65536)
  else (List.range (n / 65536)).map (fun i => a / 65536 + i)

/-- The blocks that storage takes, to compare two ranges: in HBM the stack, none for all of them, and the 4 KiB blocks of each
(R290). -/
def blocksOf (a n : Nat) : Option Nat × Nat × Nat :=
  if paSpace a ≠ 1 then (none, a, n)
  else if fld a 45 1 = 1 then (none, a / 2 ^ 46 * 2 ^ 46 + fld a 0 40 / 65536, cdiv n 65536)
  else (some (fld a 36 4), a / 2 ^ 46 * 2 ^ 46 + fld a 0 36 / 4096, cdiv n 4096)

/-- Do two ranges of storage meet, whatever view their bases are in? -/
def regionsMeet (a n b m : Nat) : Bool :=
  let x := blocksOf a n
  let y := blocksOf b m
  decide (x.2.1 < y.2.1 + y.2.2) && decide (y.2.1 < x.2.1 + x.2.2) && (x.1.isNone || y.1.isNone || x.1 == y.1)

/-- The offset of an address in a region with a given base, in the view of the base. -/
def offIn (base size pa : Nat) : Option Nat :=
  let a := if paSpace base = 1 ∧ fld base 45 1 = 1 then ilv pa else canon pa
  if base ≤ a ∧ a < base + size then some (a - base) else none

/-- The rows of a migration's source that hold an address; rows of side 1 count on from those of side 0. -/
def Mig.rowsAt (m : Mig) (pa : Nat) : List Nat :=
  (match offIn m.src0 m.size pa with
    | some o => [o / 64]
    | none => []) ++
  (match m.pair, offIn m.src1 m.size pa with
    | true, some o => [m.size / 64 + o / 64]
    | _, _ => [])

/-- Every write to the source of a running migration sets its row's dirty bit (R420). -/
def markDirty (s : State) (pa : Nat) : State :=
  let g := fun (x : Nat × Mig) =>
    if 1 ≤ x.2.mst ∧ x.2.mst ≤ 4 then
      (x.1, { x.2 with dirty := x.2.dirty ++ (x.2.rowsAt pa).filter (fun r => !x.2.dirty.contains r) })
    else x
  if s.hub.migs.isEmpty then s else { s with hub := { s.hub with migs := s.hub.migs.map g } }

/-- The releaser ids of the words of a row whose bytes a mask names go: their last write is this one (R317). -/
def dropRels (s : State) (pa : Nat) (mask : Nat) : State :=
  let b := canon (rowBase pa) / 8
  if s.rels.isEmpty then s
  else { s with rels := s.rels.filter (fun x => !(decide (b ≤ x.1) && decide (x.1 < b + 8) &&
    decide (fld mask (8 * (x.1 - b)) 8 ≠ 0))) }

/-- The words of a row whose bytes a mask names were last written by a release of a core (R317). (DEDUCED, log 66) -/
def setRels (s : State) (pa : Nat) (mask core : Nat) : State :=
  let b := canon (rowBase pa) / 8
  { s with rels := (List.range 8).foldl (fun t i => if fld mask (8 * i) 8 ≠ 0 then tput t (b + i) core else t) s.rels }

/-- A bank that is written is no longer one that a restore left zeroed (R208 `DISC`). (DEDUCED, log 38) -/
def dropDisc (s : State) (pa : Nat) : State :=
  let g := fun (c : Nat × Core) =>
    if c.1 = paCore pa ∧ c.2.arch.disc.getLsbD (paBank pa) then
      (c.1, { c.2 with arch := { c.2.arch with disc := setFld c.2.arch.disc (paBank pa) 1 0 } })
    else c
  if paSpace pa = 0 ∧ paPkg pa = s.pkg.toNat then { s with cores := s.cores.map g } else s

/-- What every write does beside the bytes: dirty bits of a migration, releaser ids, `DISC`. -/
def noteBytes (s : State) (pa mask : Nat) : State := dropDisc (dropRels (markDirty s pa) pa mask) pa

/-- A write of the whole row: the poison mark clears (R391). -/
def writeRow (s0 : State) (pa : Nat) (r : Row) : State :=
  let s := noteBytes s0 pa (2 ^ 64 - 1)
  { s with mem := writeN s.mem (canon (rowBase pa)) r.toNat (2 ^ 64 - 1) 64
           poison := s.poison.filter (· != canon pa / 64), flaws := s.flaws.filter (· != canon pa / 64) }

/-- A write of some bytes of a row: a poisoned row stays poisoned, and a write-back that needs the row finds its error
(R391). -/
def writePart (s0 : State) (pa : Nat) (r : Row) (mask : BitVec 64) : State :=
  let s := noteBytes (if partMask pa mask.toNat then meetError s0 pa else s0) pa mask.toNat
  { s with mem := writeN s.mem (canon (rowBase pa)) r.toNat mask.toNat 64 }

/-- Write the aligned word that holds an address. -/
def writeWord (s0 : State) (pa : Nat) (w : Word) : State :=
  let s := noteBytes (if partMask pa (255 * 2 ^ (pa % 64 / 8 * 8)) then meetError s0 pa else s0) pa (255 * 2 ^ (pa % 64 / 8 * 8))
  { s with mem := writeN s.mem (canon (pa / 8 * 8)) w.toNat 255 8 }

/-- Has a core above this one been served of a thing in this hub tick? Then this one comes in a later tick, since those of one
tick go in ascending order (R229, R270, R450). -/
def missedTurn (s : State) (t : Turn) (core : Nat) : Bool := s.hub.turns.any (fun x => x.1 == t && decide (core < x.2))

/-- A core has been served of a thing in this hub tick. -/
def takeTurn (s : State) (t : Turn) (core : Nat) : State := { s with hub := { s.hub with turns := s.hub.turns ++ [(t, core)] } }

/-- Write `n` bytes of a device record from `a` (R2). -/
def writeRec (s : State) (a n v : Nat) : State :=
  { s with mem := writeN s.mem (canon a) v (2 ^ n - 1) n }

/-! ### Accessors -/

/-- A core of the package. -/
def coreOf (s : State) (c : Nat) : Core := tget Core.idle s.cores c
/-- Set a core. -/
def putCore (s : State) (c : Nat) (x : Core) : State := { s with cores := tput s.cores c x }
/-- The state of a core that a bundle can change. -/
def archOf (s : State) (c : Nat) : Arch := (coreOf s c).arch
/-- Set it. -/
def putArch (s : State) (c : Nat) (a : Arch) : State := putCore s c { coreOf s c with arch := a }
/-- Change it. -/
def modArch (s : State) (c : Nat) (g : Arch → Arch) : State := putArch s c (g (archOf s c))

/-- A stream of a core. -/
def Arch.stream (a : Arch) (side : Bool) : Stream := if side then a.side else a.main
/-- Set it. -/
def Arch.withStream (a : Arch) (side : Bool) (x : Stream) : Arch :=
  if side then { a with side := x } else { a with main := x }
/-- A stream of the package. -/
def strmOf (s : State) (k : Sid) : Stream := (archOf s k.core).stream k.side
/-- Set it. -/
def putStrm (s : State) (k : Sid) (x : Stream) : State :=
  modArch s k.core (fun a => a.withStream k.side x)
/-- Change it. -/
def modStrm (s : State) (k : Sid) (g : Stream → Stream) : State := putStrm s k (g (strmOf s k))

/-- A context of the hub. -/
def ctxOf (s : State) (c : Nat) : Ctx := tget Ctx.free s.hub.ctxs c
/-- Set it. -/
def putCtx (s : State) (c : Nat) (x : Ctx) : State :=
  { s with hub := { s.hub with ctxs := tput s.hub.ctxs c x } }
/-- Change it. -/
def modCtx (s : State) (c : Nat) (g : Ctx → Ctx) : State := putCtx s c (g (ctxOf s c))

/-- A node of a context, if it exists. -/
def nodeOf (s : State) (c n : Nat) : Option Node :=
  ((ctxOf s c).nodes.find? (fun e => e.1 == n)).map (·.2)
/-- Change a node that exists. -/
def modNode (s : State) (c n : Nat) (g : Node → Node) : State :=
  match nodeOf s c n with
  | none => s
  | some x => modCtx s c (fun y => { y with nodes := tput y.nodes n (g x) })

/-- `n` bytes at offset `o` of a record (R2). -/
def recN (r : BitVec w) (o n : Nat) : Nat := wf r (8 * o) (8 * n)

/-- Register `s[n]` of a stream; `s0` reads zero (R10). (DESIGN CHOICE, log 2) -/
def Stream.reg (x : Stream) (n : BitVec 5) : Word := if n = 0 then 0 else tget 0 x.s n.toNat
/-- Set register `s[n]`; a write of `s0` is discarded (R10). -/
def Stream.setReg (x : Stream) (n : Nat) (w : Word) : Stream :=
  if n = 0 then x else { x with s := tput x.s n w }
/-- Flag `f[n]`; `f0` reads one (R10). -/
def Stream.flag (x : Stream) (n : BitVec 4) : Bool := n = 0 || x.f.getLsbD n.toNat
/-- Set flag `f[n]`; a write of `f0` is discarded (R10). -/
def Stream.setFlag (x : Stream) (n : Nat) (b : Bool) : Stream :=
  if n = 0 then x else { x with f := setFld x.f n 1 b.toNat }
/-- Mask register of a cluster; `m0` reads all ones (R16). -/
def Cluster.maskReg (x : Cluster) (n : Nat) : BitVec 16 := if n = 0 then 0xFFFF else tget 0 x.m n
/-- Is the trap frame active (R208)? -/
def Frame.act (x : Frame) : Bool := x.tcause.getLsbD 31
/-- The pipeline mode of a point: merged at P0 to P3 (R215). -/
def mergedPt (pt : BitVec 3) : Bool := decide (pt.toNat < 4)

/-- Queue of a core. -/
def Arch.queue (a : Arch) (q : Nat) : Queue := tget Queue.idle a.q q
/-- The entries that the head of a queue presents: of `q7`, those of the node whose launch the core runs
(R159). -/
def Arch.qEnts (a : Arch) (q : Nat) : List QEnt :=
  if q = 7 then (a.queue 7).ents.filter (fun e => match a.task with
    | some t => e.ctx == t.ctx && e.node == t.node
    | none => false)
  else (a.queue q).ents
/-- Cluster of a core. -/
def Arch.clus (a : Arch) (c : Nat) : Cluster := tget Cluster.idle a.cl c

/-! ### The configuration record (R434) -/

/-- A copy of the configuration record as the module shipped. (DESIGN CHOICE, log 7) -/
def CfgRec.shipped (c : Nat) : CfgRec :=
  let f := Config.flash c
  { mag := BitVec.ofNat 32 (f 0), ver := BitVec.ofNat 32 (f 1), minf := BitVec.ofNat 32 (f 2), len := BitVec.ofNat 32 (f 3)
    keys := (List.range (f 4)).map (fun i => f (1024 + i)), stepI := f 5, slopeI := (List.range 64).map (fun i => (i, f (128 + i)))
    slopeP := f 6, limit := f 7, ports := BitVec.ofNat 64 (f 8), parts := (List.range 8).map (fun i => (i, BitVec.ofNat 64 (f (16 + i))))
    shares := (List.range 256).map (fun i => (i, f (256 + i))), retire := Config.flashRetire c }

/-- A copy of the record in module flash. (DESIGN CHOICE, log 7) -/
def flashOf (s : State) (c : Nat) : CfgRec := tget (CfgRec.shipped c) s.can.flash c

/-- The record in use: the boot ROM has made both copies the same (R434). -/
def recOf (s : State) : CfgRec := flashOf s 0

/-- The fields of a record as numbers, for its hash (R436). -/
def CfgRec.nums (r : CfgRec) : List Nat :=
  [r.mag.toNat, r.ver.toNat, r.minf.toNat, r.len.toNat, r.keys.length] ++ r.keys ++ [r.stepI] ++ r.slopeI.map (·.2) ++
    [r.slopeP, r.limit, r.ports.toNat] ++ r.parts.map (·.2.toNat) ++ r.shares.map (·.2) ++ r.retire.map (·.toNat)

/-- The retired ranges: those of migrations, and those of the record in use, each one granule of 64 KiB (R420, R431, R447).
(DEDUCED, log 83) -/
def retiredList (s : State) : List (Nat × Nat) :=
  s.retd ++ (if s.can.recd then (recOf s).retire.map (fun g => (g.toNat * 65536, 65536)) else [])

/-- Is an address in a retired range (R420)? -/
def retired (s : State) (pa : Nat) : Bool := (retiredList s).any (fun r => (offIn r.1 r.2 pa).isSome)

/-- Does storage meet a retired range, which no table may map (R420)? -/
def meetsRetired (s : State) (a n : Nat) : Bool := (retiredList s).any (fun r => regionsMeet r.1 r.2 a n)

/-- Take the next identity. -/
def nextId (s : State) : Nat × State := (s.ids, { s with ids := s.ids + 1 })

end Sys2Proof.Machine
end

