-- ==== Sys2Proof/Machine/Float.lean ====
section
/-!
DEFINITION. Floating-point arithmetic of R34 to R43: values as exact dyadic numbers, one rounding to the
destination format with its exceptions, and the operations the scalar, vector and matrix units share.
-/
namespace Sys2Proof.Machine

/-- A floating-point format: exponent and fraction widths (R34). -/
structure Fmt where
  ew : Nat
  fw : Nat
deriving DecidableEq, Repr

/-- binary32 (R34). -/
def fp32 : Fmt := { ew := 8, fw := 23 }
/-- BF16 (R34). -/
def bf16 : Fmt := { ew := 8, fw := 7 }
/-- binary16 (R34). -/
def fp16 : Fmt := { ew := 5, fw := 10 }

/-- Width in bits. -/
def Fmt.w (f : Fmt) : Nat := 1 + f.ew + f.fw
/-- Exponent bias (R34). -/
def Fmt.bias (f : Fmt) : Nat := 2 ^ (f.ew - 1) - 1
/-- Exponent of the smallest normal. -/
def Fmt.emin (f : Fmt) : Int := 1 - (f.bias : Int)

/-- The value of an encoding: `fin neg m e` is (-1)^neg x m x 2^e. -/
inductive FpVal where
  | nan (signalling : Bool)
  | inf (neg : Bool)
  | fin (neg : Bool) (m : Nat) (e : Int)
deriving DecidableEq, Repr

/-- Exception flags in the order of FPC[13:8]: IOV, inexact, underflow, overflow, divide-by-zero,
invalid (R23). -/
abbrev Flags := BitVec 6
/-- invalid -/
def fInv : Flags := 1
/-- divide-by-zero -/
def fDiv : Flags := 2
/-- overflow -/
def fOvf : Flags := 4
/-- underflow -/
def fUnf : Flags := 8
/-- inexact -/
def fInx : Flags := 16
/-- integer overflow -/
def fIov : Flags := 32

/-- The canonical quiet NaN of a format (R38). -/
def Fmt.qnan (f : Fmt) : Nat := (2 ^ (f.ew + 1) - 1) * 2 ^ (f.fw - 1)
/-- Infinity of a sign. -/
def Fmt.infBits (f : Fmt) (neg : Bool) : Nat := neg.toNat * 2 ^ (f.ew + f.fw) + (2 ^ f.ew - 1) * 2 ^ f.fw
/-- Zero of a sign. -/
def Fmt.zeroBits (f : Fmt) (neg : Bool) : Nat := neg.toNat * 2 ^ (f.ew + f.fw)
/-- Largest finite of a sign. -/
def Fmt.maxBits (f : Fmt) (neg : Bool) : Nat := f.infBits neg - 1

/-- Read an encoding (R34). With `fz` a subnormal is read as a zero of its sign (R37). -/
def fpRead (f : Fmt) (fz : Bool) (x : Nat) : FpVal :=
  let neg := fld x (f.ew + f.fw) 1 = 1
  let e := fld x f.fw f.ew
  let m := fld x 0 f.fw
  if e = 2 ^ f.ew - 1 then
    if m = 0 then .inf neg else .nan (fld x (f.fw - 1) 1 = 0)
  else if e = 0 then
    if fz then .fin neg 0 0 else .fin neg m (f.emin - f.fw)
  else .fin neg (2 ^ f.fw + m) ((e : Int) - f.bias - f.fw)

/-- Length in bits. -/
def bitLen (n : Nat) : Nat := if n = 0 then 0 else Nat.log2 n + 1

/-- Shift a magnitude right by `sh` (left when negative) and round it, `st` standing for a nonzero rest
below `m` (R35). Modes: 0 RNE, 1 RTZ, 2 RUP, 3 RDN. Answers the integer and whether it is inexact. -/
def shRound (mode : BitVec 2) (neg : Bool) (m : Nat) (sh : Int) (st : Bool) : Nat × Bool :=
  if sh ≤ 0 then
    let n := m * 2 ^ (-sh).toNat
    let up := st && ((mode = 2 && !neg) || (mode = 3 && neg))
    (n + up.toNat, st)
  else
    let k := sh.toNat
    let n := m / 2 ^ k
    let r := m % 2 ^ k
    let h := 2 ^ (k - 1)
    let inx := decide (r ≠ 0) || st
    let up := match mode.toNat with
      | 0 => decide (h < r) || (decide (r = h) && (st || decide (n % 2 = 1)))
      | 1 => false
      | 2 => inx && !neg
      | _ => inx && neg
    (n + up.toNat, inx)

/-- The result of an overflow by mode (R35). -/
def ovfBits (f : Fmt) (mode : BitVec 2) (neg : Bool) : Nat :=
  match mode.toNat with
  | 0 => f.infBits neg
  | 1 => f.maxBits neg
  | 2 => if neg then f.maxBits neg else f.infBits neg
  | _ => if neg then f.infBits neg else f.maxBits neg

/-- RoundTo: a nonzero exact magnitude (`m` and a rest below it when `st`) x 2^e rounded once to a
format, with overflow, underflow after rounding, inexact and the output flush (R35 to R37, R40). -/
def roundTo (f : Fmt) (mode : BitVec 2) (fz : Bool) (neg : Bool) (m : Nat) (e : Int) (st : Bool) :
    Nat × Flags :=
  let p : Int := f.fw + 1
  let big := e + bitLen m - 1
  let q := big - (p - 1)
  let u := shRound mode neg m (q - e) st
  let bigU := if u.1 = 2 ^ (f.fw + 1) then big + 1 else big
  let tiny := decide (bigU < f.emin)
  if tiny && fz then (f.zeroBits neg, fUnf ||| fInx)
  else if (f.bias : Int) < bigU then (ovfBits f mode neg, fOvf ||| fInx)
  else
    let qd := if q < f.emin - f.fw then f.emin - f.fw else q
    let d := shRound mode neg m (qd - e) st
    let n := if d.1 = 2 ^ (f.fw + 1) then 2 ^ f.fw else d.1
    let qn := if d.1 = 2 ^ (f.fw + 1) then qd + 1 else qd
    let body := if n < 2 ^ f.fw then n else (qn + f.fw + f.bias).toNat * 2 ^ f.fw + (n - 2 ^ f.fw)
    let inx := d.2
    (neg.toNat * 2 ^ (f.ew + f.fw) + body,
      (if inx then fInx else 0) ||| (if inx && tiny then fUnf else 0))

/-- Encode a value in a format: rounds finite numbers, keeps infinities, canonical NaN (R36, R38). -/
def fpWrite (f : Fmt) (mode : BitVec 2) (fz : Bool) : FpVal → Nat × Flags
  | .nan s => (f.qnan, if s then fInv else 0)
  | .inf n => (f.infBits n, 0)
  | .fin n 0 _ => (f.zeroBits n, 0)
  | .fin n m e => roundTo f mode fz n m e false

/-- The signed integer of a magnitude. -/
def sInt (neg : Bool) (m : Nat) : Int := if neg then -(m : Int) else m

/-- Exact product (R36, R38, R39); a quiet NaN for 0 x infinity with the invalid flag. -/
def fpMul (a b : FpVal) : FpVal × Flags :=
  match a, b with
  | .nan x, .nan y => (.nan (x || y), 0)
  | .nan x, _ => (.nan x, 0)
  | _, .nan y => (.nan y, 0)
  | .inf x, .inf y => (.inf (x != y), 0)
  | .inf x, .fin y m _ => if m = 0 then (.nan false, fInv) else (.inf (x != y), 0)
  | .fin x m _, .inf y => if m = 0 then (.nan false, fInv) else (.inf (x != y), 0)
  | .fin x m e, .fin y n g => (.fin (x != y) (m * n) (e + g), 0)

/-- Exact sum (R36, R38, R39): an exact zero of opposite signs is -0 in RDN and +0 otherwise. -/
def fpAdd (mode : BitVec 2) (a b : FpVal) : FpVal × Flags :=
  match a, b with
  | .nan x, .nan y => (.nan (x || y), 0)
  | .nan x, _ => (.nan x, 0)
  | _, .nan y => (.nan y, 0)
  | .inf x, .inf y => if x = y then (.inf x, 0) else (.nan false, fInv)
  | .inf x, _ => (.inf x, 0)
  | _, .inf y => (.inf y, 0)
  | .fin x m e, .fin y n g =>
    let lo := if e ≤ g then e else g
    let s := sInt x (m * 2 ^ (e - lo).toNat) + sInt y (n * 2 ^ (g - lo).toNat)
    if s = 0 then (.fin (if x = y then x else mode = 3) 0 0, 0)
    else (.fin (decide (s < 0)) s.natAbs lo, 0)

/-- The negation of a value; NaNs keep their kind. -/
def fpNeg : FpVal → FpVal
  | .nan s => .nan s
  | .inf n => .inf !n
  | .fin n m e => .fin (!n) m e

/-- x + y rounded. -/
def fAdd (f : Fmt) (mode : BitVec 2) (fz : Bool) (a b : Nat) : Nat × Flags :=
  let s := fpAdd mode (fpRead f fz a) (fpRead f fz b)
  let r := fpWrite f mode fz s.1
  (r.1, r.2 ||| s.2)

/-- x - y rounded. -/
def fSub (f : Fmt) (mode : BitVec 2) (fz : Bool) (a b : Nat) : Nat × Flags :=
  let s := fpAdd mode (fpRead f fz a) (fpNeg (fpRead f fz b))
  let r := fpWrite f mode fz s.1
  (r.1, r.2 ||| s.2)

/-- x x y rounded. -/
def fMul (f : Fmt) (mode : BitVec 2) (fz : Bool) (a b : Nat) : Nat × Flags :=
  let s := fpMul (fpRead f fz a) (fpRead f fz b)
  let r := fpWrite f mode fz s.1
  (r.1, r.2 ||| s.2)

/-- The fused forms: (+-)(x x y) (+-) z, rounded once (R36). 0 x infinity raises invalid even when the
addend is a quiet NaN (R38). -/
def fFma (f : Fmt) (mode : BitVec 2) (fz : Bool) (negP negC : Bool) (a b c : Nat) : Nat × Flags :=
  let p := fpMul (fpRead f fz a) (fpRead f fz b)
  let pv := if negP then fpNeg p.1 else p.1
  let z := fpRead f fz c
  let s := fpAdd mode pv (if negC then fpNeg z else z)
  let r := fpWrite f mode fz s.1
  (r.1, r.2 ||| s.2 ||| p.2)

/-- The order of two values that are not NaN: -0 below +0 when `zeros` (R39). -/
def fpLt (zeros : Bool) (a b : FpVal) : Bool :=
  match a, b with
  | .inf x, .inf y => x && !y
  | .inf x, _ => x
  | _, .inf y => !y
  | .fin x m e, .fin y n g =>
    if m = 0 ∧ n = 0 then zeros && x && !y
    else
      let lo := if e ≤ g then e else g
      decide (sInt x (m * 2 ^ (e - lo).toNat) < sInt y (n * 2 ^ (g - lo).toNat))
  | _, _ => false

/-- The kind of NaN operands: none, quiet, or one signalling. -/
def nanKind (a b : FpVal) : Option Bool :=
  match a, b with
  | .nan x, .nan y => some (x || y)
  | .nan x, _ => some x
  | _, .nan y => some y
  | _, _ => none

/-- Minimum or maximum (R38, R39): operands are flushed under `fz`, a NaN gives the canonical NaN. -/
def fMinMax (f : Fmt) (fz : Bool) (max : Bool) (a b : Nat) : Nat × Flags :=
  let x := fpRead f fz a
  let y := fpRead f fz b
  match nanKind x y with
  | some s => (f.qnan, if s then fInv else 0)
  | none =>
    let takeB := if max then fpLt true x y else fpLt true y x
    fpWrite f 0 false (if takeB then y else x)

/-- Compare by condition code of R97 / R119: the truth and whether invalid is raised. -/
def fCmp (f : Fmt) (fz : Bool) (cc : Nat) (a b : Nat) : Bool × Flags :=
  let x := fpRead f fz a
  let y := fpRead f fz b
  let k := nanKind x y
  let un := k.isSome
  let sig := k = some true
  let lt := !un && fpLt false x y
  let gt := !un && fpLt false y x
  match cc with
  | 0 => (!un && !lt && !gt, if sig then fInv else 0)
  | 1 => (un || lt || gt, if sig then fInv else 0)
  | 2 => (lt, if un then fInv else 0)
  | 3 => (!un && !gt, if un then fInv else 0)
  | 4 => (gt, if un then fInv else 0)
  | 5 => (!un && !lt, if un then fInv else 0)
  | 6 => (un, if sig then fInv else 0)
  | _ => (!un, if sig then fInv else 0)

/-- Float to float (R42): widening is exact, narrowing rounds once. -/
def fConv (f g : Fmt) (mode : BitVec 2) (fz : Bool) (a : Nat) : Nat × Flags :=
  fpWrite g mode fz (fpRead f fz a)

/-- A value rounded to an integer by mode, and whether that changed it (R42). -/
def fpToInt (mode : BitVec 2) : FpVal → Option (Int × Bool)
  | .fin n m e =>
    let r := shRound mode n m (-e) false
    some (sInt n r.1, r.2)
  | _ => none

/-- Float to integer of `w` bits, signed or not (R42): saturates with invalid; a NaN gives 0. -/
def fToI (f : Fmt) (mode : BitVec 2) (fz : Bool) (w : Nat) (signed : Bool) (a : Nat) : Nat × Flags :=
  let lo : Int := if signed then -(2 ^ (w - 1)) else 0
  let hi : Int := if signed then 2 ^ (w - 1) - 1 else 2 ^ w - 1
  match fpRead f fz a with
  | .nan _ => (0, fInv)
  | .inf n => (wrapN w (if n then lo else hi), fInv)
  | .fin n m e =>
    let r := shRound mode n m (-e) false
    let v := sInt n r.1
    if v < lo then (wrapN w lo, fInv)
    else if hi < v then (wrapN w hi, fInv)
    else (wrapN w v, if r.2 then fInx else 0)

/-- Integer to float (R42). -/
def iToF (f : Fmt) (mode : BitVec 2) (fz : Bool) (v : Int) : Nat × Flags :=
  fpWrite f mode fz (.fin (decide (v < 0)) v.natAbs 0)

/-! ### Special functions (R43) -/

/-- Integer square root by binary digits, `k` of them. -/
def isqrtGo : Nat → Nat → Nat → Nat
  | 0, _, r => r
  | k + 1, n, r =>
    let t := r + 2 ^ k
    isqrtGo k n (if t * t ≤ n then t else r)

/-- The integer square root. -/
def isqrt (n : Nat) : Nat := isqrtGo (bitLen n / 2 + 1) n 0

/-- A finite nonzero operand of a special function with an even exponent. -/
def evenExp (m : Nat) (e : Int) : Nat × Int := if e % 2 = 0 then (m, e) else (2 * m, e - 1)

/-- vrcp (R43). (UNVERIFIED, log 32) -/
def fRcp (fz : Bool) (a : Nat) : Nat × Flags :=
  match fpRead fp32 fz a with
  | .nan s => (fp32.qnan, if s then fInv else 0)
  | .inf n => (fp32.zeroBits n, 0)
  | .fin n 0 _ => (fp32.infBits n, fDiv)
  | .fin n m e =>
    let k := bitLen m + 64
    roundTo fp32 0 fz n (2 ^ k / m) (-(k : Int) - e) (2 ^ k % m ≠ 0)

/-- vsqrt (R43). (UNVERIFIED, log 32) -/
def fSqrt (fz : Bool) (a : Nat) : Nat × Flags :=
  match fpRead fp32 fz a with
  | .nan s => (fp32.qnan, if s then fInv else 0)
  | .inf false => (fp32.infBits false, 0)
  | .fin n 0 _ => (fp32.zeroBits n, 0)
  | .fin false m e =>
    let x := evenExp m e
    let y := x.1 * 2 ^ 128
    let r := isqrt y
    roundTo fp32 0 fz false r (x.2 / 2 - 64) (r * r ≠ y)
  | _ => (fp32.qnan, fInv)

/-- vrsq (R43). (UNVERIFIED, log 32) -/
def fRsq (fz : Bool) (a : Nat) : Nat × Flags :=
  match fpRead fp32 fz a with
  | .nan s => (fp32.qnan, if s then fInv else 0)
  | .inf false => (fp32.zeroBits false, 0)
  | .fin n 0 _ => (fp32.infBits n, fDiv)
  | .fin false m e =>
    let x := evenExp m e
    let k := bitLen x.1 + 64
    let r := isqrt (2 ^ (2 * k) / x.1)
    roundTo fp32 0 fz false r (-(k : Int) - x.2 / 2) (r * r * x.1 ≠ 2 ^ (2 * k))
  | _ => (fp32.qnan, fInv)

/-- Precision of the transcendental evaluations, in bits below one. (UNVERIFIED, log 32) -/
def tprec : Nat := 256

/-- The product of 2^(2^-i) over the fraction bits of `f` (from bit `top` down), in fixed point; `c` is
2^(2^-i). -/
def exp2Go : Nat → Nat → Nat → Nat → Nat
  | 0, _, _, r => r
  | k + 1, f, c, r =>
    exp2Go k f (isqrt (c * 2 ^ tprec)) (if fld f k 1 = 1 then r * c / 2 ^ tprec else r)

/-- vexp2 (R43): exact for an integer operand; otherwise 2^floor(x) times the fixed-point 2^fraction.
(UNVERIFIED, log 32) -/
def fExp2 (fz : Bool) (a : Nat) : Nat × Flags :=
  match fpRead fp32 fz a with
  | .nan s => (fp32.qnan, if s then fInv else 0)
  | .inf n => (if n then 0 else fp32.infBits false, 0)
  | .fin _ 0 _ => (0x3F800000, 0)
  | .fin n m e =>
    if 0 ≤ e then
      let v := m * 2 ^ (if e < 16 then e.toNat else 16)
      if v < 4096 then roundTo fp32 0 fz false 1 (sInt n v) false
      else roundTo fp32 0 fz false 1 (if n then -4096 else 4096) true
    else if e < -80 then
      -- |x| below 2^-50: the value lies just above or just below one
      if n then roundTo fp32 0 fz false (2 ^ 80 - 1) (-80) true
      else roundTo fp32 0 fz false (2 ^ 80) (-80) true
    else
      let k := (-e).toNat
      let x := sInt n m
      let fl := x / (2 ^ k : Int)
      let fr := (x % (2 ^ k : Int)).toNat
      if 4096 < fl then roundTo fp32 0 fz false 1 4096 true
      else if fl < -4096 then roundTo fp32 0 fz false 1 (-4096) true
      else
        let c := isqrt (2 * 2 ^ (2 * tprec))
        let r := exp2Go k fr c (2 ^ tprec)
        roundTo fp32 0 fz false r (fl - tprec) (fr ≠ 0)

/-- Binary digits of log2 of `y` in [1, 2), in fixed point of 2 x `tprec` bits. -/
def log2Go : Nat → Nat → Nat → Nat
  | 0, _, d => d
  | k + 1, y, d =>
    let z := y * y / 2 ^ (2 * tprec)
    if 2 * 2 ^ (2 * tprec) ≤ z then log2Go k (z / 2) (2 * d + 1) else log2Go k z (2 * d)

/-- vlog2 (R43): exact for a power of two. (UNVERIFIED, log 32) -/
def fLog2 (fz : Bool) (a : Nat) : Nat × Flags :=
  match fpRead fp32 fz a with
  | .nan s => (fp32.qnan, if s then fInv else 0)
  | .inf false => (fp32.infBits false, 0)
  | .fin _ 0 _ => (fp32.infBits true, fDiv)
  | .fin false m e =>
    let l := bitLen m - 1
    let big : Int := e + l
    if m = 2 ^ l then
      (if big = 0 then (0, 0) else roundTo fp32 0 fz (decide (big < 0)) big.natAbs 0 false)
    else
      let y := m * 2 ^ (2 * tprec) / 2 ^ l
      let d := log2Go 160 y 0
      let v : Int := big * 2 ^ 160 + d
      if 0 ≤ v then roundTo fp32 0 fz false v.toNat (-160) true
      else roundTo fp32 0 fz true (-(v + 1)).toNat (-160) true
  | _ => (fp32.qnan, fInv)

/-- Taylor terms of exp in fixed point: `t` is the current term, `i` its index. -/
def expTaylor : Nat → Nat → Nat → Nat → Nat → Nat
  | 0, _, _, _, s => s
  | k + 1, y, i, t, s =>
    let t' := t * y / 2 ^ tprec / i
    expTaylor k y (i + 1) t' (s + t')

/-- Repeated squaring in fixed point. -/
def sqN : Nat → Nat → Nat
  | 0, x => x
  | k + 1, x => sqN k (x * x / 2 ^ tprec)

/-- vtanh (R43): (e^2x - 1) / (e^2x + 1) in fixed point; near zero just below x, far out just below 1.
(UNVERIFIED, log 32) -/
def fTanh (fz : Bool) (a : Nat) : Nat × Flags :=
  match fpRead fp32 fz a with
  | .nan s => (fp32.qnan, if s then fInv else 0)
  | .inf n => (n.toNat * 2 ^ 31 + 0x3F800000, 0)
  | .fin n 0 _ => (fp32.zeroBits n, 0)
  | .fin n m e =>
    let big := e + bitLen m
    if big < -40 then roundTo fp32 0 fz n (m * 2 ^ 64 - 1) (e - 64) true
    else if 5 < big then roundTo fp32 0 fz n (2 ^ 80 - 1) (-80) true
    else
      let y := if 0 ≤ e then m * 2 ^ e.toNat * 2 ^ tprec else m * 2 ^ tprec / 2 ^ (-e).toNat
      let x := expTaylor 48 (2 * y / 256) 1 (2 ^ tprec) (2 ^ tprec)
      let ex := sqN 8 x
      roundTo fp32 0 fz n ((ex - 2 ^ tprec) * 2 ^ tprec / (ex + 2 ^ tprec)) (-(tprec : Int)) true

end Sys2Proof.Machine
end

