-- ==== Sys2Proof/Machine/Flags.lean ====
section
/-!
DEFINITION. The flag computations of the scalar class: integer overflow (R33, R87, R88), the condition
codes of R89, and where raised flags stand in `FPC` (R23).
-/
namespace Sys2Proof.Machine

/-- `IOV` when an exact signed result lies outside S64 (R33). -/
def iovS64 (x : Int) : Flags := if x < -(2 ^ 63) ∨ 2 ^ 63 ≤ x then fIov else 0

/-- The truth of an integer condition code (R89). -/
def condOf (cc : Nat) (a b : Word) : Bool :=
  match cc with
  | 0 => a == b
  | 1 => a != b
  | 2 => a.slt b
  | 3 => b.sle a
  | 4 => a.sle b
  | 5 => b.slt a
  | 6 => a.ult b
  | 7 => b.ule a
  | 8 => a.ule b
  | 9 => b.ult a
  | 10 => (a &&& b) != 0
  | _ => (a &&& b) == 0

/-- The raised flags in `FPC`'s layout (R23): FPC[13:8]. -/
def flagsInFpc (f : Flags) : BitVec 32 := f.setWidth 32 <<< 8

/-- Do raised flags meet an enabled exception (R41)? `IOV` has no enable (R33). -/
def raisesTrap (f : Flags) (en : BitVec 5) : Bool := f.setWidth 5 &&& en != 0

end Sys2Proof.Machine
end

