-- ==== Sys2Proof/Machine/Ops.lean ====
section
/-!
DEFINITION. The named operations shared by every meaning: operations in flight, translation and the
checks of an access, memory requests, error records, taking a trap and returning from it.
-/
namespace Sys2Proof.Machine

/-! ### Operations in flight (R28, R57) -/

/-- The pipeline mode of a stream: that of the block it stands in; a side stream follows the main
stream (R68, R217). -/
def mergedNow (s : State) (k : Sid) : Bool := mergedPt (archOf s k.core).main.blk.pt

/-- A latency of full mode and of merged mode (R217). -/
def lat (s : State) (k : Sid) (full merged : Nat) : Nat := if mergedNow s k then merged else full

/-- The captured modes of a slot: rounding mode, enables (R24) and `fz` (R61). -/
def capRm (s : State) (k : Sid) : BitVec 2 := (archOf s k.core).fpc.extractLsb' 0 2
/-- Captured enables. -/
def capEn (s : State) (k : Sid) : BitVec 5 := (archOf s k.core).fpc.extractLsb' 3 5

/-- An operation in flight with latency `l` (at least 1) that writes `val` under `mask`; the opening of its counted cycle
takes one from `rem`. In every issue function `p` is the state before the bundle, which all slots read, and `s` collects their effects (R57). -/
def mkFlight (p : State) (h : Slot) (opc : BitVec 8) (dst : Dst) (val mask : Row) (l : Nat)
    (flags : BitVec 6) (latch : Latched) : Flight :=
  { slot := h.pos, opc := opc, dst := dst, mask := mask, val := val, latch := latch, rem := if l ≤ 1 then 1 else l + 1
    flags := flags, rm := capRm p p.focus, en := capEn p p.focus, fz := p.iss.fz, pc := p.iss.pc
    landing := false, shape := .row, req := 0, got := true, bad := none, fpx := false, late := false }

/-- Put an operation in flight on the issuing stream. -/
def emit (s : State) (x : Flight) : State :=
  modStrm s s.focus (fun y => { y with pipe := { y.pipe with ops := y.pipe.ops ++ [x] } })

/-- All bits of a scalar register. -/
def mask64 : Row := BitVec.ofNat 512 (2 ^ 64 - 1)
/-- One bit. -/
def mask1 : Row := 1
/-- All bits of a row. -/
def maskAll : Row := BitVec.ofNat 512 (2 ^ 512 - 1)

/-- A result for `s[sd]` with latency `l`. -/
def emitS (p s : State) (h : Slot) (opc : BitVec 8) (sd : BitVec 5) (v : Word) (l : Nat)
    (flags : BitVec 6) : State :=
  emit s (mkFlight p h opc (if sd = 0 then .none else .s sd.toNat) (BitVec.ofNat 512 v.toNat) mask64 l
    flags .none)

/-- A flag result, written at commit (R85). -/
def emitF (p s : State) (h : Slot) (opc : BitVec 8) (fx : BitVec 4) (v : Bool) (flags : BitVec 6) :
    State :=
  emit s (mkFlight p h opc (if fx = 0 then .none else .f fx.toNat) (BitVec.ofNat 512 v.toNat) mask1 1
    flags .none)

/-- Does the slot execute (R59)? -/
def slotOn (s : State) (h : Slot) : Bool := (strmOf s s.focus).flag h.pf != h.pn

/-- The value of `s[n]` for the issuing stream. -/
def rs (s : State) (n : BitVec 5) : Word := (strmOf s s.focus).reg n

/-! ### Traps in the making -/

/-- A trap at the bundle being issued (R83, R209). -/
def mkTrap (s : State) (h : Slot) (code grp : Nat) (targ : Word) (aux : Nat) : Trap :=
  { code := code, slot := h.pos, grp := grp, tpc := s.iss.pc, tfa := s.iss.pc, targ := targ
    aux := BitVec.ofNat 16 aux, swc := 0 }

/-- Illegal instruction in a slot (group 2). -/
def illegalInstr (s : State) (h : Slot) : SlotRes := .trap (mkTrap s h 1 2 0 0)
/-- Handle misuse at issue (group 4); AUX is the handle or queue number. -/
def handleMisuse (s : State) (h : Slot) (n : Nat) : SlotRes := .trap (mkTrap s h 9 4 0 n)
/-- Class violation at issue. (DESIGN CHOICE, log 54) -/
def classViolation (s : State) (h : Slot) (va : Word) : SlotRes := .trap (mkTrap s h 6 4 va 0)
/-- Permission trap at issue. -/
def permission (s : State) (h : Slot) (va : Word) : SlotRes := .trap (mkTrap s h 4 4 va 0)
/-- Repeat bounds (R172, R180 to R182, R103). (DEDUCED, log 24) -/
def repeatBounds (s : State) (h : Slot) (it : Nat) : SlotRes := .trap (mkTrap s h 8 4 0 it)
/-- Illegal instruction found at issue or at acceptance (R164, R205). (DEDUCED, log 24) -/
def illegalAtIssue (s : State) (h : Slot) : SlotRes := .trap (mkTrap s h 1 4 0 0)

/-! ### Translation (R285 to R297) -/

/-- Region size, log2 (R286). -/
def TEntry.lsz (e : TEntry) : Nat := wf e.w0 48 6
/-- Latency class. -/
def TEntry.lcl (e : TEntry) : Nat := wf e.w3 10 3
/-- Residency. -/
def TEntry.res (e : TEntry) : Nat := wf e.w3 8 2
/-- Read permission. -/
def TEntry.pr (e : TEntry) : Bool := e.w3.getLsbD 15
/-- Write permission. -/
def TEntry.pw (e : TEntry) : Bool := e.w3.getLsbD 14
/-- Execute permission. -/
def TEntry.px (e : TEntry) : Bool := e.w3.getLsbD 13
/-- Shadow pair. -/
def TEntry.shp (e : TEntry) : Bool := e.w3.getLsbD 7
/-- Current side. -/
def TEntry.side (e : TEntry) : Bool := e.w3.getLsbD 6
/-- Majority page. -/
def TEntry.mj (e : TEntry) : Bool := e.w3.getLsbD 5
/-- System-atomic page. -/
def TEntry.sya (e : TEntry) : Bool := e.w3.getLsbD 4
/-- Race check. -/
def TEntry.rck (e : TEntry) : Bool := e.w3.getLsbD 3
/-- Per-core entry. -/
def TEntry.per (e : TEntry) : Bool := e.w3.getLsbD 2

/-- Does an entry match a virtual address (R285)? -/
def TEntry.hits (e : TEntry) (va : Nat) : Bool :=
  e.w0.getLsbD 63 && decide (va / 2 ^ e.lsz = (wf e.w0 16 32 * 65536) / 2 ^ e.lsz)

/-- The lowest-numbered matching entry (R285). -/
def lookupE : Tbl TEntry → Nat → Option (Nat × TEntry)
  | [], _ => none
  | (i, e) :: t, va => if e.hits va then some (i, e) else lookupE t va

/-- The physical address through an entry, on the current side or on the shadow (R287, R300). -/
def entryPa (core : Nat) (e : TEntry) (shadow : Bool) (va : Nat) : Nat :=
  let base := if e.shp && (e.side != shadow) then wf e.w2 0 56 else wf e.w1 0 56
  let pa := base + va % 2 ^ e.lsz
  if e.per then pa / 2 ^ 32 * 2 ^ 32 + core * 2 ^ 22 + pa % 2 ^ 22 else pa

/-- What an access asks of its entry (R292, R134, R300). -/
structure Ask where
  rd     : Bool
  wr     : Bool
  ex     : Bool
  timed  : Bool
  /-- A store, atomic or `vsth` of a core: a shadow pair refuses it (R300). -/
  coreWr : Bool
  /-- An atomic: second-tier pages refuse it (R146). -/
  atomic : Bool
  /-- An engine destination: it reaches the shadow side (R300). -/
  engWr  : Bool
  /-- Only the own slice will do (R166, R177, R195, R204). -/
  own    : Bool
  /-- A majority operation: the page must have the majority bit (R133). -/
  major  : Bool
  /-- An access of an engine at a stack, which does not reach the second tier (R291). -/
  near   : Bool := false
deriving DecidableEq, Repr

/-- A load. -/
def askLoad : Ask :=
  { rd := true, wr := false, ex := false, timed := true, coreWr := false, atomic := false
    engWr := false, own := false, major := false }
/-- A store. -/
def askStore : Ask := { askLoad with rd := false, wr := true, timed := false, coreWr := true }
/-- An atomic, timed or not. -/
def askAtomic (timed : Bool) : Ask :=
  { askLoad with wr := true, timed := timed, coreWr := true, atomic := true }
/-- An engine source in the own slice or anywhere. -/
def askSrc (own : Bool) : Ask := { askLoad with timed := false, own := own }
/-- An engine destination. -/
def askDst (own : Bool) : Ask :=
  { askLoad with rd := false, wr := true, timed := false, engWr := true, own := own }
/-- A parcel fetch. -/
def askFetch : Ask := { askLoad with rd := false, ex := true, timed := false }

/-- Is an address in the slice of a core of this package? -/
def inSlice (s : State) (core : Nat) (pa : Nat) : Bool :=
  decide (paPkg pa = s.pkg.toNat) && decide (paSpace pa = 0) && decide (paCore pa = core)

/-- Is it one of the argument rows of the slice's top bank (R273)? -/
def isArgRow (core : Nat) (pa : Nat) : Bool :=
  decide (paBank pa = nBanks core - 1) && decide (2040 ≤ paRow pa % 2048)

/-- The permission part of an access (R133, R146, R291, R292, R300): what is neither a load nor a command of an engine does not
reach the second tier. (DEDUCED, log 97) -/
def askPerm (s : State) (core : Nat) (e : TEntry) (a : Ask) (pa : Nat) : Bool :=
  (!a.rd || e.pr) && (!a.wr || e.pw) && (!a.ex || e.px) && (e.mj == a.major) &&
  !(a.coreWr && e.shp) && !((a.coreWr || a.ex || a.near) && decide (paSpace pa = 2)) &&
  !(inSlice s core pa && (archOf s core).rlsd.getLsbD (paBank pa) && !isArgRow core pa)

/-- Translate an access and check it in the order of R136: unmapped, permission, class, residency.
Answers the entry's index, the entry and the physical address, or the trap code. -/
def access (s : State) (core : Nat) (a : Ask) (va : Word) : Except Nat (Nat × TEntry × Nat) :=
  match lookupE (archOf s core).tab (wf va 0 48) with
  | none => .error 3
  | some (i, e) =>
    let pa := entryPa core e a.engWr (wf va 0 48)
    if !askPerm s core e a pa then .error 4
    else if (a.timed && decide (e.lcl = 7)) || (a.own && !inSlice s core pa) then .error 6
    else match e.res with
      | 0 => .ok (i, e, pa)
      | 1 => .error 15
      | 2 => .error 14
      | _ => .error 13

/-- The place of a trap among those of one slot (R136): unmapped, permission, class, residency. -/
def accessRank (code : Nat) : Nat := if code = 3 then 0 else if code = 4 then 1 else if code = 6 then 2 else 3

/-- The first of two operands' faults in the order of R136; of one kind, that of the earlier operand: code and address. -/
def firstFault (a b : Option (Nat × Word)) : Option (Nat × Word) :=
  match a, b with
  | some x, some y => if accessRank y.1 < accessRank x.1 then some y else some x
  | x, y => x.or y

/-- The fault of a translation, with the address by which the dispatcher finds the region. -/
def faultOf (va : Word) : Except Nat (Nat × TEntry × Nat) → Option (Nat × Word)
  | .error c => some (c, BitVec.ofNat 64 (wf va 0 48))
  | .ok _ => none

/-- The physical address that a virtual one translates to, whatever its checks say. -/
def lookPa (s : State) (core : Nat) (a : Ask) (va : Nat) : Option Nat :=
  (lookupE (archOf s core).tab va).map (fun x => entryPa core x.2 a.engWr va)

/-- The first and the last byte of a range of `n` bytes, with what is asked of them (R164). -/
def rangeEnds (a : Ask) (va n : Nat) : List (Ask × Nat) :=
  [(a, va % 2 ^ 48), (a, (va % 2 ^ 48 + (if n = 0 then 1 else n) - 1) % 2 ^ 48)]

/-- The first fault, in the order of R136, that the first and the last bytes of ranges meet. -/
def rangesFault (s : State) (core : Nat) (l : List (Ask × Nat × Nat)) : Option (Nat × Word) :=
  (l.flatMap (fun x => rangeEnds x.1 x.2.1 x.2.2)).foldl
    (fun f x => firstFault f (faultOf (BitVec.ofNat 64 x.2) (access s core x.1 (BitVec.ofNat 64 x.2)))) none

/-- The entries through which the first and the last bytes of ranges go. -/
def rangeHots (s : State) (core : Nat) (l : List (Ask × Nat × Nat)) : List Nat :=
  (l.flatMap (fun x => rangeEnds x.1 x.2.1 x.2.2)).filterMap (fun x => (lookupE (archOf s core).tab x.2).map (·.1))

/-- Count a translation in an entry's HOT, which holds at 65,535 (R299). -/
def countHot (s : State) (core i : Nat) : State :=
  modArch s core (fun a => { a with tab := a.tab.map (fun x =>
    if x.1 = i ∧ wf x.2.w0 0 16 < 65535 then (x.1, { x.2 with w0 := x.2.w0 + 1 }) else x) })

/-! ### Scopes and homes (R305 to R307) -/

/-- Is a package in the chain context of a core's task (R305)? The stage names its neighbours; a task outside any chain
names the pod (R306). (DESIGN CHOICE, log 61) -/
def inChain (s : State) (core pkg : Nat) : Bool :=
  match (archOf s core).task with
  | none => true
  | some t => match (ctxOf s t.ctx).chain with
    | none => true
    | some y => (y.w0.getLsbD 17 && wf y.w0 40 8 == pkg) || (y.w0.getLsbD 16 && wf y.w0 32 8 == pkg) || Config.chainHas t.ctx pkg

/-- Does the instance of a scope, for a core, hold the home of an address? (DESIGN CHOICE, log 61) -/
def scopeHolds (s : State) (core scp pa : Nat) : Bool :=
  let here := decide (paPkg pa = s.pkg.toNat)
  let sram := here && decide (paSpace pa = 0)
  let c := paCore pa
  let copse := fun (x : Nat) => (x / 128, if isRoot x then x % 128 - 64 else x % 128 / 4)
  let own := sram && decide (c = core)
  match scp with
  | 0 => own
  | 1 => own
  | 2 => sram && decide (copse c = copse core)
  | 3 => sram && decide (c / 128 = core / 128)
  | 4 => own || (here && decide (paSpace pa = 1))
  | 5 => here && decide (paSpace pa ≤ 1)
  | 6 => decide (paSpace pa ≠ 2) && (here || inChain s core (paPkg pa))
  | 7 => decide (paSpace pa ≠ 2)
  | _ => true

/-! ### Requests (R57, R307 to R310) -/

/-- The node whose task a core runs: context and number. -/
def nodeIds (s : State) (core : Nat) : Nat × Nat := match (archOf s core).task with
  | some t => (t.ctx, t.node)
  | none => (0, 0)

/-- The scopes at which an access is a release: by its own order, and, for a store, by the fence before it (R310, R312).
(DEDUCED, log 66) -/
def relScopes (s : State) (k : Sid) (store : Bool) (ord : BitVec 2) (scp : Nat) : List Nat :=
  (if ord = 2 then [scp] else []) ++ (if store then (strmOf s k).relF.toList else [])

/-- The earlier requests of the stream that a new one waits for: those of the same row in program
order (R308), acquires whose scope holds the new home (R310), all of the scopes at which it is a release (R310, R312),
and those to the same other package in the ordered class (R324). Rows that an engine wrote come before both streams' later
accesses to them (R169). -/
def reqWaits (s : State) (k : Sid) (pa : Nat) (rels : List Nat) : List Nat :=
  ((archOf s k.core).reqs.filter (fun r =>
    (decide (canon (rowBase r.pa) = canon (rowBase pa)) && (r.eng || r.side == k.side)) || (!r.eng && r.side == k.side &&
    ((r.acq && scopeHolds s k.core r.scp pa) ||
     rels.any (fun scp => scopeHolds s k.core scp r.pa) ||
     (decide (paPkg pa ≠ s.pkg.toNat) && decide (paPkg r.pa = paPkg pa)))))).map (·.id)

/-- Issue a memory request of a slot; answers its identity. In protected mode anything that writes
waits in the outbound stage for the bundle's compare (R29). -/
def issueReq (s : State) (h : Slot) (op : ReqOp) (pa len : Nat) (data : Row) (mask : BitVec 64)
    (cmp : Word) (ord : BitVec 2) (scp : Nat) (hnd : Option Nat) (part : Bool := false) : Nat × State :=
  let k := s.focus
  let c := coreOf s k.core
  let r : Req :=
    { id := s.ids, side := k.side, slot := h.pos, pc := s.iss.pc, op := op, pa := pa, len := len
      data := data, mask := mask, cmp := cmp, acq := ord = 1, rel := ord = 2, scp := scp, hnd := hnd
      wait := reqWaits s k pa (relScopes s k (op == .store) ord scp)
      stg := if c.split ∨ op = .load then none else some c.seq, sent := false
      sig := op != .load && !(relScopes s k (op == .store) ord scp).isEmpty
      part := part, ctx := (nodeIds s k.core).1, node := (nodeIds s k.core).2 }
  (s.ids, { modArch s k.core (fun a => { a with reqs := a.reqs ++ [r] }) with ids := s.ids + 1 })

/-- Put a timed landing in flight (R26, R134): arrival `arr`, data shaped on arrival. -/
def emitLanding (p s : State) (h : Slot) (opc : BitVec 8) (dst : Dst) (mask : Row) (shape : Shape)
    (arr req : Nat) : State :=
  emit s { mkFlight p h opc dst 0 mask arr 0 .none with
           landing := true, shape := shape, req := req, got := false, rem := arr + 1 }

/-- Which side of the landing buffers an entry takes: 8 is the scalar side, else a cluster (R26). -/
def landSide (x : Flight) : Nat :=
  if x.slot = 2 then 8 else if x.slot.toNat < 12 then x.slot.toNat - 4 else x.slot.toNat - 12

/-- Landing entries in use on a side, those of held snapshots included (R26, R210); one that frees in the counted cycle
about to open still counts in it. -/
def landUsed (a : Arch) (side : Nat) : Nat :=
  let n := fun (p : Pipe) => (p.ops.filter (fun x => x.landing && decide (landSide x = side))).length
  let m := fun (x : Stream) => (x.freed.filter (· == side)).length
  n a.main.pipe + n a.main.frame.held + m a.main + n a.side.pipe + n a.side.frame.held + m a.side

/-- Is a landing entry free on a side (R26)? -/
def landFree (s : State) (side : Nat) : Bool :=
  decide (landUsed (archOf s s.focus.core) side < if side = 8 then 8 else 16)

/-- Has the bundle's condition `n` been passed before (R59, R136)? (DEDUCED, log 23) -/
def passed (s : State) (n : Nat) : Bool := decide (n ≤ (strmOf s s.focus).stage)

/-- The launch that owns a bank of a core, by 32 x core + bank: the first that declared it, leaving out those saved
there (R278, R385). (DEDUCED, log 72) -/
def bankOwner (s : State) (key : Nat) : Option (Nat × Nat) :=
  (tget [] s.hub.banks key).find? (fun e =>
    !s.hub.saves.any (fun v => v.core == key / 32 && v.ctx == e.1 && v.node == e.2))

/-- Does a launch own a bank of another core of its stand, if it declared it and has not passed it on (R163, R278)? -/
def ownsPeer (s : State) (t : Task) (pa : Nat) : Bool :=
  let key := 32 * paCore pa + paBank pa
  !(tget [] s.hub.banks key).contains (t.ctx, t.node) || bankOwner s key == some (t.ctx, t.node)

/-- Does the running launch own every bank it declared that an address lies in, of the own slice or of another core's of
its stand (R136 condition 7, R278)? -/
def ownsBank (s : State) (core : Nat) (pa : Nat) : Bool :=
  let a := archOf s core
  match a.task with
  | none => true
  | some t =>
    if inSlice s core pa then
      isArgRow core pa || !a.decl.getLsbD (paBank pa) || bankOwner s (32 * core + paBank pa) == some (t.ctx, t.node)
    else decide (paPkg pa ≠ s.pkg.toNat) || decide (paSpace pa ≠ 0) || isArgRow (paCore pa) pa || ownsPeer s t pa

/-! ### Error records (R397 to R399) -/

/-- The fields of an error record that its event fixes. -/
structure ErrRec where
  kind : Nat
  trap : Nat
  sev  : Nat
  out  : Nat
  core : Nat
  side : Bool
  aux  : Nat
  node : Nat
  addr : Nat
deriving DecidableEq, Repr

/-- The 32 bytes of a record, with the count of records lost before it (R397). -/
def ErrRec.bits (s : State) (e : ErrRec) (lost : Nat) : Nat :=
  s.hub.htck.toNat * 2 ^ 192 + (e.addr % 2 ^ 56) * 2 ^ 136 + (e.node % 2 ^ 32) * 2 ^ 96 +
  (e.aux % 2 ^ 32) * 2 ^ 64 + (if lost < 65535 then lost else 65535) * 2 ^ 48 + s.pkg.toNat * 2 ^ 40 +
  (e.core / 128 % 8) * 2 ^ 37 + (e.core % 128) * 2 ^ 30 + e.side.toNat * 2 ^ 29 + e.out * 2 ^ 20 +
  e.sev * 2 ^ 16 + e.trap * 2 ^ 8 + e.kind

/-- Write an error record to the package ring (R399). -/
def logPkg (s : State) (e : ErrRec) : State :=
  let r := s.hub.ring
  if r.n = 0 ∨ r.head - r.ack = r.n then { s with hub := { s.hub with ring := { r with lost := r.lost + 1 } } }
  else
    let s' := writeRec s (r.base.toNat + 32 * (r.head.toNat % r.n.toNat)) 32 (e.bits s r.lost)
    { s' with hub := { s'.hub with ring := { r with head := r.head + 1, lost := 0 } } }

/-- A write-back of part of a row, or a host read, finds an error that nothing had met: the row is poisoned without a consumer, which
a record of kind 0x03 says (R391, R398). `mask` names the bytes written, none for a read. -/
def noteFound (s : State) (pa mask : Nat) : State :=
  if s.flaws.contains (canon pa / 64) && (mask == 0 || partMask pa mask) then
    logPkg (meetError s pa) { kind := 3, trap := 0, sev := 2, out := 0, core := 0, side := false, aux := 0, node := 0, addr := rowBase pa }
  else s

/-- Write an error record to a context's ring, raising its vector when `EIRQ` is set (R399). -/
def logCtx (s : State) (c : Nat) (e : ErrRec) : State :=
  let x := ctxOf s c
  let n := recN x.record 48 4
  if n = 0 ∨ (x.erhead - x.erack).toNat = n then putCtx s c { x with erlost := x.erlost + 1 }
  else
    let s' := writeRec s (recN x.record 40 8 + 32 * (x.erhead.toNat % n)) 32 (e.bits s x.erlost)
    putCtx s' c { x with erhead := x.erhead + 1, erlost := 0, vector := x.vector || x.eirq }

/-! ### Tokens (R227 to R230) -/

/-- The rail that feeds a core: island 8g + j div 2 of copse j, or 64 + g for a root core (R227, R427). -/
def railOf (c : Nat) : Nat := if isRoot c then 64 + c / 128 else c / 128 * 8 + c % 128 / 8

/-- Tokens that a core gives up unused no longer count against their intervals (R230). -/
def returnTokens (s : State) (c : Nat) : State :=
  let k := (archOf s c).tok
  let back := fun (h : Hub) (start : Bool) =>
    { h with tokAt := tmod [] h.tokAt (2 * railOf c + start.toNat) (fun l => l.eraseP (fun g => g.1 == c)) }
  let h1 := if k.stGot then back s.hub true else s.hub
  let h2 := if k.clrGot then back h1 false else h1
  modArch { s with hub := h2 } c (fun a => { a with tok := Tokens.none })

/-! ### Stopping a node (R393) -/

/-- Forget the draw that replay holds for a core (R358). (DEDUCED, log 25) -/
def dropDraw (s : State) (c : Nat) : State := match (archOf s c).task with
  | none => s
  | some t => modCtx s t.ctx (fun x => { x with held := x.held.filter (fun h => !(h.1 / 2 ^ 56 == 3 && fld h.2.1 14 10 == c)) })

/-- Forget the chain signals of a core that still wait for their compare (R29). -/
def dropSigs (s : State) (c : Nat) : State := match (archOf s c).task with
  | none => s
  | some t => modCtx s t.ctx (fun x => { x with sigs := x.sigs.filter (fun g => g.core != c || g.stg.isNone) })

/-- Stop every stream of a core with nothing saved; its copy commands stop, and what waits for a compare never
leaves (R29, R393). -/
def stopCore (s : State) (c : Nat) : State :=
  let s1 := returnTokens (dropSigs (dropDraw s c) c) c
  let s2 := putCore s1 c { coreOf s1 c with roll := [] }
  let s3 := { s2 with net := s2.net.filter (fun m => m.src != c || m.stg.isNone) }
  modArch s3 c (fun a => { a with
    run := .stopped, cp := [], smv := [], tok := Tokens.none, reqs := a.reqs.filter (fun r => r.stg.isNone), preq := []
    main := { a.main with due := .nothing, pipe := Pipe.empty }
    side := { a.side with due := .nothing, pipe := Pipe.empty } })

/-- The cores that run a node's tasks. -/
def coresOf (s : State) (ctx node : Nat) : List Nat :=
  (s.cores.filter (fun x => match x.2.arch.task with
    | some t => t.ctx == ctx && t.node == node
    | none => false)).map (·.1)

/-- The record of an event at a stream's task, for its context's ring. -/
def taskRec (s : State) (k : Sid) (kind trap sev out aux addr : Nat) : Nat × ErrRec :=
  match (archOf s k.core).task with
  | none => (0, { kind := kind, trap := trap, sev := sev, out := out, core := k.core, side := k.side
                  aux := aux, node := 0, addr := addr })
  | some t => (t.ctx, { kind := kind, trap := trap, sev := sev, out := out, core := k.core, side := k.side
                        aux := aux, node := t.node, addr := addr })

/-- Log an event of a task to its context's ring, and to the package ring as well when `both`. -/
def logTask (s : State) (k : Sid) (both : Bool) (kind trap sev out aux addr : Nat) : State :=
  let r := taskRec s k kind trap sev out aux addr
  let s1 := logCtx s r.1 r.2
  if both then logPkg s1 r.2 else s1

/-- The outcome a consumed error leads to (R393, R397): the node is re-queued, killed at its rerun limit, or
its context is killed. -/
def outcomeOf (s : State) (k : Sid) : Nat :=
  match (archOf s k.core).task with
  | none => 0
  | some t => match nodeOf s t.ctx t.node with
    | none => 4
    | some n => if !n.restart then 4 else if n.reruns < 2 then 2 else 3

/-- Record the errors that a core has consumed and whose trap its next boundary would have taken: a containment of its
node stops it first (R396). -/
def recordErrs (s : State) (c : Nat) : State :=
  [false, true].foldl (fun s side =>
    let k : Sid := { core := c, side := side }
    ((strmOf s k).pend.filter (fun t => wf t.1 0 8 == 18)).foldl (fun s t =>
      logTask s k true 4 18 3 (outcomeOf s k) (wf t.1 16 16) t.2.2.toNat) s) s

/-- A K trap (R209, R393): every core of the node stops, and the node waits for the dispatcher to settle
it (CONTAINMENT). `fatal` marks the traps that kill at once. The first trap's settlement stands. (DEDUCED, log 85) -/
def kTrap (s : State) (k : Sid) (code : Nat) (fatal : Bool) : State :=
  match (archOf s k.core).task with
  | none => stopCore s k.core
  | some t =>
    let l := coresOf s t.ctx t.node
    let s1 := l.foldl stopCore ((l.filter (· != k.core)).foldl recordErrs s)
    modNode s1 t.ctx t.node (fun n =>
      { n with kill := match n.kill with
          | none => some (code, fatal)
          | some x => some x })

/-! ### Preemption (R209, R296, R385) -/

/-- Ask for a preemption of the launch a core runs: its streams freeze at their next boundaries. -/
def askSave (s : State) (c : Nat) (cause : SaveCause) : State :=
  modArch s c (fun a => if a.task.isNone || a.preq.contains cause then a else { a with preq := a.preq ++ [cause] })

/-- Is an address of a core's slice one of the save set: in a bank of a mask, or an argument row (R386)? -/
def keptPa (pkg : BitVec 8) (core keep pa : Nat) : Bool :=
  decide (pa / 2 ^ 22 = pkg.toNat * 2 ^ 26 + core) && (keep.testBit (paBank pa) || isArgRow core pa)

/-- The kept banks of a node (R263). -/
def keptBanks (s : State) (ctx node : Nat) : Nat := match nodeOf s ctx node with
  | some n => recN n.record 76 4
  | none => 0

/-- Where the image of a core lies in the save area of a context (R378, R385). (DESIGN CHOICE, log 71) -/
def imageBase (s : State) (ctx core : Nat) : Nat :=
  recN (ctxOf s ctx).record 56 8 + 0x440000 * (80 * (core / 128) + core % 128)

/-- Write a core's image into the save area of its context (R385): its rows are free, as the spec lays no image out.
(DESIGN CHOICE, log 71) -/
def writeImage (s : State) (ctx core : Nat) : State :=
  let rows := (Config.saveImage s.fresh).map (fun x => (rowBase (imageBase s ctx core + 64 * (x.1 % 69632)), x.2))
  { s with
    fresh := s.fresh + 1
    mem := rows.foldl (fun m x => writeN m (canon x.1) x.2.toNat (2 ^ 64 - 1) 64) s.mem
    poison := s.poison.filter (fun r => !rows.any (fun x => canon x.1 / 64 == r))
    flaws := s.flaws.filter (fun r => !rows.any (fun x => canon x.1 / 64 == r)) }

/-- The first row of a core's image that holds an uncorrectable error (R392). (DESIGN CHOICE, log 71) -/
def savedBad (s : State) (ctx core : Nat) : Option Nat :=
  ((s.poison ++ s.flaws).find? (fun r => (offIn (imageBase s ctx core) 0x440000 (64 * r)).isSome)).map (64 * ·)

/-- Save a core (R385, R386): its image is taken with the causes that hold it and written, and the core is left to other
launches. The bundles at which its streams stand meet their issue conditions anew at restore.
(DEDUCED, log 63; DESIGN CHOICE, log 71) -/
def saveCore (s : State) (c : Nat) : State :=
  let a := archOf s c
  match a.task with
  | none => s
  | some t =>
    let s := returnTokens s c
    let fresh := fun (x : Stream) => { x with stage := 0, tabAt := none, lheld := false, mjok := none }
    let kept := keptPa s.pkg c (keptBanks s t.ctx t.node)
    let img : Save := { core := c, ctx := t.ctx, node := t.node, split := (coreOf s c).split, causes := a.preq, holds := []
                        mem := s.mem.filter (fun x => kept x.1), tags := s.tags.filter (fun x => kept (64 * x.1))
                        bad := ((s.poison ++ s.flaws).find? (fun r => kept (64 * r))).map (64 * ·)
                        arch := { a with preq := [], tok := Tokens.none, main := fresh a.main, side := fresh a.side } }
    let s0 := writeImage s t.ctx c
    let s1 := { s0 with hub := { s0.hub with saves := s0.hub.saves ++ [img] } }
    modArch s1 c (fun b => { b with
      run := .saved, task := none, tok := Tokens.none, preq := [], cp := []
      main := { b.main with due := .nothing, pipe := Pipe.empty }
      side := { b.side with due := .nothing, pipe := Pipe.empty } })

/-! ### Taking a trap (R209 to R211) -/

/-- The launch's handler of a stream: the task's for the main stream, the context record's for the side
stream (R210). -/
def handlerOf (s : State) (k : Sid) : Option (BitVec 48) :=
  match (archOf s k.core).task with
  | none => none
  | some t =>
    if k.side then
      let h := recN (ctxOf s t.ctx).record 16 8
      if h = 2 ^ 64 - 1 then none else some (BitVec.ofNat 48 h)
    else t.hnd

/-- The trap cause register of a trap (R208). -/
def causeOf (k : Sid) (t : Trap) : Word :=
  BitVec.ofNat 64 (t.swc.toNat * 2 ^ 48 + t.aux.toNat * 2 ^ 32 + 2 ^ 31 + k.side.toNat * 2 ^ 30 +
    t.slot.toNat * 2 ^ 24 + t.grp % 8 * 2 ^ 8 + t.code % 256)

/-- H-trap entry (R210): the frame is written, what is in flight is held, the loops, the enables and the
sticky flags are cleared, and the stream transfers to the handler's block header. -/
def enterHandler (s0 : State) (k : Sid) (t : Trap) (hnd : BitVec 48) : State :=
  let s := if k.side then s0 else returnTokens s0 k.core
  let a := archOf s k.core
  let x := a.stream k.side
  let f : Frame :=
    { tcause := causeOf k t, tpc := t.tpc, tfa := t.tfa, targ := t.targ, tflg := x.f ||| 1, tfpc := a.fpc
      tblk := x.blk.hdr, tlc0 := x.lc0, tlb0 := x.lb0, tle0 := x.le0, tlc1 := x.lc1, tlb1 := x.lb1
      tle1 := x.le1, snsel := x.frame.snsel, held := x.pipe, clr := a.clr, blk := x.blk
      due := if x.due = .done ∨ x.due = .yield then x.due else .nothing, more := x.pend }
  let x' := { x with frame := f, lc0 := 0, lc1 := 0, pc := hnd, due := .header, stage := 0, tabAt := none, lheld := false, pend := []
                     mjok := none, resume := none, pipe := { Pipe.empty with merged := x.pipe.merged } }
  putArch s k.core { a.withStream k.side x' with fpc := a.fpc &&& 3 }

/-- Who takes a trap (R209). -/
inductive Taker where
  | handler
  | dispatcher
  | containment (fatal : Bool)
deriving DecidableEq, Repr

/-- The taker of a trap code (R209). -/
def takerOf (code : Nat) : Taker :=
  match code with
  | 3 => .containment true
  | 13 => .dispatcher
  | 14 => .dispatcher
  | 15 => .dispatcher
  | 17 => .containment false
  | 18 => .containment false
  | _ => .handler

/-- The region of the shadow table through which an address translates, 0 when none. -/
def regionOf (s : State) (core : Nat) (va : Word) : Nat :=
  match lookupE (archOf s core).tab (wf va 0 48) with
  | some (_, e) => e.reg
  | none => 0

/-- A D trap (R209, R296, R298): the dispatcher suspends the task, posts a page request for an absent page, and notes
a dropped region. Stage and frame are kept: the bundle reissues at restore. -/
def suspendTask (s : State) (k : Sid) (t : Trap) : State :=
  let r := regionOf s k.core t.targ
  match (archOf s k.core).task with
  | none => s
  | some x =>
    let s1 := modStrm s k (fun y => { y with stage := 0, tabAt := none, lheld := false })
    let s2 := modCtx s1 x.ctx (fun c =>
        { c with pages := if t.code ≠ 15 ∨ c.pages.contains r then c.pages else c.pages ++ [r]
                 drops := if t.code = 13 then c.drops ++ [(r, x.node)] else c.drops })
    askSave s2 k.core (.page r)

/-- Take a trap (R209 to R211): an H trap enters the handler; with a frame active it is a double trap
and kills the node; with no handler it is a K trap; D traps suspend; K traps stop the node. -/
def takeTrap (s : State) (k : Sid) (t : Trap) : State :=
  match takerOf t.code with
  | .dispatcher => suspendTask s k t
  | .containment fatal =>
    let kind := if t.code = 17 then 5 else if t.aux = 6 then 6 else 4
    let aux := if kind = 4 then t.aux.toNat else t.slot.toNat
    let s1 := if fatal then logTask s k false 9 t.code 3 3 t.code 0
              else logTask s k true kind t.code 3 (outcomeOf s k) aux t.targ.toNat
    kTrap s1 k t.code fatal
  | .handler =>
    if (strmOf s k).frame.act then kTrap (logTask s k false 7 t.code 4 3 t.code 0) k t.code true
    else match handlerOf s k with
      | none => kTrap (logTask s k false 9 t.code 3 3 t.code 0) k t.code true
      | some hnd => enterHandler s k t hnd

/-! ### Returning from a trap (R108, R212) -/

/-- Return from the frame (R108, R212): the program counter, flags, loop levels, `RM` and `EN` are
restored, sticky flags are kept, snapshots with an enabled exception are dropped and the others
reinstated, and the interrupted block is current again. `blk` is the block at `TBLK`; with `entry` the
return performs a block entry into it instead. A `done` or `yield` whose drain the trap interrupted goes on draining:
the spec does not say where such a return resumes. (DEDUCED, logs 34 and 41) -/
def returnFrame (s : State) (k : Sid) (blk : Block) (entry : Bool) : State :=
  let a := archOf s k.core
  let x := a.stream k.side
  let f := x.frame
  let fpc := (f.tfpc &&& 0xFF) ||| ((f.tfpc ||| a.fpc) &&& 0x3F00)
  let held := { f.held with ops := f.held.ops.filter (fun y => !y.fpx) }
  let inside := decide (blk.hdr.toNat + 12 ≤ f.tpc.toNat) && decide (f.tpc.toNat < blk.ext.toNat)
  let x' := { x with f := f.tflg ||| 1, lc0 := f.tlc0, lb0 := f.tlb0, le0 := f.tle0, lc1 := f.tlc1
                     lb1 := f.tlb1, le1 := f.tle1, pipe := held, stage := 0, pend := x.pend ++ f.more
                     pc := if entry then f.tblk else f.tpc
                     due := if entry then .header else if f.due ≠ .nothing then f.due else if inside then .bundle else .header
                     resume := if entry then some f.tpc else none
                     blk := if entry then f.blk else blk
                     frame := { Frame.empty with snsel := f.snsel }, resto := !k.side }
  putArch s k.core { a.withStream k.side x' with fpc := fpc, clr := if k.side then a.clr else f.clr }

/-! ### One slot -/

/-- Record the arrival of a core at a barrier of its launch (R200). -/
def arriveBar (s : State) (k : Sid) (scp id : Nat) : State :=
  match (archOf s k.core).task with
  | none => s
  | some t =>
    let inst := match scp with
      | 2 => k.core / 128 * 16 + (if isRoot k.core then k.core % 128 - 64 else k.core % 128 / 4)
      | 3 => k.core / 128
      | _ => 0
    let same := fun (b : Barrier) => b.ctx == t.ctx && b.node == t.node && b.scp == scp && b.id == id &&
      b.inst == inst
    let bars := if s.hub.bars.any same then
        s.hub.bars.map (fun b => if same b then { b with arr := b.arr ++ [k.core] } else b)
      else s.hub.bars ++ [{ ctx := t.ctx, node := t.node, scp := scp, id := id, inst := inst
                            arr := [k.core] }]
    modArch { s with hub := { s.hub with bars := bars } } k.core
      (fun a => { a with arrv := a.arrv ++ [(scp, id, false)] })

/-- Enter a request behind those that came before it; those of one tick stand in core order (R229). -/
def enterToken (x : Nat × Bool × Nat × Nat) : List (Nat × Bool × Nat × Nat) → List (Nat × Bool × Nat × Nat)
  | [] => [x]
  | y :: t =>
    if y.1 = x.1 ∧ y.2.1 = x.2.1 ∧ (x.2.2.2 < y.2.2.2 ∨ y.2.2.2 = x.2.2.2 ∧ x.2.2.1 < y.2.2.1) then x :: y :: t else y :: enterToken x t

/-- Request a token of a kind (R229, R230); a core has at most one request of each kind. -/
def requestToken (s : State) (c : Nat) (start : Bool) : State :=
  let t := (archOf s c).tok
  if (if start then t.stReq || t.stGot else t.clrReq || t.clrGot) then s
  else
    let s1 := modArch s c (fun a => { a with tok := if start then { t with stReq := true }
                                                    else { t with clrReq := true } })
    let q := s1.hub.tokq.filter (fun x => !(x.2.1 == start && x.2.2.1 == c))
    { s1 with hub := { s1.hub with tokq := enterToken (railOf c, start, c,
      s1.hub.htck.toNat + (missedTurn s1 (.token (railOf c) start) c).toNat) q } }

/-- What a held bundle leaves behind while it waits. -/
def applyWait (s : State) (k : Sid) : Wait → State
  | .plain => s
  | .checks => s
  | .token => requestToken s k.core true
  | .arrive scp id => arriveBar s k scp id
  | .majority => s
  | .launch _ => s

/-- A slot's issue with its predicate (R59): a slot that does not execute has no effect. -/
def runSlot (h : Slot) (g : State → State → SlotRes) (p s : State) : SlotRes :=
  if slotOn p h then g p s else .ok s

/-- What the issue of one slot of the bundle at hand comes to, by itself: its effects enter the state;
a hold freezes, leaving what it leaves; a trap is taken. -/
def slotStep (h : Slot) (g : State → State → SlotRes) (s : State) :
    Host.Outcome State Fault Refusal :=
  match runSlot h g s s with
  | .ok t => .next t
  | .hold _ _ w => .next (applyWait s s.focus w)
  | .trap t => .next (takeTrap s s.focus t)

end Sys2Proof.Machine
end

