-- ==== Sys2Proof/Machine/Operands.lean ====
section
/-!
DEFINITION. The operand forms: immediates, the scalar type codes of R95, rounding-mode fields (R35),
effective addresses (R133), vector operands (R72) and the lane layouts of R15.
-/
namespace Sys2Proof.Machine

/-- Sign extension of a field to 64 bits (R87). -/
def sext (x : BitVec n) : Word := x.signExtend 64
/-- Zero extension to 64 bits. -/
def zext (x : BitVec n) : Word := x.setWidth 64

/-- The rounding mode of a slot from its `rn` field and the captured `RM` (R35). -/
def modeOf (p : State) (rn : BitVec 2) : BitVec 2 :=
  match rn.toNat with
  | 0 => capRm p p.focus
  | 1 => 0
  | _ => 1

/-- The float format of a scalar type code (R95). -/
def scFmt (xt : Nat) : Fmt := match xt with
  | 0 => fp32
  | 1 => bf16
  | _ => fp16

/-- Is a scalar type code a float? -/
def scIsF (xt : Nat) : Bool := decide (xt < 3)
/-- Width of a scalar integer type code. -/
def scIW (xt : Nat) : Nat := if xt = 3 ∨ xt = 4 then 32 else 64
/-- Signedness of a scalar integer type code. -/
def scIS (xt : Nat) : Bool := decide (xt = 3) || decide (xt = 13)

/-- The effective address of a row form: base + offset x 64 (R133). -/
def eaRow (base : Word) (off : BitVec 12) : Word := base + sext off * 64
/-- The effective address of `vbld`: base + offset x 8. -/
def eaVWord (base : Word) (off : BitVec 12) : Word := base + sext off * 8
/-- The effective address of an SM word form. -/
def eaWord (base : Word) (off : BitVec 9) : Word := base + sext off * 8

/-- A vector operand by its 6-bit code: a register, a queue head or a latch of the cluster (R72). -/
def vOperand (p : State) (c : Nat) (code : BitVec 6) : Row :=
  let a := archOf p p.focus.core
  if code.toNat < 32 then tget 0 (a.clus c).v code.toNat
  else if code.toNat < 40 then ((a.qEnts (code.toNat - 32)).head?.map (·.data)).getD 0
  else if code = 40 then (a.clus c).la else (a.clus c).lm

/-- The mask register of a cluster as it stands before the bundle (R16). -/
def vMask (p : State) (c : Nat) (m : BitVec 3) : BitVec 16 :=
  ((archOf p p.focus.core).clus c).maskReg m.toNat

/-- The bits of a row that a 16-lane mask governs (R16). -/
def laneBits (m : BitVec 16) : Row :=
  BitVec.ofNat 512 (joinN 32 ((List.range 16).map (fun k => if m.getLsbD k then 2 ^ 32 - 1 else 0)))

/-- The bytes of a row that a 16-lane mask governs. -/
def laneBytes (m : BitVec 16) : BitVec 64 :=
  BitVec.ofNat 64 (joinN 4 ((List.range 16).map (fun k => if m.getLsbD k then 15 else 0)))

end Sys2Proof.Machine
end

