-- ==== Sys2Proof/Machine/Scalar.lean ====
section
/-!
DEFINITION. The scalar compute class (R85 to R99): one issue function and one step per instruction, over
the shared forms below. Latencies are those of R86.
-/
namespace Sys2Proof.Machine

/-- A register form: both operands read before the bundle, the result after its group's latency. -/
def scReg (h : Slot) (opc : BitVec 8) (full merged : Nat) (sd sa sb : BitVec 5)
    (g : Word → Word → Word × Flags) (p s : State) : SlotRes :=
  let r := g (rs p sa) (rs p sb)
  .ok (emitS p s h opc sd r.1 (lat p p.focus full merged) r.2)

/-- A form with a sign-extended immediate (R87). -/
def scImm (h : Slot) (opc : BitVec 8) (o : ScI) (g : Word → Word → Word × Flags) (p s : State) : SlotRes :=
  let r := g (rs p o.sa) (sext o.imm)
  .ok (emitS p s h opc o.sd r.1 1 r.2)

/-- Wrapped sum and its overflow (R87). -/
def wAdd (a b : Word) : Word × Flags := (a + b, iovS64 (a.toInt + b.toInt))
/-- Wrapped difference and its overflow (R87). -/
def wSub (a b : Word) : Word × Flags := (a - b, iovS64 (a.toInt - b.toInt))
/-- Low product and its overflow (R87). -/
def wMul (a b : Word) : Word × Flags := (a * b, iovS64 (a.toInt * b.toInt))
/-- High part of the signed product (R87). -/
def wMulh (a b : Word) : Word × Flags := (BitVec.ofInt 64 (a.toInt * b.toInt / 2 ^ 64), 0)
/-- High part of the unsigned product (R87). -/
def wMulhz (a b : Word) : Word × Flags := (BitVec.ofNat 64 (a.toNat * b.toNat / 2 ^ 64), 0)
/-- Signed quotient with the corners of R88. -/
def wDiv (a b : Word) : Word × Flags :=
  if b = 0 then (BitVec.ofNat 64 (2 ^ 64 - 1), fIov)
  else (BitVec.ofInt 64 (a.toInt.tdiv b.toInt), iovS64 (a.toInt.tdiv b.toInt))
/-- Unsigned quotient (R88). -/
def wDivz (a b : Word) : Word × Flags :=
  if b = 0 then (BitVec.ofNat 64 (2 ^ 64 - 1), fIov) else (BitVec.ofNat 64 (a.toNat / b.toNat), 0)
/-- Signed remainder (R88). -/
def wRem (a b : Word) : Word × Flags :=
  if b = 0 then (a, fIov) else (BitVec.ofInt 64 (a.toInt.tmod b.toInt), 0)
/-- Unsigned remainder (R88). -/
def wRemz (a b : Word) : Word × Flags :=
  if b = 0 then (a, fIov) else (BitVec.ofNat 64 (a.toNat % b.toNat), 0)
/-- Shift left by the low six bits (R87). -/
def wShl (a b : Word) : Word × Flags := (a <<< (b.toNat % 64), 0)
/-- Logical shift right (R87). -/
def wShr (a b : Word) : Word × Flags := (a >>> (b.toNat % 64), 0)
/-- Arithmetic shift right (R87). -/
def wSra (a b : Word) : Word × Flags := (a.sshiftRight (b.toNat % 64), 0)

/-- `add`: Wrap64(s[sa] + s[sb]) (R87). -/
def issueAdd (h : Slot) (o : ScR) (p s : State) : SlotRes :=
  scReg h 1 1 1 o.sd o.sa o.sb wAdd p s

/-- The step of `add`. -/
def execAdd (h : Slot) (o : ScR) (s : State) : Host.Outcome State Fault Refusal :=
  slotStep h (issueAdd h o) s

/-- `sub`: Wrap64(s[sa] - s[sb]) (R87). -/
def issueSub (h : Slot) (o : ScR) (p s : State) : SlotRes :=
  scReg h 2 1 1 o.sd o.sa o.sb wSub p s

/-- The step of `sub`. -/
def execSub (h : Slot) (o : ScR) (s : State) : Host.Outcome State Fault Refusal :=
  slotStep h (issueSub h o) s

/-- `addi`: Wrap64(s[sa] + SExt(imm24)) (R87). -/
def issueAddi (h : Slot) (o : ScI) (p s : State) : SlotRes :=
  scImm h 3 o wAdd p s

/-- The step of `addi`. -/
def execAddi (h : Slot) (o : ScI) (s : State) : Host.Outcome State Fault Refusal :=
  slotStep h (issueAddi h o) s

/-- `and`: bitwise and (R87). -/
def issueAnd (h : Slot) (o : ScR) (p s : State) : SlotRes :=
  scReg h 4 1 1 o.sd o.sa o.sb (fun a b => (a &&& b, 0)) p s

/-- The step of `and`. -/
def execAnd (h : Slot) (o : ScR) (s : State) : Host.Outcome State Fault Refusal :=
  slotStep h (issueAnd h o) s

/-- `or`: bitwise or (R87). -/
def issueOr (h : Slot) (o : ScR) (p s : State) : SlotRes :=
  scReg h 5 1 1 o.sd o.sa o.sb (fun a b => (a ||| b, 0)) p s

/-- The step of `or`. -/
def execOr (h : Slot) (o : ScR) (s : State) : Host.Outcome State Fault Refusal :=
  slotStep h (issueOr h o) s

/-- `xor`: bitwise exclusive or (R87). -/
def issueXor (h : Slot) (o : ScR) (p s : State) : SlotRes :=
  scReg h 6 1 1 o.sd o.sa o.sb (fun a b => (a ^^^ b, 0)) p s

/-- The step of `xor`. -/
def execXor (h : Slot) (o : ScR) (s : State) : Host.Outcome State Fault Refusal :=
  slotStep h (issueXor h o) s

/-- `andi`: bitwise and with SExt(imm24) (R87). -/
def issueAndi (h : Slot) (o : ScI) (p s : State) : SlotRes :=
  scImm h 7 o (fun a b => (a &&& b, 0)) p s

/-- The step of `andi`. -/
def execAndi (h : Slot) (o : ScI) (s : State) : Host.Outcome State Fault Refusal :=
  slotStep h (issueAndi h o) s

/-- `ori`: bitwise or with SExt(imm24) (R87). -/
def issueOri (h : Slot) (o : ScI) (p s : State) : SlotRes :=
  scImm h 8 o (fun a b => (a ||| b, 0)) p s

/-- The step of `ori`. -/
def execOri (h : Slot) (o : ScI) (s : State) : Host.Outcome State Fault Refusal :=
  slotStep h (issueOri h o) s

/-- `xori`: bitwise exclusive or with SExt(imm24) (R87). -/
def issueXori (h : Slot) (o : ScI) (p s : State) : SlotRes :=
  scImm h 9 o (fun a b => (a ^^^ b, 0)) p s

/-- The step of `xori`. -/
def execXori (h : Slot) (o : ScI) (s : State) : Host.Outcome State Fault Refusal :=
  slotStep h (issueXori h o) s

/-- `shl`: shift left by s[sb][5:0] (R87). -/
def issueShl (h : Slot) (o : ScR) (p s : State) : SlotRes :=
  scReg h 10 1 1 o.sd o.sa o.sb wShl p s

/-- The step of `shl`. -/
def execShl (h : Slot) (o : ScR) (s : State) : Host.Outcome State Fault Refusal :=
  slotStep h (issueShl h o) s

/-- `shr`: logical shift right by s[sb][5:0] (R87). -/
def issueShr (h : Slot) (o : ScR) (p s : State) : SlotRes :=
  scReg h 11 1 1 o.sd o.sa o.sb wShr p s

/-- The step of `shr`. -/
def execShr (h : Slot) (o : ScR) (s : State) : Host.Outcome State Fault Refusal :=
  slotStep h (issueShr h o) s

/-- `sra`: arithmetic shift right by s[sb][5:0] (R87). -/
def issueSra (h : Slot) (o : ScR) (p s : State) : SlotRes :=
  scReg h 12 1 1 o.sd o.sa o.sb wSra p s

/-- The step of `sra`. -/
def execSra (h : Slot) (o : ScR) (s : State) : Host.Outcome State Fault Refusal :=
  slotStep h (issueSra h o) s

/-- `shli`: shift left by imm24[5:0] (R87). -/
def issueShli (h : Slot) (o : ScI) (p s : State) : SlotRes :=
  scImm h 13 o wShl p s

/-- The step of `shli`. -/
def execShli (h : Slot) (o : ScI) (s : State) : Host.Outcome State Fault Refusal :=
  slotStep h (issueShli h o) s

/-- `shri`: logical shift right by imm24[5:0] (R87). -/
def issueShri (h : Slot) (o : ScI) (p s : State) : SlotRes :=
  scImm h 14 o wShr p s

/-- The step of `shri`. -/
def execShri (h : Slot) (o : ScI) (s : State) : Host.Outcome State Fault Refusal :=
  slotStep h (issueShri h o) s

/-- `srai`: arithmetic shift right by imm24[5:0] (R87). -/
def issueSrai (h : Slot) (o : ScI) (p s : State) : SlotRes :=
  scImm h 15 o wSra p s

/-- The step of `srai`. -/
def execSrai (h : Slot) (o : ScI) (s : State) : Host.Outcome State Fault Refusal :=
  slotStep h (issueSrai h o) s

/-- `mul`: low 64 bits of the product (R87). -/
def issueMul (h : Slot) (o : ScR) (p s : State) : SlotRes :=
  scReg h 16 3 2 o.sd o.sa o.sb wMul p s

/-- The step of `mul`. -/
def execMul (h : Slot) (o : ScR) (s : State) : Host.Outcome State Fault Refusal :=
  slotStep h (issueMul h o) s

/-- `mulh`: bits [127:64] of the signed product (R87). -/
def issueMulh (h : Slot) (o : ScR) (p s : State) : SlotRes :=
  scReg h 17 3 2 o.sd o.sa o.sb wMulh p s

/-- The step of `mulh`. -/
def execMulh (h : Slot) (o : ScR) (s : State) : Host.Outcome State Fault Refusal :=
  slotStep h (issueMulh h o) s

/-- `mulhz`: bits [127:64] of the unsigned product (R87). -/
def issueMulhz (h : Slot) (o : ScR) (p s : State) : SlotRes :=
  scReg h 18 3 2 o.sd o.sa o.sb wMulhz p s

/-- The step of `mulhz`. -/
def execMulhz (h : Slot) (o : ScR) (s : State) : Host.Outcome State Fault Refusal :=
  slotStep h (issueMulhz h o) s

/-- `div`: signed quotient toward zero (R88). -/
def issueDiv (h : Slot) (o : ScR) (p s : State) : SlotRes :=
  scReg h 19 18 9 o.sd o.sa o.sb wDiv p s

/-- The step of `div`. -/
def execDiv (h : Slot) (o : ScR) (s : State) : Host.Outcome State Fault Refusal :=
  slotStep h (issueDiv h o) s

/-- `divz`: unsigned quotient (R88). -/
def issueDivz (h : Slot) (o : ScR) (p s : State) : SlotRes :=
  scReg h 20 18 9 o.sd o.sa o.sb wDivz p s

/-- The step of `divz`. -/
def execDivz (h : Slot) (o : ScR) (s : State) : Host.Outcome State Fault Refusal :=
  slotStep h (issueDivz h o) s

/-- `rem`: signed remainder (R88). -/
def issueRem (h : Slot) (o : ScR) (p s : State) : SlotRes :=
  scReg h 21 18 9 o.sd o.sa o.sb wRem p s

/-- The step of `rem`. -/
def execRem (h : Slot) (o : ScR) (s : State) : Host.Outcome State Fault Refusal :=
  slotStep h (issueRem h o) s

/-- `remz`: unsigned remainder (R88). -/
def issueRemz (h : Slot) (o : ScR) (p s : State) : SlotRes :=
  scReg h 22 18 9 o.sd o.sa o.sb wRemz p s

/-- The step of `remz`. -/
def execRemz (h : Slot) (o : ScR) (s : State) : Host.Outcome State Fault Refusal :=
  slotStep h (issueRemz h o) s

/-- `min`: smaller as S64 (R87). -/
def issueMin (h : Slot) (o : ScR) (p s : State) : SlotRes :=
  scReg h 23 1 1 o.sd o.sa o.sb (fun a b => (if b.slt a then b else a, 0)) p s

/-- The step of `min`. -/
def execMin (h : Slot) (o : ScR) (s : State) : Host.Outcome State Fault Refusal :=
  slotStep h (issueMin h o) s

/-- `max`: larger as S64 (R87). -/
def issueMax (h : Slot) (o : ScR) (p s : State) : SlotRes :=
  scReg h 24 1 1 o.sd o.sa o.sb (fun a b => (if a.slt b then b else a, 0)) p s

/-- The step of `max`. -/
def execMax (h : Slot) (o : ScR) (s : State) : Host.Outcome State Fault Refusal :=
  slotStep h (issueMax h o) s

/-- `minz`: smaller as Z64 (R87). -/
def issueMinz (h : Slot) (o : ScR) (p s : State) : SlotRes :=
  scReg h 25 1 1 o.sd o.sa o.sb (fun a b => (if b.ult a then b else a, 0)) p s

/-- The step of `minz`. -/
def execMinz (h : Slot) (o : ScR) (s : State) : Host.Outcome State Fault Refusal :=
  slotStep h (issueMinz h o) s

/-- `maxz`: larger as Z64 (R87). -/
def issueMaxz (h : Slot) (o : ScR) (p s : State) : SlotRes :=
  scReg h 26 1 1 o.sd o.sa o.sb (fun a b => (if a.ult b then b else a, 0)) p s

/-- The step of `maxz`. -/
def execMaxz (h : Slot) (o : ScR) (s : State) : Host.Outcome State Fault Refusal :=
  slotStep h (issueMaxz h o) s

/-- `cmp`: f[fx] := Cond(cc, s[sa], s[sb]) at commit (R89). -/
def issueCmp (h : Slot) (o : ScR) (p s : State) : SlotRes :=
  .ok (emitF p s h 27 o.fx (condOf o.cc.toNat (rs p o.sa) (rs p o.sb)) 0)

/-- The step of `cmp`. -/
def execCmp (h : Slot) (o : ScR) (s : State) : Host.Outcome State Fault Refusal :=
  slotStep h (issueCmp h o) s

/-- `cmpi`: f[fx] := Cond(cc, s[sa], SExt(imm16)), with `cc` in imm24[23:20] and `fx` in [19:16] (R90). -/
def issueCmpi (h : Slot) (o : ScI) (p s : State) : SlotRes :=
  .ok (emitF p s h 28 (o.imm.extractLsb' 16 4)
    (condOf (wf o.imm 20 4) (rs p o.sa) (sext (o.imm.extractLsb' 0 16))) 0)

/-- The step of `cmpi`. -/
def execCmpi (h : Slot) (o : ScI) (s : State) : Host.Outcome State Fault Refusal :=
  slotStep h (issueCmpi h o) s

/-- `csel`: s[sa] when f[fx] = 1, else s[sb] (R91). -/
def issueCsel (h : Slot) (o : ScR) (p s : State) : SlotRes :=
  scReg h 29 1 1 o.sd o.sa o.sb
    (fun a b => (if (strmOf p p.focus).flag o.fx then a else b, 0)) p s

/-- The step of `csel`. -/
def execCsel (h : Slot) (o : ScR) (s : State) : Host.Outcome State Fault Refusal :=
  slotStep h (issueCsel h o) s

/-- `movi`: SExt(imm29) (R93). -/
def issueMovi (h : Slot) (o : ScL) (p s : State) : SlotRes :=
  .ok (emitS p s h 30 o.sd (sext o.imm) 1 0)

/-- The step of `movi`. -/
def execMovi (h : Slot) (o : ScL) (s : State) : Host.Outcome State Fault Refusal :=
  slotStep h (issueMovi h o) s

/-- `movs`: Wrap64(s[sd] x 2^29 + imm29), which raises no flag (R93). (DESIGN CHOICE, log 101) -/
def issueMovs (h : Slot) (o : ScL) (p s : State) : SlotRes :=
  .ok (emitS p s h 31 o.sd (rs p o.sd <<< 29 + zext o.imm) 1 0)

/-- The step of `movs`. -/
def execMovs (h : Slot) (o : ScL) (s : State) : Host.Outcome State Fault Refusal :=
  slotStep h (issueMovs h o) s

/-- `clz`: leading zero bits, 64 for zero (R94). -/
def issueClz (h : Slot) (o : ScR) (p s : State) : SlotRes :=
  .ok (emitS p s h 32 o.sd (BitVec.ofNat 64 (64 - bitLen (rs p o.sa).toNat)) 1 0)

/-- The step of `clz`. -/
def execClz (h : Slot) (o : ScR) (s : State) : Host.Outcome State Fault Refusal :=
  slotStep h (issueClz h o) s

/-- The number of one bits among the lowest `k` bits. -/
def onesN : Nat → Nat → Nat
  | 0, _ => 0
  | k + 1, x => x % 2 + onesN k (x / 2)

/-- `popc`: number of one bits (R94). -/
def issuePopc (h : Slot) (o : ScR) (p s : State) : SlotRes :=
  .ok (emitS p s h 33 o.sd (BitVec.ofNat 64 (onesN 64 (rs p o.sa).toNat)) 1 0)

/-- The step of `popc`. -/
def execPopc (h : Slot) (o : ScR) (s : State) : Host.Outcome State Fault Refusal :=
  slotStep h (issuePopc h o) s

/-- `bfx`: the field s[sa][p+w-1 : p], sign-extended when x = 1 (R94). -/
def issueBfx (h : Slot) (o : ScI) (p s : State) : SlotRes :=
  let w := wf o.imm 6 7
  let f := wf (rs p o.sa) (wf o.imm 0 6) w
  let v := if o.imm.getLsbD 13 then BitVec.ofInt 64 (sgn w f) else BitVec.ofNat 64 f
  .ok (emitS p s h 34 o.sd v 1 0)

/-- The step of `bfx`. -/
def execBfx (h : Slot) (o : ScI) (s : State) : Host.Outcome State Fault Refusal :=
  slotStep h (issueBfx h o) s

/-- `bfi`: s[sd] with bits [p+w-1 : p] replaced by s[sa][w-1 : 0] (R94). -/
def issueBfi (h : Slot) (o : ScI) (p s : State) : SlotRes :=
  .ok (emitS p s h 35 o.sd
    (setFld (rs p o.sd) (wf o.imm 0 6) (wf o.imm 6 7) (rs p o.sa).toNat) 1 0)

/-- The step of `bfi`. -/
def execBfi (h : Slot) (o : ScI) (s : State) : Host.Outcome State Fault Refusal :=
  slotStep h (issueBfi h o) s

/-- A scalar float form with two operands (R95, R96): value bits are the low bits, the rest zero. -/
def scFp (h : Slot) (opc : BitVec 8) (o : ScR)
    (g : Fmt → BitVec 2 → Bool → Nat → Nat → Nat × Flags) (p s : State) : SlotRes :=
  let f := scFmt o.xt.toNat
  let r := g f (modeOf p o.rn) p.iss.fz (wf (rs p o.sa) 0 f.w) (wf (rs p o.sb) 0 f.w)
  .ok (emitS p s h opc o.sd (BitVec.ofNat 64 r.1) (lat p p.focus 4 2) r.2)

/-- `fadd`: RoundTo(xt, a + b, mode) (R96). -/
def issueFadd (h : Slot) (o : ScR) (p s : State) : SlotRes :=
  scFp h 36 o fAdd p s

/-- The step of `fadd`. -/
def execFadd (h : Slot) (o : ScR) (s : State) : Host.Outcome State Fault Refusal :=
  slotStep h (issueFadd h o) s

/-- `fsub`: RoundTo(xt, a - b, mode) (R96). -/
def issueFsub (h : Slot) (o : ScR) (p s : State) : SlotRes :=
  scFp h 37 o fSub p s

/-- The step of `fsub`. -/
def execFsub (h : Slot) (o : ScR) (s : State) : Host.Outcome State Fault Refusal :=
  slotStep h (issueFsub h o) s

/-- `fmul`: RoundTo(xt, a x b, mode) (R96). -/
def issueFmul (h : Slot) (o : ScR) (p s : State) : SlotRes :=
  scFp h 38 o fMul p s

/-- The step of `fmul`. -/
def execFmul (h : Slot) (o : ScR) (s : State) : Host.Outcome State Fault Refusal :=
  slotStep h (issueFmul h o) s

/-- `ffma`: RoundTo(xt, a x b + c, mode), rounded once (R96). -/
def issueFfma (h : Slot) (o : ScR) (p s : State) : SlotRes :=
  scFp h 39 o (fun f m z a b =>
    fFma f m z false false a b (wf (rs p o.sc) 0 f.w)) p s

/-- The step of `ffma`. -/
def execFfma (h : Slot) (o : ScR) (s : State) : Host.Outcome State Fault Refusal :=
  slotStep h (issueFfma h o) s

/-- `fmin`: the smaller, -0 below +0 (R96). -/
def issueFmin (h : Slot) (o : ScR) (p s : State) : SlotRes :=
  scFp h 40 o (fun f _ z a b => fMinMax f z false a b) p s

/-- The step of `fmin`. -/
def execFmin (h : Slot) (o : ScR) (s : State) : Host.Outcome State Fault Refusal :=
  slotStep h (issueFmin h o) s

/-- `fmax`: the larger, -0 below +0 (R96). -/
def issueFmax (h : Slot) (o : ScR) (p s : State) : SlotRes :=
  scFp h 41 o (fun f _ z a b => fMinMax f z true a b) p s

/-- The step of `fmax`. -/
def execFmax (h : Slot) (o : ScR) (s : State) : Host.Outcome State Fault Refusal :=
  slotStep h (issueFmax h o) s

/-- `fcmp`: f[fx] by the float condition `cc`, at commit (R97). -/
def issueFcmp (h : Slot) (o : ScR) (p s : State) : SlotRes :=
  let f := scFmt o.xt.toNat
  let r := fCmp f p.iss.fz o.cc.toNat (wf (rs p o.sa) 0 f.w) (wf (rs p o.sb) 0 f.w)
  .ok (emitF p s h 42 o.fx r.1 r.2)

/-- The step of `fcmp`. -/
def execFcmp (h : Slot) (o : ScR) (s : State) : Host.Outcome State Fault Refusal :=
  slotStep h (issueFcmp h o) s

/-- The conversion of `fcvt` from type `cc` to type `xt` (R42, R98). -/
def scConv (mode : BitVec 2) (fz : Bool) (src dst : Nat) (a : Word) : Word × Flags :=
  if scIsF src then
    let f := scFmt src
    let x := wf a 0 f.w
    if scIsF dst then
      let r := fConv f (scFmt dst) mode fz x
      (BitVec.ofNat 64 r.1, r.2)
    else
      let w := scIW dst
      let r := fToI f mode fz w (scIS dst) x
      ((if scIS dst then BitVec.ofInt 64 (sgn w r.1) else BitVec.ofNat 64 r.1), r.2)
  else
    let w := scIW src
    let v : Int := if scIS src then sgn w (wf a 0 w) else wf a 0 w
    let r := iToF (scFmt dst) mode fz v
    (BitVec.ofNat 64 r.1, r.2)

/-- `fcvt`: conversion from type `cc` to type `xt` (R98). -/
def issueFcvt (h : Slot) (o : ScR) (p s : State) : SlotRes :=
  let r := scConv (modeOf p o.rn) p.iss.fz o.cc.toNat o.xt.toNat (rs p o.sa)
  .ok (emitS p s h 43 o.sd r.1 (lat p p.focus 4 2) r.2)

/-- The step of `fcvt`. -/
def execFcvt (h : Slot) (o : ScR) (s : State) : Host.Outcome State Fault Refusal :=
  slotStep h (issueFcvt h o) s

/-- `fsgn`: the magnitude of a with a sign made from a and b; bits move, nothing is raised (R99). -/
def issueFsgn (h : Slot) (o : ScR) (p s : State) : SlotRes :=
  let f := scFmt o.xt.toNat
  let a := wf (rs p o.sa) 0 f.w
  let b := wf (rs p o.sb) 0 f.w
  let sa := fld a (f.w - 1) 1
  let sb := fld b (f.w - 1) 1
  let sg := match o.cc.toNat with
    | 0 => sb
    | 1 => 1 - sb
    | _ => (sa + sb) % 2
  .ok (emitS p s h 44 o.sd (BitVec.ofNat 64 (fld a 0 (f.w - 1) + sg * 2 ^ (f.w - 1))) 1 0)

/-- The step of `fsgn`. -/
def execFsgn (h : Slot) (o : ScR) (s : State) : Host.Outcome State Fault Refusal :=
  slotStep h (issueFsgn h o) s

/-- `pset`: f[fx] := 1 (R92). -/
def issuePset (h : Slot) (o : ScR) (p s : State) : SlotRes :=
  .ok (emitF p s h 45 o.fx true 0)

/-- The step of `pset`. -/
def execPset (h : Slot) (o : ScR) (s : State) : Host.Outcome State Fault Refusal :=
  slotStep h (issuePset h o) s

/-- `pclr`: f[fx] := 0 (R92). -/
def issuePclr (h : Slot) (o : ScR) (p s : State) : SlotRes :=
  .ok (emitF p s h 46 o.fx false 0)

/-- The step of `pclr`. -/
def execPclr (h : Slot) (o : ScR) (s : State) : Host.Outcome State Fault Refusal :=
  slotStep h (issuePclr h o) s

/-- `pand`: f[fx] := f[cc] and f[xt] (R92). -/
def issuePand (h : Slot) (o : ScR) (p s : State) : SlotRes :=
  .ok (emitF p s h 47 o.fx ((strmOf p p.focus).flag o.cc && (strmOf p p.focus).flag o.xt) 0)

/-- The step of `pand`. -/
def execPand (h : Slot) (o : ScR) (s : State) : Host.Outcome State Fault Refusal :=
  slotStep h (issuePand h o) s

/-- `por`: f[fx] := f[cc] or f[xt] (R92). -/
def issuePor (h : Slot) (o : ScR) (p s : State) : SlotRes :=
  .ok (emitF p s h 48 o.fx ((strmOf p p.focus).flag o.cc || (strmOf p p.focus).flag o.xt) 0)

/-- The step of `por`. -/
def execPor (h : Slot) (o : ScR) (s : State) : Host.Outcome State Fault Refusal :=
  slotStep h (issuePor h o) s

/-- `pnot`: f[fx] := not f[cc] (R92). -/
def issuePnot (h : Slot) (o : ScR) (p s : State) : SlotRes :=
  .ok (emitF p s h 49 o.fx (!(strmOf p p.focus).flag o.cc) 0)

/-- The step of `pnot`. -/
def execPnot (h : Slot) (o : ScR) (s : State) : Host.Outcome State Fault Refusal :=
  slotStep h (issuePnot h o) s

/-- `nop`: executes nothing (R69). -/
def issueNop (_h : Slot) (_p s : State) : SlotRes := .ok s

/-- The step of `nop`. -/
def execNop (h : Slot) (s : State) : Host.Outcome State Fault Refusal :=
  slotStep h (issueNop h) s

end Sys2Proof.Machine
end

