-- ==== Sys2Proof/Machine/Control.lean ====
section
/-!
DEFINITION. The control class (R100 to R109): transfers, hardware loops, and what `done`, `yield`, `eret`
and `trap` ask of the end of their bundle. Parcel fetches (R53, R303).
-/
namespace Sys2Proof.Machine

/-- Fetch one byte of code (R53, R303). -/
def fetchByte (s : State) (core : Nat) (va : Nat) : Except Nat Nat :=
  match access s core askFetch (BitVec.ofNat 64 va) with
  | .error c => .error c
  | .ok (_, _, pa) => .ok (cellAt s.mem (canon pa)).toNat

/-- Fetch `n` bytes of code as a number. -/
def fetchBytes (s : State) (core : Nat) (va : Nat) : Nat → Except Nat Nat
  | 0 => .ok 0
  | n + 1 =>
    match fetchByte s core va with
    | .error c => .error c
    | .ok b =>
      match fetchBytes s core (va + 1) n with
      | .error c => .error c
      | .ok r => .ok (b + 256 * r)

/-- Fetch one parcel (R53). -/
def fetchParcel (s : State) (core : Nat) (va : BitVec 48) : Except Nat Parcel :=
  (fetchBytes s core va.toNat 6).map (BitVec.ofNat 48)

/-- The number of slots of a header word. -/
def slotsOf (w : Parcel) : Nat := onesN 24 (wf w 0 24)

/-- BundleLength(x) (R100); a header that cannot be fetched counts as one parcel. (DEDUCED, log 30) -/
def bundleLen (s : State) (core : Nat) (va : BitVec 48) : Nat :=
  match fetchParcel s core va with
  | .error _ => 6
  | .ok w => 6 * (1 + slotsOf w)

/-- Take a control transfer (R66, R100): `hdr` when the target must be a block header. -/
def transfer (s : State) (t : BitVec 48) (hdr : Bool) : State :=
  { s with iss := { s.iss with jump := some (t, hdr) } }

/-- The displacement target A + SExt(dsp) (R101). -/
def dspTarget (p : State) (d : BitVec 24) : BitVec 48 := p.iss.pc + d.signExtend 48

/-- `bra`: Transfer(A + dsp) (R101). -/
def issueBra (_h : Slot) (o : BrD) (p s : State) : SlotRes := .ok (transfer s (dspTarget p o.dsp) false)

/-- The step of `bra`. -/
def execBra (h : Slot) (o : BrD) (s : State) : Host.Outcome State Fault Refusal :=
  slotStep h (issueBra h o) s

/-- `brf`: branches when f[bf] xor bn = 1 (R101). -/
def issueBrf (_h : Slot) (o : BrD) (p s : State) : SlotRes :=
  if (strmOf p p.focus).flag o.bf != (o.bn == 1) then .ok (transfer s (dspTarget p o.dsp) false) else .ok s

/-- The step of `brf`. -/
def execBrf (h : Slot) (o : BrD) (s : State) : Host.Outcome State Fault Refusal :=
  slotStep h (issueBrf h o) s

/-- `call`: links E with latency 1 and transfers (R102). -/
def issueCall (h : Slot) (o : BrD) (p s : State) : SlotRes :=
  .ok (transfer (emitS p s h 3 o.ln (zext (strmOf p p.focus).blk.ext) 1 0) (dspTarget p o.dsp) true)

/-- The step of `call`. -/
def execCall (h : Slot) (o : BrD) (s : State) : Host.Outcome State Fault Refusal :=
  slotStep h (issueCall h o) s

/-- `ret`: transfers to s[sa]; the target must be a block header (R102). -/
def issueRet (_h : Slot) (o : BrR) (p s : State) : SlotRes :=
  .ok (transfer s ((rs p o.sa).setWidth 48) true)

/-- The step of `ret`. -/
def execRet (h : Slot) (o : BrR) (s : State) : Host.Outcome State Fault Refusal :=
  slotStep h (issueRet h o) s

/-- `jmp`: transfers to s[sa] + SExt(imm16) (R102). -/
def issueJmp (_h : Slot) (o : BrR) (p s : State) : SlotRes :=
  .ok (transfer s ((rs p o.sa).setWidth 48 + o.imm.signExtend 48) false)

/-- The step of `jmp`. -/
def execJmp (h : Slot) (o : BrR) (s : State) : Host.Outcome State Fault Refusal :=
  slotStep h (issueJmp h o) s

/-- Is a loop set-up illegal (R66, R103)? The end lies before the next bundle or outside the extent, or
the loop bundle is the stop bundle. -/
def loopIllegal (p : State) (dsp : BitVec 20) : Bool :=
  let e := p.iss.pc.toNat + 6 * dsp.toNat
  decide (e < p.iss.pc.toNat + p.iss.len) || decide ((strmOf p p.focus).blk.ext.toNat ≤ e) || p.iss.st

/-- Write the three registers of a loop level (R13, R103). -/
def setLoop (x : Stream) (lv : Bool) (n : Nat) (b e : BitVec 48) : Stream :=
  if lv then { x with lc1 := BitVec.ofNat 32 n, lb1 := b, le1 := e }
  else { x with lc0 := BitVec.ofNat 32 n, lb0 := b, le0 := e }

/-- The set-up of a loop level with a count (R103). (DEDUCED, log 30) -/
def setupLoop (h : Slot) (o : BrL) (n : Nat) (p s : State) : SlotRes :=
  if loopIllegal p o.dsp then illegalInstr p h
  else if 2 ^ 32 ≤ n then repeatBounds p h 0
  else
    let b := p.iss.pc + BitVec.ofNat 48 p.iss.len
    let e := p.iss.pc + BitVec.ofNat 48 (6 * o.dsp.toNat)
    let s1 := modStrm s s.focus (fun x => setLoop x (o.lv == 1) n b e)
    if n = 0 then .ok (transfer s1 (e + BitVec.ofNat 48 (bundleLen p p.focus.core e)) false) else .ok s1

/-- `loop`: the count is s[cnt] as Z64 (R103). -/
def issueLoop (h : Slot) (o : BrL) (p s : State) : SlotRes :=
  setupLoop h o (rs p (o.cnt.extractLsb' 8 5)).toNat p s

/-- The step of `loop`. -/
def execLoop (h : Slot) (o : BrL) (s : State) : Host.Outcome State Fault Refusal :=
  slotStep h (issueLoop h o) s

/-- `loopi`: the count is immediate (R103). -/
def issueLoopi (h : Slot) (o : BrL) (p s : State) : SlotRes := setupLoop h o o.cnt.toNat p s

/-- The step of `loopi`. -/
def execLoopi (h : Slot) (o : BrL) (s : State) : Host.Outcome State Fault Refusal :=
  slotStep h (issueLoopi h o) s

/-- `lbrk`: leaves level 0, or both levels (R105). -/
def issueLbrk (_h : Slot) (o : BrR) (p s : State) : SlotRes :=
  let x := strmOf p p.focus
  let out := fun (s : State) (e : BitVec 48) =>
    transfer { s with iss := { s.iss with lbrk := true } }
      (e + BitVec.ofNat 48 (bundleLen p p.focus.core e)) false
  if o.imm = 1 ∧ x.lc1 ≠ 0 then
    .ok (out (modStrm s s.focus (fun y => { y with lc0 := 0, lc1 := 0 })) x.le1)
  else if x.lc0 ≠ 0 then .ok (out (modStrm s s.focus (fun y => { y with lc0 := 0 })) x.le0)
  else .ok s

/-- The step of `lbrk`. -/
def execLbrk (h : Slot) (o : BrR) (s : State) : Host.Outcome State Fault Refusal :=
  slotStep h (issueLbrk h o) s

/-- `done`: the bundle commits, then the stream drains and retires the task (R106). -/
def issueDone (_h : Slot) (_o : BrR) (_p s : State) : SlotRes :=
  .ok { s with iss := { s.iss with ends := 1 } }

/-- The step of `done`. -/
def execDone (h : Slot) (o : BrR) (s : State) : Host.Outcome State Fault Refusal :=
  slotStep h (issueDone h o) s

/-- `trap`: the bundle commits, then the stream takes a software trap (R107). -/
def issueTrap (_h : Slot) (o : BrR) (p s : State) : SlotRes :=
  .ok { s with iss := { s.iss with soft := some (o.imm, rs p o.sa) } }

/-- The step of `trap`. -/
def execTrap (h : Slot) (o : BrR) (s : State) : Host.Outcome State Fault Refusal :=
  slotStep h (issueTrap h o) s

/-- `eret`: the bundle commits, then the stream drains and returns from its frame; with no active frame
it is an illegal instruction (R108, R212). -/
def issueEret (h : Slot) (_o : BrR) (p s : State) : SlotRes :=
  if (strmOf p p.focus).frame.act then .ok { s with iss := { s.iss with ends := 3 } } else illegalInstr p h

/-- The step of `eret`. -/
def execEret (h : Slot) (o : BrR) (s : State) : Host.Outcome State Fault Refusal :=
  slotStep h (issueEret h o) s

/-- `yield`: the main stream drains; a preemption requested is taken after it (R109). -/
def issueYield (_h : Slot) (_o : BrR) (p s : State) : SlotRes :=
  if p.focus.side then .ok s else .ok { s with iss := { s.iss with ends := 2 } }

/-- The step of `yield`. -/
def execYield (h : Slot) (o : BrR) (s : State) : Host.Outcome State Fault Refusal :=
  slotStep h (issueYield h o) s

end Sys2Proof.Machine
end

