-- ==== Sys2Proof/Machine/Order.lean ====
section
/-!
DEFINITION. The order log (R355 to R359): recording the choices the hardware makes by arrival order, and
forcing them from their records in replay.
-/
namespace Sys2Proof.Machine

/-- Log base of a context (R378). -/
def Ctx.logB (x : Ctx) : Nat := recN x.record 24 8
/-- Log size in records. -/
def Ctx.logN (x : Ctx) : Nat := recN x.record 32 8

/-- The number of a unit with its kind (R356). -/
def unitKey (kind unit : Nat) : Nat := kind * 2 ^ 56 + unit % 2 ^ 56

/-- Bits [31:0] of the low word of a record: the agent (R356). -/
def agentBits (pkg : BitVec 8) (core : Nat) (side : Bool) : Nat :=
  pkg.toNat * 2 ^ 24 + core / 128 % 8 * 2 ^ 21 + core % 128 * 2 ^ 14 + side.toNat * 2 ^ 13

/-- Has a divergence ended the forcing of a node (R358)? -/
def Ctx.ended (x : Ctx) (node : Nat) : Bool := x.replay.any (fun r => r.1 == node && r.2.1 == 0)

/-- The log positions of a node's own records, when its choices are forced from them: a recompute replays the range of the node
that wrote its tensor, a rerun its own (R359, R360). None once a divergence has ended the forcing. -/
def ownRange (s : State) (ctx node : Nat) : Option (Nat × Nat) :=
  let x := ctxOf s ctx
  if x.ended node then none
  else match nodeOf s ctx node with
    | none => none
    | some n => match n.src with
      | .producer reg => match x.ranges.find? (fun r => r.1 == reg) with
        | some (_, lo, hi, true) => some (lo, hi)
        | _ => none
      | _ => if x.logm ≠ 0 ∧ 0 < n.reruns then some (n.log0, n.log1) else none

/-- Is a node a recompute (R298, R359)? -/
def recomputes (s : State) (ctx node : Nat) : Bool := match nodeOf s ctx node with
  | some n => (match n.src with
    | .producer _ => true
    | _ => false)
  | none => false

/-- Record `i` of a log. -/
def recAt (s : State) (ctx i : Nat) : Nat :=
  let x := ctxOf s ctx
  readN s.mem (canon (x.logB + 16 * (i % (if x.logN = 0 then 1 else x.logN)))) 16

/-- The record of a unit after `used` others, among `n` records from `lo`, and its position. -/
def nthRec (s : State) (ctx key : Nat) : Nat → Nat → Nat → Option (Nat × Nat)
  | _, _, 0 => none
  | lo, used, n + 1 =>
    let r := recAt s ctx lo
    if r / 2 ^ 64 = key then (if used = 0 then some (lo, r) else nthRec s ctx key (lo + 1) (used - 1) n)
    else nthRec s ctx key (lo + 1) used n

/-- A count kept under a node and a unit. -/
def countOf (l : List (Nat × Nat × Nat)) (node key : Nat) : Nat :=
  match l.find? (fun x => x.1 == node && x.2.1 == key) with
  | some x => x.2.2
  | none => 0

/-- Raise such a count. -/
def countUp (l : List (Nat × Nat × Nat)) (node key : Nat) : List (Nat × Nat × Nat) :=
  if l.any (fun x => x.1 == node && x.2.1 == key) then
    l.map (fun x => if x.1 = node ∧ x.2.1 = key then (x.1, x.2.1, x.2.2 + 1) else x)
  else l ++ [(node, key, 1)]

/-- The next record of a unit in a node's own range. -/
def nextOwn (s : State) (ctx node key : Nat) : Option (Nat × Nat) :=
  match ownRange s ctx node with
  | none => none
  | some (lo, hi) => nthRec s ctx key lo (countOf (ctxOf s ctx).replay node key) (hi - lo)

/-- The next record of a unit in replay mode (R358, R362): its records from the captured position on are used one after the other,
whatever node an arrival is of; node 0 stands for their common count. -/
def nextCommon (s : State) (ctx node key : Nat) : Option (Nat × Nat) :=
  let x := ctxOf s ctx
  if x.logm ≠ 2 || recomputes s ctx node then none
  else nthRec s ctx key x.logs (countOf x.replay 0 key) (x.loge - x.logs)

/-- The next record of a unit, when its choices are forced, and its position. -/
def nextRec (s : State) (ctx node key : Nat) : Option (Nat × Nat) :=
  (nextOwn s ctx node key).or (nextCommon s ctx node key)

/-- May an arrival proceed at its unit (R358)? Unforced, those held before it go first. (DEDUCED, log 58) -/
def mayArrive (s : State) (ctx node kind unit agent : Nat) : Bool :=
  match nextRec s ctx node (unitKey kind unit) with
  | none => match (ctxOf s ctx).held.find? (fun h => h.1 == unitKey kind unit) with
    | none => true
    | some h => h.2.1 == agent
  | some r => fld r.2 13 19 == fld agent 13 19

/-- Write one record, or stop recording when it would overwrite one that is not acknowledged (R357). (DEDUCED, log 58) -/
def writeLog (s : State) (ctx node kind unit agent core : Nat) (side : Bool) : State :=
  let x := ctxOf s ctx
  if x.logbad then s
  else if x.logpos - x.logack = x.logN then
    logCtx (putCtx s ctx { x with logbad := true }) ctx
      { kind := 11, trap := 0, sev := 0, out := 0, core := core, side := side, aux := 0, node := node, addr := 0 }
  else
    let key := unitKey kind unit
    let seq := countOf x.logseq node key
    let s1 := writeRec s (x.logB + 16 * (x.logpos % x.logN)) 16 (key * 2 ^ 64 + seq % 2 ^ 32 * 2 ^ 32 + agent)
    putCtx s1 ctx { x with logpos := x.logpos + 1, logseq := countUp x.logseq node key }

/-- A node's log range takes in the record that one of its choices was forced from in replay mode (R359). -/
def noteUse (s : State) (ctx node pos : Nat) : State :=
  modNode s ctx node (fun n =>
    if n.log1 = 0 then { n with log0 := pos, log1 := pos + 1 } else { n with log0 := min n.log0 pos, log1 := max n.log1 (pos + 1) })

/-- One choice has been made: the unit takes its next record where its choices are forced, or writes one in record mode; those
of a recompute go nowhere (R359). (DEDUCED, log 58) -/
def choose (s : State) (ctx node kind unit agent core : Nat) (side : Bool) : State :=
  let key := unitKey kind unit
  let s1 := modCtx s ctx (fun x => { x with held := x.held.filter (fun h => !(h.1 == key && h.2.1 == agent)) })
  if (nextOwn s1 ctx node key).isSome then modCtx s1 ctx (fun x => { x with replay := countUp x.replay node key })
  else match nextCommon s1 ctx node key with
    | some p => noteUse (modCtx s1 ctx (fun x => { x with replay := countUp x.replay 0 key })) ctx node p.1
    | none =>
      if (ctxOf s ctx).logm = 1 && !recomputes s ctx node then writeLog s1 ctx node kind unit agent core side else s1

/-- Note that an arrival is held at its unit (R358). (DEDUCED, log 25) -/
def holdArrival (s : State) (ctx node kind unit agent : Nat) : State :=
  let key := unitKey kind unit
  modCtx s ctx (fun x => if x.held.any (fun h => h.1 == key && h.2.1 == agent) then x
    else { x with held := x.held ++ [(key, agent, s.hub.htck.toNat, node)] })

/-- A held arrival that has waited out the replay timeout is a divergence (R358): forcing ends, what is held goes on
in arrival order and times out no more, and a record names the unit and its `SEQ`. (DEDUCED, log 25) -/
def divergence (s : State) (ctx : Nat) (h : Nat × Nat × Nat × Nat) : State :=
  let x := ctxOf s ctx
  let nodes := (x.nodes.map (·.1)).filter (fun n => (ownRange s ctx n).isSome)
  let seq := match nextRec s ctx h.2.2.2 h.1 with
    | some r => fld r.2 32 32
    | none => 0
  let s1 := putCtx s ctx { x with logm := if x.logm = 2 then 0 else x.logm
                                  held := x.held.map (fun g => (g.1, g.2.1, 2 ^ 64, g.2.2.2))
                                  replay := x.replay ++ nodes.map (fun n => (n, 0, 1)) }
  logCtx s1 ctx { kind := 12, trap := 0, sev := 0, out := 0, core := h.2.1 / 2 ^ 14 % 1024, side := h.2.1.testBit 13
                  aux := seq, node := 0, addr := h.1 % 2 ^ 56 }

/-- Where the records of a node end (R357). -/
def logEnd (x : Ctx) (n : Node) : Nat := if x.logm = 1 then x.logpos else n.log1

/-- The unit number of a queue (R356). -/
def queueUnit (pkg : BitVec 8) (core q : Nat) : Nat :=
  pkg.toNat * 2 ^ 48 + core / 128 * 2 ^ 45 + core % 128 * 2 ^ 38 + q

end Sys2Proof.Machine
end

