-- ==== Sys2Proof/Machine/Vector.lean ====
section
/-!
DEFINITION. Cluster arithmetic (R111 to R131): the elementwise mould, the element operations, and one
issue function and one step per instruction.
-/
namespace Sys2Proof.Machine

/-- Element width of a type code (R73). -/
def etW (ft : Nat) : Nat := match ft with
  | 0 => 32
  | 3 => 32
  | 4 => 32
  | 1 => 16
  | 2 => 16
  | 5 => 16
  | 6 => 16
  | 7 => 8
  | 8 => 8
  | 11 => 8
  | _ => 4
/-- Is a type code a float? -/
def etF (ft : Nat) : Bool := decide (ft < 3)
/-- Is an integer type code signed? -/
def etS (ft : Nat) : Bool := ft = 3 || ft = 5 || ft = 7 || ft = 9
/-- The integer value of an element. -/
def etVal (ft x : Nat) : Int := if etS ft then sgn (etW ft) x else x

/-- Fit an exact integer to `w` bits, signed or not: wrap or saturate, with `IOV` on overflow (R33). -/
def fitI (w : Nat) (signed sat : Bool) (x : Int) : Nat × Flags :=
  let lo : Int := if signed then -(2 ^ (w - 1)) else 0
  let hi : Int := if signed then 2 ^ (w - 1) - 1 else 2 ^ w - 1
  if lo ≤ x ∧ x ≤ hi then (wrapN w x, 0)
  else if sat then (wrapN w (if x < lo then lo else hi), fIov) else (wrapN w x, fIov)

/-- Fit to a type code. -/
def fitT (ft : Nat) (sat : Bool) (x : Int) : Nat × Flags := fitI (etW ft) (etS ft) sat x

/-- What a cluster slot writes: a value, the bits written, the flags of the written elements. -/
structure VRes where
  val   : Row
  mask  : Row
  flags : Flags

/-- The mould over elements of width `w`: element `e` is written when `on e` (R111). -/
def vMapP (w : Nat) (on : Nat → Bool) (op : Nat → Nat × Flags) : VRes :=
  let l := (List.range (512 / w)).map (fun e => if on e then (op e, 2 ^ w - 1) else ((0, 0), 0))
  { val := ofElems w (l.map (·.1.1)), mask := ofElems w (l.map (·.2))
    flags := l.foldl (fun a r => a ||| r.1.2) 0 }

/-- The mould under a lane mask (R16, R111). -/
def vMap (w : Nat) (m : BitVec 16) (op : Nat → Nat × Flags) : VRes :=
  vMapP w (fun e => m.getLsbD (e * w / 32)) op

/-- The cluster of a VA slot. -/
def vaC (h : Slot) : Nat := h.pos.toNat - 4

/-- Does an operand code name an empty queue head (R59, R72)? -/
def emptyHead (p : State) (code : BitVec 6) : Bool :=
  decide (32 ≤ code.toNat) && decide (code.toNat < 40) &&
    ((archOf p p.focus.core).qEnts (code.toNat - 32)).isEmpty

/-- A cluster slot that reads the operands `codes` and writes a vector register: held at condition 3
while a head it reads is empty. -/
def vaGo (h : Slot) (opc : BitVec 8) (codes : List (BitVec 6)) (dst : Dst) (full merged : Nat)
    (latch : Latched) (r : VRes) (p s : State) : SlotRes :=
  if !passed p 3 && codes.any (emptyHead p) then .hold 3 false .plain
  else .ok (emit s (mkFlight p h opc dst r.val r.mask (lat p p.focus full merged) r.flags latch))

/-- Latency of the add and multiply groups by type (R113). -/
def vLat (ft : Nat) (i im f fm : Nat) : Nat × Nat := if etF ft then (f, fm) else (i, im)

/-- A two-operand elementwise form (R111, R114). -/
def vBin (h : Slot) (o : VaF) (opc : BitVec 8) (l : Nat × Nat) (latch : Latched)
    (op : Nat → Nat → Nat × Flags) (p s : State) : SlotRes :=
  let c := vaC h
  let a := vOperand p c o.va
  let b := vOperand p c o.vb
  let w := etW o.ft.toNat
  vaGo h opc [o.va, o.vb] (.v c o.vd.toNat) l.1 l.2 latch
    (vMap w (vMask p c o.m) (fun e => op (elem w a e) (elem w b e))) p s

/-- A one-operand elementwise form. -/
def vUn (h : Slot) (o : VaF) (opc : BitVec 8) (l : Nat × Nat) (latch : Latched)
    (op : Nat → Nat × Flags) (p s : State) : SlotRes :=
  let c := vaC h
  let a := vOperand p c o.va
  let w := etW o.ft.toNat
  vaGo h opc [o.va] (.v c o.vd.toNat) l.1 l.2 latch
    (vMap w (vMask p c o.m) (fun e => op (elem w a e))) p s

/-- A three-operand elementwise form. -/
def vTri (h : Slot) (o : VaF) (opc : BitVec 8) (l : Nat × Nat) (latch : Latched)
    (op : Nat → Nat → Nat → Nat × Flags) (p s : State) : SlotRes :=
  let c := vaC h
  let a := vOperand p c o.va
  let b := vOperand p c o.vb
  let d := vOperand p c o.vc
  let w := etW o.ft.toNat
  vaGo h opc [o.va, o.vb, o.vc] (.v c o.vd.toNat) l.1 l.2 latch
    (vMap w (vMask p c o.m) (fun e => op (elem w a e) (elem w b e) (elem w d e))) p s

/-- An arithmetic element operation: the float operation in float types, the exact integer operation
fitted in integer types (R111, R114). -/
def vArith (p : State) (o : VaF) (f : Fmt → BitVec 2 → Bool → Nat → Nat → Nat × Flags)
    (i : Int → Int → Int) (a b : Nat) : Nat × Flags :=
  let t := o.ft.toNat
  if etF t then f (scFmt t) (modeOf p o.rn) p.iss.fz a b
  else fitT t (o.sat == 1) (i (etVal t a) (etVal t b))

/-- Minimum or maximum of elements (R114). -/
def eMinMax (p : State) (t : Nat) (max : Bool) (a b : Nat) : Nat × Flags :=
  if etF t then fMinMax (scFmt t) p.iss.fz max a b
  else (if max then (if etVal t a < etVal t b then b else a) else (if etVal t b < etVal t a then b else a), 0)

/-- `vadd`: a + b (R114). -/
def issueVadd (h : Slot) (o : VaF) (p s : State) : SlotRes :=
  vBin h o 1 (vLat o.ft.toNat 1 1 4 2) .la (vArith p o fAdd (fun a b => a + b)) p s

/-- The step of `vadd`. -/
def execVadd (h : Slot) (o : VaF) (s : State) : Host.Outcome State Fault Refusal :=
  slotStep h (issueVadd h o) s

/-- `vsub`: a - b (R114). -/
def issueVsub (h : Slot) (o : VaF) (p s : State) : SlotRes :=
  vBin h o 2 (vLat o.ft.toNat 1 1 4 2) .la (vArith p o fSub (fun a b => a - b)) p s

/-- The step of `vsub`. -/
def execVsub (h : Slot) (o : VaF) (s : State) : Host.Outcome State Fault Refusal :=
  slotStep h (issueVsub h o) s

/-- `vmul`: a x b (R114). -/
def issueVmul (h : Slot) (o : VaF) (p s : State) : SlotRes :=
  vBin h o 3 (vLat o.ft.toNat 3 2 4 2) .lm (vArith p o fMul (fun a b => a * b)) p s

/-- The step of `vmul`. -/
def execVmul (h : Slot) (o : VaF) (s : State) : Host.Outcome State Fault Refusal :=
  slotStep h (issueVmul h o) s

/-- `vmulh`: bits [2w-1 : w] of the exact product (R114). -/
def issueVmulh (h : Slot) (o : VaF) (p s : State) : SlotRes :=
  vBin h o 4 (3, 2) .lm (fun a b =>
    let t := o.ft.toNat
    (wrapN (etW t) (etVal t a * etVal t b / 2 ^ etW t), 0)) p s

/-- The step of `vmulh`. -/
def execVmulh (h : Slot) (o : VaF) (s : State) : Host.Outcome State Fault Refusal :=
  slotStep h (issueVmulh h o) s

/-- `vfma`: a x b + c, rounded once (R115). -/
def issueVfma (h : Slot) (o : VaF) (p s : State) : SlotRes :=
  vTri h o 5 (5, 3) .lm (fun a b c => fFma (scFmt o.ft.toNat) (modeOf p o.rn) p.iss.fz false false a b c) p s

/-- The step of `vfma`. -/
def execVfma (h : Slot) (o : VaF) (s : State) : Host.Outcome State Fault Refusal :=
  slotStep h (issueVfma h o) s

/-- `vfms`: a x b - c, rounded once (R115). -/
def issueVfms (h : Slot) (o : VaF) (p s : State) : SlotRes :=
  vTri h o 6 (5, 3) .lm (fun a b c => fFma (scFmt o.ft.toNat) (modeOf p o.rn) p.iss.fz false true a b c) p s

/-- The step of `vfms`. -/
def execVfms (h : Slot) (o : VaF) (s : State) : Host.Outcome State Fault Refusal :=
  slotStep h (issueVfms h o) s

/-- `vfnma`: -(a x b) + c, rounded once (R115). -/
def issueVfnma (h : Slot) (o : VaF) (p s : State) : SlotRes :=
  vTri h o 7 (5, 3) .lm (fun a b c => fFma (scFmt o.ft.toNat) (modeOf p o.rn) p.iss.fz true false a b c) p s

/-- The step of `vfnma`. -/
def execVfnma (h : Slot) (o : VaF) (s : State) : Host.Outcome State Fault Refusal :=
  slotStep h (issueVfnma h o) s

/-- `vmin`: the smaller (R114). -/
def issueVmin (h : Slot) (o : VaF) (p s : State) : SlotRes :=
  vBin h o 8 (vLat o.ft.toNat 1 1 4 2) .la (eMinMax p o.ft.toNat false) p s

/-- The step of `vmin`. -/
def execVmin (h : Slot) (o : VaF) (s : State) : Host.Outcome State Fault Refusal :=
  slotStep h (issueVmin h o) s

/-- `vmax`: the larger (R114). -/
def issueVmax (h : Slot) (o : VaF) (p s : State) : SlotRes :=
  vBin h o 9 (vLat o.ft.toNat 1 1 4 2) .la (eMinMax p o.ft.toNat true) p s

/-- The step of `vmax`. -/
def execVmax (h : Slot) (o : VaF) (s : State) : Host.Outcome State Fault Refusal :=
  slotStep h (issueVmax h o) s

/-- A float element with its sign made positive or inverted: exact, NaN canonical (R116). -/
def eSign (t : Nat) (fz neg : Bool) (a : Nat) : Nat × Flags :=
  let f := scFmt t
  match fpRead f fz a with
  | .nan s => (f.qnan, if s then fInv else 0)
  | .inf n => (f.infBits (neg && !n), 0)
  | .fin n m e => fpWrite f 0 false (.fin (neg && !n) m e)

/-- `vabs`: |a| (R116). -/
def issueVabs (h : Slot) (o : VaF) (p s : State) : SlotRes :=
  vUn h o 10 (vLat o.ft.toNat 1 1 4 2) .la (fun a =>
    let t := o.ft.toNat
    if etF t then eSign t p.iss.fz false a else fitT t (o.sat == 1) (etVal t a).natAbs) p s

/-- The step of `vabs`. -/
def execVabs (h : Slot) (o : VaF) (s : State) : Host.Outcome State Fault Refusal :=
  slotStep h (issueVabs h o) s

/-- `vneg`: -a (R116). -/
def issueVneg (h : Slot) (o : VaF) (p s : State) : SlotRes :=
  vUn h o 11 (vLat o.ft.toNat 1 1 4 2) .la (fun a =>
    let t := o.ft.toNat
    if etF t then eSign t p.iss.fz true a else fitT t (o.sat == 1) (-(etVal t a))) p s

/-- The step of `vneg`. -/
def execVneg (h : Slot) (o : VaF) (s : State) : Host.Outcome State Fault Refusal :=
  slotStep h (issueVneg h o) s

/-- `vand`: bitwise and (R118). -/
def issueVand (h : Slot) (o : VaF) (p s : State) : SlotRes :=
  vBin h o 12 (1, 1) .la (fun a b => (a &&& b, 0)) p s

/-- The step of `vand`. -/
def execVand (h : Slot) (o : VaF) (s : State) : Host.Outcome State Fault Refusal :=
  slotStep h (issueVand h o) s

/-- `vor`: bitwise or (R118). -/
def issueVor (h : Slot) (o : VaF) (p s : State) : SlotRes :=
  vBin h o 13 (1, 1) .la (fun a b => (a ||| b, 0)) p s

/-- The step of `vor`. -/
def execVor (h : Slot) (o : VaF) (s : State) : Host.Outcome State Fault Refusal :=
  slotStep h (issueVor h o) s

/-- `vxor`: bitwise exclusive or (R118). -/
def issueVxor (h : Slot) (o : VaF) (p s : State) : SlotRes :=
  vBin h o 14 (1, 1) .la (fun a b => (a ^^^ b, 0)) p s

/-- The step of `vxor`. -/
def execVxor (h : Slot) (o : VaF) (s : State) : Host.Outcome State Fault Refusal :=
  slotStep h (issueVxor h o) s

/-- `vshl`: low w bits of a x 2^s (R118). -/
def issueVshl (h : Slot) (o : VaF) (p s : State) : SlotRes :=
  vBin h o 15 (1, 1) .la (fun a b => (a * 2 ^ (b % etW o.ft.toNat) % 2 ^ etW o.ft.toNat, 0)) p s

/-- The step of `vshl`. -/
def execVshl (h : Slot) (o : VaF) (s : State) : Host.Outcome State Fault Refusal :=
  slotStep h (issueVshl h o) s

/-- `vshr`: unsigned shift right (R118). -/
def issueVshr (h : Slot) (o : VaF) (p s : State) : SlotRes :=
  vBin h o 16 (1, 1) .la (fun a b => (a / 2 ^ (b % etW o.ft.toNat), 0)) p s

/-- The step of `vshr`. -/
def execVshr (h : Slot) (o : VaF) (s : State) : Host.Outcome State Fault Refusal :=
  slotStep h (issueVshr h o) s

/-- `vsra`: signed shift right (R118). -/
def issueVsra (h : Slot) (o : VaF) (p s : State) : SlotRes :=
  vBin h o 17 (1, 1) .la (fun a b =>
    (wrapN (etW o.ft.toNat) (sgn (etW o.ft.toNat) a / 2 ^ (b % etW o.ft.toNat)), 0)) p s

/-- The step of `vsra`. -/
def execVsra (h : Slot) (o : VaF) (s : State) : Host.Outcome State Fault Refusal :=
  slotStep h (issueVsra h o) s

/-- The condition of `vcmp` on two elements (R119). -/
def eCond (p : State) (t cc a b : Nat) : Bool × Flags :=
  if etF t then fCmp (scFmt t) p.iss.fz cc a b
  else
    let x := etVal t a
    let y := etVal t b
    (match cc with
      | 0 => decide (x = y)
      | 1 => decide (x ≠ y)
      | 2 => decide (x < y)
      | 3 => decide (y ≤ x)
      | 4 => decide (x ≤ y)
      | 5 => decide (y < x)
      | 10 => decide (a &&& b ≠ 0)
      | _ => decide (a &&& b = 0), 0)

/-- `vcmp`: mask bit k is set when the condition holds for every element of lane k (R119). -/
def issueVcmp (h : Slot) (o : VaF) (p s : State) : SlotRes :=
  let c := vaC h
  let a := vOperand p c o.va
  let b := vOperand p c o.vb
  let t := o.ft.toNat
  let w := etW t
  let m := vMask p c o.m
  let per := 32 / w
  let lane := fun (k : Nat) => (List.range per).map (fun i =>
    eCond p t o.vc.toNat (elem w a (k * per + i)) (elem w b (k * per + i)))
  let ls := (List.range 16).map (fun k => if m.getLsbD k then lane k else [])
  let r : VRes :=
    { val := BitVec.ofNat 512 (joinN 1 (ls.map (fun l => (l.all (·.1)).toNat)))
      mask := BitVec.ofNat 512 m.toNat
      flags := ls.foldl (fun f l => l.foldl (fun f x => f ||| x.2) f) 0 }
  let l := vLat t 1 1 4 2
  vaGo h 18 [o.va, o.vb] (.m c o.vd.toNat) l.1 l.2 .none r p s

/-- The step of `vcmp`. -/
def execVcmp (h : Slot) (o : VaF) (s : State) : Host.Outcome State Fault Refusal :=
  slotStep h (issueVcmp h o) s

/-- `vsel`: lane k of `va` where m[k] = 1, else of `vb` (R120). -/
def issueVsel (h : Slot) (o : VaF) (p s : State) : SlotRes :=
  let c := vaC h
  let sel := laneBits (vMask p c o.m)
  vaGo h 19 [o.va, o.vb] (.v c o.vd.toNat) 1 1 .la
    { val := (vOperand p c o.va &&& sel) ||| (vOperand p c o.vb &&& ~~~sel), mask := maskAll, flags := 0 } p s

/-- The step of `vsel`. -/
def execVsel (h : Slot) (o : VaF) (s : State) : Host.Outcome State Fault Refusal :=
  slotStep h (issueVsel h o) s

/-- `vclamp`: min(max(a, b), c) (R117). -/
def issueVclamp (h : Slot) (o : VaF) (p s : State) : SlotRes :=
  vTri h o 20 (vLat o.ft.toNat 1 1 4 2) .la (fun a b c =>
    let t := o.ft.toNat
    let x := eMinMax p t true a b
    let y := eMinMax p t false x.1 c
    (y.1, x.2 ||| y.2)) p s

/-- The step of `vclamp`. -/
def execVclamp (h : Slot) (o : VaF) (s : State) : Host.Outcome State Fault Refusal :=
  slotStep h (issueVclamp h o) s

/-- `vmov`: lane copy (R121). -/
def issueVmov (h : Slot) (o : VaF) (p s : State) : SlotRes :=
  let c := vaC h
  vaGo h 21 [o.va] (.v c o.vd.toNat) 1 1 .la
    { val := vOperand p c o.va, mask := laneBits (vMask p c o.m), flags := 0 } p s

/-- The step of `vmov`. -/
def execVmov (h : Slot) (o : VaF) (s : State) : Host.Outcome State Fault Refusal :=
  slotStep h (issueVmov h o) s

/-- `vbcs`: every element := s[va][w-1:0] (R121). -/
def issueVbcs (h : Slot) (o : VaF) (p s : State) : SlotRes :=
  let c := vaC h
  let w := etW o.ft.toNat
  vaGo h 22 [] (.v c o.vd.toNat) 1 1 .none
    (vMap w (vMask p c o.m) (fun _ => (wf (rs p (o.va.setWidth 5)) 0 w, 0))) p s

/-- The step of `vbcs`. -/
def execVbcs (h : Slot) (o : VaF) (s : State) : Host.Outcome State Fault Refusal :=
  slotStep h (issueVbcs h o) s

/-- `vext`: element `vb` of `va` splatted (R121). -/
def issueVext (h : Slot) (o : VaF) (p s : State) : SlotRes :=
  let c := vaC h
  let w := etW o.ft.toNat
  let x := elem w (vOperand p c o.va) o.vb.toNat
  vaGo h 23 [o.va] (.v c o.vd.toNat) 1 1 .none (vMap w (vMask p c o.m) (fun _ => (x, 0))) p s

/-- The step of `vext`. -/
def execVext (h : Slot) (o : VaF) (s : State) : Host.Outcome State Fault Refusal :=
  slotStep h (issueVext h o) s

/-- `vins`: writes element `vb` with s[va][w-1:0] (R121). -/
def issueVins (h : Slot) (o : VaF) (p s : State) : SlotRes :=
  let c := vaC h
  let w := etW o.ft.toNat
  vaGo h 24 [] (.v c o.vd.toNat) 1 1 .none
    (vMapP w (fun e => e == o.vb.toNat) (fun _ => (wf (rs p (o.va.setWidth 5)) 0 w, 0))) p s

/-- The step of `vins`. -/
def execVins (h : Slot) (o : VaF) (s : State) : Host.Outcome State Fault Refusal :=
  slotStep h (issueVins h o) s

/-- One level of the reduction tree: neighbours are joined (R122). -/
def pairUp (g : Nat → Nat → Nat × Flags) : List Nat → List Nat × Flags
  | a :: b :: t =>
    let r := g a b
    let x := pairUp g t
    (r.1 :: x.1, r.2 ||| x.2)
  | l => (l, 0)

/-- `k` levels of the tree. -/
def redTree (g : Nat → Nat → Nat × Flags) : Nat → List Nat → Nat × Flags
  | 0, l => (l.head?.getD 0, 0)
  | k + 1, l =>
    let x := pairUp g l
    let r := redTree g k x.1
    (r.1, x.2 ||| r.2)

/-- The reduction of the sixteen lanes (R122). -/
def reduce (p : State) (o : VaF) (a : Row) : Nat × Flags :=
  let t := o.ft.toNat
  let l := (List.range 16).map (elem 32 a)
  match o.vc.toNat with
  | 0 =>
    if etF t then redTree (fAdd fp32 (modeOf p o.rn) p.iss.fz) 4 l
    else fitT t (o.sat == 1) (l.foldl (fun x y => x + etVal t y) 0)
  | 1 => redTree (eMinMax p t false) 4 l
  | _ => redTree (eMinMax p t true) 4 l

/-- `vred`: the reduction of all lanes in every written lane (R122). -/
def issueVred (h : Slot) (o : VaF) (p s : State) : SlotRes :=
  let c := vaC h
  let r := reduce p o (vOperand p c o.va)
  vaGo h 25 [o.va] (.v c o.vd.toNat) 6 3 .none (vMap 32 (vMask p c o.m) (fun _ => r)) p s

/-- The step of `vred`. -/
def execVred (h : Slot) (o : VaF) (s : State) : Host.Outcome State Fault Refusal :=
  slotStep h (issueVred h o) s

/-- `vshuf`: element e := element index(e) of `va` (R123). -/
def issueVshuf (h : Slot) (o : VaF) (p s : State) : SlotRes :=
  let c := vaC h
  let w := etW o.ft.toNat
  let a := vOperand p c o.va
  let b := vOperand p c o.vb
  vaGo h 26 [o.va, o.vb] (.v c o.vd.toNat) 1 1 .none
    (vMap w (vMask p c o.m) (fun e => (elem w a (elem w b e % (512 / w)), 0))) p s

/-- The step of `vshuf`. -/
def execVshuf (h : Slot) (o : VaF) (s : State) : Host.Outcome State Fault Refusal :=
  slotStep h (issueVshuf h o) s

/-- `vrmg`: bytes vc to vc + 63 of the pair (R124). -/
def issueVrmg (h : Slot) (o : VaF) (p s : State) : SlotRes :=
  let c := vaC h
  let n := (vOperand p c o.va).toNat + 2 ^ 512 * (vOperand p c o.vb).toNat
  vaGo h 27 [o.va, o.vb] (.v c o.vd.toNat) 1 1 .none
    { val := BitVec.ofNat 512 (n / 2 ^ (8 * o.vc.toNat)), mask := laneBits (vMask p c o.m), flags := 0 } p s

/-- The step of `vrmg`. -/
def execVrmg (h : Slot) (o : VaF) (s : State) : Host.Outcome State Fault Refusal :=
  slotStep h (issueVrmg h o) s

/-- Convert one element between type codes (R42, R125). -/
def eConv (mode : BitVec 2) (fz : Bool) (src dst a : Nat) : Nat × Flags :=
  if etF src then
    if etF dst then fConv (scFmt src) (scFmt dst) mode fz a
    else fToI (scFmt src) mode fz (etW dst) (etS dst) a
  else iToF (scFmt dst) mode fz (etVal src a)

/-- `vcvt`: element conversion, part `vb` (R125). -/
def issueVcvt (h : Slot) (o : VaF) (p s : State) : SlotRes :=
  let c := vaC h
  let a := vOperand p c o.va
  let src := o.ft.toNat
  let dst := o.vc.toNat % 16
  let ns := 512 / etW src
  let nd := 512 / etW dst
  let pt := o.vb.toNat
  let m := vMask p c o.m
  let w := etW dst
  let cv := fun (j : Nat) => eConv (modeOf p o.rn) p.iss.fz src dst (elem (etW src) a j)
  let r := if ns < nd then
      vMapP w (fun e => m.getLsbD (e * w / 32) && decide (e / ns = pt)) (fun e => cv (e % ns))
    else if nd < ns then vMap w m (fun e => cv (pt * nd + e))
    else vMap w m cv
  vaGo h 28 [o.va] (.v c o.vd.toNat) 3 2 .none r p s

/-- The step of `vcvt`. -/
def execVcvt (h : Slot) (o : VaF) (s : State) : Host.Outcome State Fault Refusal :=
  slotStep h (issueVcvt h o) s

/-- `vpack`: narrows two registers of the double-width type into one (R126). -/
def issueVpack (h : Slot) (o : VaF) (p s : State) : SlotRes :=
  let c := vaC h
  let t := o.ft.toNat
  let w := etW t
  let n := 512 / w
  let a := vOperand p c o.va
  let b := vOperand p c o.vb
  let rd := fun (r : Row) (j : Nat) => let x := elem (2 * w) r j
    if etS t then sgn (2 * w) x else (x : Int)
  vaGo h 29 [o.va, o.vb] (.v c o.vd.toNat) 1 1 .none
    (vMap w (vMask p c o.m) (fun j =>
      fitT t (o.sat == 1) (if j < n / 2 then rd a j else rd b (j - n / 2)))) p s

/-- The step of `vpack`. -/
def execVpack (h : Slot) (o : VaF) (s : State) : Host.Outcome State Fault Refusal :=
  slotStep h (issueVpack h o) s

/-- `vunpk`: extends half `vb` to the double-width type (R126). -/
def issueVunpk (h : Slot) (o : VaF) (p s : State) : SlotRes :=
  let c := vaC h
  let t := o.ft.toNat
  let w := etW t
  let n := 512 / w
  let a := vOperand p c o.va
  vaGo h 30 [o.va] (.v c o.vd.toNat) 1 1 .none
    (vMap (2 * w) (vMask p c o.m) (fun j =>
      (wrapN (2 * w) (etVal t (elem w a (o.vb.toNat * (n / 2) + j))), 0))) p s

/-- The step of `vunpk`. -/
def execVunpk (h : Slot) (o : VaF) (s : State) : Host.Outcome State Fault Refusal :=
  slotStep h (issueVunpk h o) s

/-- The scale of a group header, FP16 (R45); the header bit `fz` never flushes a subnormal one, whatever reads it (R37, R127).
(DEDUCED, log 95) -/
def hdrSc (h : Nat) : FpVal := fpRead fp16 false (fld h 0 16)
/-- The zero point of a group header, S8 (R45). -/
def hdrZp (h : Nat) : Int := sgn 8 (fld h 16 8)

/-- Dequantize (R47): exact, in FP32. (DEDUCED, log 95) -/
def dequant (q : Int) (h : Nat) : Nat × Flags :=
  let d := q - hdrZp h
  let r := fpMul (hdrSc h) (.fin (decide (d < 0)) d.natAbs 0)
  let x := fpWrite fp32 0 false r.1
  (x.1, x.2 ||| r.2)

/-- Clamp to a range. -/
def clampI (lo hi x : Int) : Int := if x < lo then lo else if hi < x then hi else x

/-- Quantize (R47) a FP32 value: the element, its flags, and whether it was saturated. (DEDUCED, logs 29 and 95) -/
def quant (x : FpVal) (h : Nat) (lo hi : Int) : Int × Flags × Bool :=
  match x, hdrSc h with
  | .nan _, _ => (clampI lo hi (hdrZp h), fInv, false)
  | _, .nan _ => (clampI lo hi (hdrZp h), fInv, false)
  | _, .inf _ => (clampI lo hi (hdrZp h), fInv, false)
  | .inf n, .fin g m _ =>
    if m = 0 then (clampI lo hi (hdrZp h), fInv, false)
    else (if n = g then hi else lo, fInx, true)
  | .fin n mx ex, .fin g ms es =>
    if ms = 0 then (clampI lo hi (hdrZp h), fInv, false)
    else
      let d := ex - es
      let num := mx * 2 ^ d.toNat
      let den := ms * 2 ^ (-d).toNat
      let q0 := num / den
      let r := num % den
      let q1 := if den < 2 * r ∨ (2 * r = den ∧ q0 % 2 = 1) then q0 + 1 else q0
      let y := sInt (n != g) q1 + hdrZp h
      let q := clampI lo hi y
      (q, if r ≠ 0 ∨ q ≠ y then fInx else 0, decide (q ≠ y))

/-- `vqnt`: quantizes sixteen FP32 lanes into part `vb` (R127). -/
def issueVqnt (h : Slot) (o : VaF) (p s : State) : SlotRes :=
  let c := vaC h
  let w := etW o.ft.toNat
  let a := vOperand p c o.va
  let hd := elem 32 (vOperand p c o.vc) 0
  let m := vMask p c o.m
  let r := vMapP w (fun e => m.getLsbD (e * w / 32) && decide (e / 16 = o.vb.toNat)) (fun e =>
    let q := quant (fpRead fp32 p.iss.fz (elem 32 a (e % 16))) hd (-(2 ^ (w - 1))) (2 ^ (w - 1) - 1)
    (wrapN w q.1, q.2.1))
  vaGo h 31 [o.va, o.vc] (.v c o.vd.toNat) 3 2 .none r p s

/-- The step of `vqnt`. -/
def execVqnt (h : Slot) (o : VaF) (s : State) : Host.Outcome State Fault Refusal :=
  slotStep h (issueVqnt h o) s

/-- `vdqnt`: dequantizes part `vb` into sixteen FP32 lanes (R127). -/
def issueVdqnt (h : Slot) (o : VaF) (p s : State) : SlotRes :=
  let c := vaC h
  let w := etW o.ft.toNat
  let a := vOperand p c o.va
  let hd := elem 32 (vOperand p c o.vc) 0
  vaGo h 32 [o.va, o.vc] (.v c o.vd.toNat) 3 2 .none
    (vMap 32 (vMask p c o.m) (fun j => dequant (sgn w (elem w a (16 * o.vb.toNat + j))) hd)) p s

/-- The step of `vdqnt`. -/
def execVdqnt (h : Slot) (o : VaF) (s : State) : Host.Outcome State Fault Refusal :=
  slotStep h (issueVdqnt h o) s

/-- `vdot4`: lane k of `vc` plus four 8-bit products (R128). -/
def issueVdot4 (h : Slot) (o : VaF) (p s : State) : SlotRes :=
  let c := vaC h
  let t := o.ft.toNat
  let a := vOperand p c o.va
  let b := vOperand p c o.vb
  let d := vOperand p c o.vc
  let t32 := if etS t then 3 else 4
  vaGo h 33 [o.va, o.vb, o.vc] (.v c o.vd.toNat) 3 2 .lm
    (vMap 32 (vMask p c o.m) (fun k =>
      fitT t32 (o.sat == 1) ((List.range 4).foldl
        (fun x i => x + etVal t (elem 8 a (4 * k + i)) * etVal t (elem 8 b (4 * k + i)))
        (etVal t32 (elem 32 d k))))) p s

/-- The step of `vdot4`. -/
def execVdot4 (h : Slot) (o : VaF) (s : State) : Host.Outcome State Fault Refusal :=
  slotStep h (issueVdot4 h o) s

/-- `vexp2`: the correctly rounded function of each FP32 lane (R43, R129). -/
def issueVexp2 (h : Slot) (o : VaF) (p s : State) : SlotRes :=
  vUn h o 34 (12, 6) .none (fExp2 p.iss.fz) p s

/-- The step of `vexp2`. -/
def execVexp2 (h : Slot) (o : VaF) (s : State) : Host.Outcome State Fault Refusal :=
  slotStep h (issueVexp2 h o) s

/-- `vlog2`: the correctly rounded function of each FP32 lane (R43, R129). -/
def issueVlog2 (h : Slot) (o : VaF) (p s : State) : SlotRes :=
  vUn h o 35 (12, 6) .none (fLog2 p.iss.fz) p s

/-- The step of `vlog2`. -/
def execVlog2 (h : Slot) (o : VaF) (s : State) : Host.Outcome State Fault Refusal :=
  slotStep h (issueVlog2 h o) s

/-- `vrcp`: the correctly rounded function of each FP32 lane (R43, R129). -/
def issueVrcp (h : Slot) (o : VaF) (p s : State) : SlotRes :=
  vUn h o 36 (12, 6) .none (fRcp p.iss.fz) p s

/-- The step of `vrcp`. -/
def execVrcp (h : Slot) (o : VaF) (s : State) : Host.Outcome State Fault Refusal :=
  slotStep h (issueVrcp h o) s

/-- `vrsq`: the correctly rounded function of each FP32 lane (R43, R129). -/
def issueVrsq (h : Slot) (o : VaF) (p s : State) : SlotRes :=
  vUn h o 37 (12, 6) .none (fRsq p.iss.fz) p s

/-- The step of `vrsq`. -/
def execVrsq (h : Slot) (o : VaF) (s : State) : Host.Outcome State Fault Refusal :=
  slotStep h (issueVrsq h o) s

/-- `vsqrt`: the correctly rounded function of each FP32 lane (R43, R129). -/
def issueVsqrt (h : Slot) (o : VaF) (p s : State) : SlotRes :=
  vUn h o 38 (12, 6) .none (fSqrt p.iss.fz) p s

/-- The step of `vsqrt`. -/
def execVsqrt (h : Slot) (o : VaF) (s : State) : Host.Outcome State Fault Refusal :=
  slotStep h (issueVsqrt h o) s

/-- `vtanh`: the correctly rounded function of each FP32 lane (R43, R129). -/
def issueVtanh (h : Slot) (o : VaF) (p s : State) : SlotRes :=
  vUn h o 39 (12, 6) .none (fTanh p.iss.fz) p s

/-- The step of `vtanh`. -/
def execVtanh (h : Slot) (o : VaF) (s : State) : Host.Outcome State Fault Refusal :=
  slotStep h (issueVtanh h o) s

/-- A mask form over mask registers (R130). -/
def vaMask (h : Slot) (o : VaF) (opc : BitVec 8) (v : BitVec 16) (p s : State) : SlotRes :=
  vaGo h opc [] (.m (vaC h) o.vd.toNat) 1 1 .none
    { val := BitVec.ofNat 512 v.toNat, mask := 0xFFFF, flags := 0 } p s

/-- A mask operand (R130). -/
def mOperand (p : State) (h : Slot) (code : BitVec 6) : BitVec 16 :=
  ((archOf p p.focus.core).clus (vaC h)).maskReg code.toNat

/-- `vmand`: mI and mJ (R130). -/
def issueVmand (h : Slot) (o : VaF) (p s : State) : SlotRes :=
  vaMask h o 40 (mOperand p h o.va &&& mOperand p h o.vb) p s

/-- The step of `vmand`. -/
def execVmand (h : Slot) (o : VaF) (s : State) : Host.Outcome State Fault Refusal :=
  slotStep h (issueVmand h o) s

/-- `vmor`: mI or mJ (R130). -/
def issueVmor (h : Slot) (o : VaF) (p s : State) : SlotRes :=
  vaMask h o 41 (mOperand p h o.va ||| mOperand p h o.vb) p s

/-- The step of `vmor`. -/
def execVmor (h : Slot) (o : VaF) (s : State) : Host.Outcome State Fault Refusal :=
  slotStep h (issueVmor h o) s

/-- `vmnot`: not mI (R130). -/
def issueVmnot (h : Slot) (o : VaF) (p s : State) : SlotRes :=
  vaMask h o 42 (~~~mOperand p h o.va) p s

/-- The step of `vmnot`. -/
def execVmnot (h : Slot) (o : VaF) (s : State) : Host.Outcome State Fault Refusal :=
  slotStep h (issueVmnot h o) s

/-- `vmpop`: the number of one bits of mI in every written lane (R130). -/
def issueVmpop (h : Slot) (o : VaF) (p s : State) : SlotRes :=
  let c := vaC h
  vaGo h 43 [] (.v c o.vd.toNat) 1 1 .none
    (vMap 32 (vMask p c o.m) (fun _ => (onesN 16 (mOperand p h o.va).toNat, 0))) p s

/-- The step of `vmpop`. -/
def execVmpop (h : Slot) (o : VaF) (s : State) : Host.Outcome State Fault Refusal :=
  slotStep h (issueVmpop h o) s

/-- One round of Mix32 (R44) over (a, b, k0, k1). -/
def mixRound (x : BitVec 32 × BitVec 32 × BitVec 32 × BitVec 32) :
    BitVec 32 × BitVec 32 × BitVec 32 × BitVec 32 :=
  let a := x.1 + x.2.1.rotateLeft 7 + x.2.2.1
  let b := (x.2.1 ^^^ a.rotateLeft 13) * 0xB5297A4D
  (a, b, x.2.2.2, x.2.2.1 + 0x61C88647)

/-- Mix32(K, C, L) (R44). -/
def mix32 (k c : Word) (l : Nat) : BitVec 32 :=
  let x0 := (c.extractLsb' 0 32, c.extractLsb' 32 32 ^^^ (BitVec.ofNat 32 l * 0x2C1B3C6D),
    k.extractLsb' 0 32, k.extractLsb' 32 32)
  let x := mixRound (mixRound (mixRound (mixRound (mixRound (mixRound x0)))))
  x.1 ^^^ x.2.1.rotateLeft 16

/-- `vrng`: Mix32(K, C, 16c + k) in each written lane (R131). -/
def issueVrng (h : Slot) (o : VaF) (p s : State) : SlotRes :=
  let c := vaC h
  let k := (vOperand p c o.va).setWidth 64
  let n := (vOperand p c o.vb).setWidth 64
  vaGo h 44 [o.va, o.vb] (.v c o.vd.toNat) 3 2 .none
    (vMap 32 (vMask p c o.m) (fun l => ((mix32 k n (16 * c + l)).toNat, 0))) p s

/-- The step of `vrng`. -/
def execVrng (h : Slot) (o : VaF) (s : State) : Host.Outcome State Fault Refusal :=
  slotStep h (issueVrng h o) s

end Sys2Proof.Machine
end

