-- ==== Sys2Proof/Machine/Memory.lean ====
section
/-!
DEFINITION. Memory as the slots reach it (R133 to R154, R160): the checks and requests of an access, the
race check, row forms, word forms, the understory and staging words, atomics, majority operations,
handle accesses and queue pushes, one issue function and one step per instruction.
-/
namespace Sys2Proof.Machine

/-! ### The race check (R315 to R318) -/

/-- The fields of a race tag (R315). -/
structure Tag where
  w  : Nat
  rd : Nat
  ph : Nat
  v  : Bool
  wp : Bool
  rp : Bool
deriving DecidableEq, Repr

/-- Read a race tag. -/
def tagOf (x : BitVec 32) : Tag :=
  { w := wf x 22 10, rd := wf x 12 10, ph := wf x 4 8, v := x.getLsbD 3, wp := x.getLsbD 2, rp := x.getLsbD 1 }
/-- Lay a race tag out. -/
def Tag.bits (t : Tag) : BitVec 32 :=
  BitVec.ofNat 32 (t.w * 2 ^ 22 + t.rd * 2 ^ 12 + t.ph * 16 + t.v.toNat * 8 + t.wp.toNat * 4 + t.rp.toNat * 2)

/-- Is an agent in the acquire set (R317)? -/
def inAset (a : Arch) (y : Nat) : Bool := match a.aset with
  | none => true
  | some l => l.contains y

/-- A checked access by agent `y` in phase `p` meets a tag (R318): the new tag, or none for a race. -/
def meetTag (a : Arch) (y : Nat) (wr : Bool) (t : Tag) : Option Tag :=
  let p := a.phn.toNat
  if !t.v || t.ph != p then
    some (if wr then { w := y, rd := 0, ph := p, v := true, wp := true, rp := false }
          else { w := 0, rd := y, ph := p, v := true, wp := false, rp := true })
  else if t.wp && t.w != y && !inAset a t.w then none
  else if t.rp && t.rd == 0x3FF then (if wr then none else some t)
  else if t.rp && t.rd != y && !inAset a t.rd then (if wr then none else some { t with rd := 0x3FF })
  else if wr then some { t with wp := true, w := y, rp := false, rd := 0 }
  else if !t.rp then some { t with rp := true, rd := y }
  else if t.rd != y then some { t with rd := 0x3FF }
  else some t

/-- Is an access through an entry subject to the race check (R316)? -/
def raceLive (p : State) (e : TEntry) (pa : Nat) : Bool :=
  (strmOf p p.focus).blk.rrg && e.rck && decide (paSpace pa = 0) && decide (paPkg pa = p.pkg.toNat)

/-- Set `V` := 0 on the tag of a row (R316). -/
def dropTag (s : State) (pa : Nat) : State :=
  if paSpace pa = 0 ∧ paPkg pa = s.pkg.toNat then
    { s with tags := tput s.tags (pa / 64) ((tget 0 s.tags (pa / 64)) &&& ~~~8) }
  else s

/-- The race check of a load or store (R316, R318): none is a race; an unchecked store to a row that can
be checked resets its tag. (DEDUCED, log 62) -/
def raceStep (p s : State) (e : TEntry) (pa : Nat) (wr : Bool) : Option State :=
  if raceLive p e pa then
    match meetTag (archOf p p.focus.core) p.focus.core wr (tagOf (tget 0 s.tags (pa / 64))) with
    | none => none
    | some t => some { s with tags := tput s.tags (pa / 64) t.bits }
  else if wr && e.rck then some (dropTag s pa) else some s

/-- Has the issuing stream an acquire that has not been performed? -/
def acquiring (p : State) : Bool := (archOf p p.focus.core).reqs.any (fun r => r.side == p.focus.side && r.acq)

/-! ### Writes of restartable nodes (R360) -/

/-- Does an address lie in a bank its node owns: a bank selected by `NOWN` of a core of its stand? -/
def nodeOwns (s : State) (n : Node) (pa : Nat) : Bool :=
  decide (paPkg pa = s.pkg.toNat) && decide (paSpace pa = 0) && n.stand.contains (paCore pa) &&
    decide (fld (recN n.record 72 4) (paBank pa) 1 = 1)

/-- A write of a node outside the owned banks of its launch clears its restartable state (R360). -/
def noteNodeWrite (s : State) (ctx node pa : Nat) : State :=
  modNode s ctx node (fun n => if nodeOwns s n pa then n else { n with restart := false })

/-- The same of a core's task. -/
def noteWrite (s : State) (core : Nat) (pa : Nat) : State :=
  match (archOf s core).task with
  | none => s
  | some t => noteNodeWrite s t.ctx t.node pa

/-! ### One memory access of a slot -/

/-- Translate and check an access and give what it reached to `g`; the trap otherwise (R136, R209). The
argument of a D trap is the virtual address, by which the dispatcher finds the region. -/
def withAccess (h : Slot) (a : Ask) (va : Word) (p : State)
    (g : Nat → TEntry → Nat → SlotRes) : SlotRes :=
  match access p p.focus.core a va with
  | .error c => .trap (mkTrap p h c 4 (BitVec.ofNat 64 (wf va 0 48)) 0)
  | .ok (i, e, pa) => g i e pa

/-- Translate and check the two operands of a slot; the trap is the first in the order of R136, whichever meets it. -/
def withBoth (h : Slot) (a : Ask) (va : Word) (b : Ask) (vb : Word) (p : State)
    (g : Nat → Nat → Nat → Nat → SlotRes) : SlotRes :=
  let x := access p p.focus.core a va
  let y := access p p.focus.core b vb
  match x, y with
  | .ok (i, _, pa), .ok (j, _, pb) => g i pa j pb
  | _, _ => let t := (firstFault (faultOf va x) (faultOf vb y)).getD (3, va)
    .trap (mkTrap p h t.1 4 t.2 0)

/-- Condition 4 for a timed access (R26, R59). -/
def needEntry (p : State) (side : Nat) (r : SlotRes) : SlotRes :=
  if !passed p 4 && !landFree p side then .hold 4 true .plain else r

/-- Condition 7 for an access to a bank (R136). (DEDUCED, log 43) -/
def needBank (p : State) (pa : Nat) (r : SlotRes) : SlotRes :=
  if !passed p 7 && !ownsBank p p.focus.core pa then .hold 7 false .plain else r

/-- The race fault of R318; its argument is the row's address. (DEDUCED, log 28) -/
def raceTrap (p : State) (h : Slot) (va : Word) : SlotRes :=
  .trap (mkTrap p h 5 4 (BitVec.ofNat 64 (wf va 0 48 / 64 * 64)) 0)

/-- The race check of a slot between its translation and its commit: it waits for the stream's acquires, without which AS
does not yet hold what orders the access (R317, R319, R334); a bundle that a later condition has held has passed it
(R136). (DEDUCED, log 62) -/
def withCheck (h : Slot) (va : Word) (p s : State) (e : TEntry) (pa : Nat) (wr : Bool) (g : State → SlotRes) : SlotRes :=
  if raceLive p e pa && (strmOf p p.focus).tabAt.isSome then g s
  else if raceLive p e pa && acquiring p then .hold 6 false .checks
  else match raceStep p s e pa wr with
    | none => raceTrap p h va
    | some s1 => g s1

/-- A timed load: entry, translation, race check, bank, request and landing (R134). -/
def timedLoad (h : Slot) (opc : BitVec 8) (va : Word) (len : Nat) (dst : Dst) (mask : Row) (shape : Shape)
    (arr : Nat) (ord : BitVec 2) (scp : Nat) (p s : State) : SlotRes :=
  needEntry p (if h.pos = 2 then 8 else h.pos.toNat - 12) <|
  withAccess h askLoad va p fun i e pa => withCheck h va p s e pa false fun s1 => needBank p pa <|
      let s2 := countHot s1 p.focus.core i
      let q := issueReq s2 h .load pa len 0 0 0 ord scp none
      .ok (emitLanding p q.2 h opc dst mask shape arr q.1)

/-- Entries of a core's outbound buffer in use: messages, and requests bound for another package that have
not left (R160, R203, R406). -/
def outUsed (s : State) (core : Nat) : Nat :=
  (s.net.filter (fun m => m.out && m.src == core)).length +
    ((archOf s core).reqs.filter (fun r => decide (paPkg r.pa ≠ s.pkg.toNat) &&
      (!r.sent || s.fab.retry.any (fun y => y.core == core && y.req == some r.id && !y.gone)))).length

/-- Condition 8: outbound room for the remote pushes and posts of the bundle together (R136, R160). -/
def needOut (p : State) (r : SlotRes) : SlotRes :=
  let n := if p.iss.outs = 0 then 1 else p.iss.outs
  if !passed p 8 && decide (8 < outUsed p p.focus.core + n) then .hold 8 false .plain else r

/-- Condition 8 for a store or atomic towards another package (R406). -/
def needFar (p : State) (pa : Nat) (r : SlotRes) : SlotRes :=
  if paPkg pa = p.pkg.toNat then r else needOut p r

/-- A store of a row or a word (R140, R144). -/
def storeTo (h : Slot) (va : Word) (len : Nat) (data : Row) (mask : BitVec 64) (ord : BitVec 2) (scp : Nat)
    (p s : State) (part : Bool := false) : SlotRes :=
  withAccess h askStore va p fun i e pa => withCheck h va p s e pa true fun s1 => needBank p pa <| needFar p pa <|
      let s2 := noteWrite (countHot s1 p.focus.core i) p.focus.core pa
      .ok (issueReq s2 h .store pa len data mask 0 ord scp none part).2

/-- The cluster of a VL slot. -/
def vlC (h : Slot) : Nat := h.pos.toNat - 12

/-- N0 of a point (R135). -/
def n0 (pt : BitVec 3) : Nat := match pt.toNat with
  | 4 => 4
  | 5 => 4
  | 6 => 5
  | 7 => 6
  | _ => 2

/-- The point in force: that of the main stream's block (R68). -/
def ptNow (p : State) (c : Nat) : BitVec 3 := (archOf p c).main.blk.pt

/-- A vector register of a VL slot's cluster. -/
def vlV (p : State) (h : Slot) (n : BitVec 5) : Row :=
  tget 0 ((archOf p p.focus.core).clus (vlC h)).v n.toNat

/-- Bits written under a VL slot's mask. -/
def vlMask (p : State) (h : Slot) (m : BitVec 3) : Row := laneBits (vMask p (vlC h) m)

/-- `vld`: lands the row at c + N0(PT) (R135, R139). -/
def issueVld (h : Slot) (o : VlF) (p s : State) : SlotRes :=
  timedLoad h 1 (eaRow (rs p o.sa) o.off) 64 (.v (vlC h) o.vd.toNat) (vlMask p h o.m) .row
    (n0 (ptNow p p.focus.core)) o.ord 5 p s

/-- The step of `vld`. -/
def execVld (h : Slot) (o : VlF) (s : State) : Host.Outcome State Fault Refusal :=
  slotStep h (issueVld h o) s

/-- `vst`: stores the row (R140). -/
def issueVst (h : Slot) (o : VlF) (p s : State) : SlotRes :=
  storeTo h (eaRow (rs p o.sa) o.off) 64 (vlV p h o.vd) (BitVec.ofNat 64 (2 ^ 64 - 1)) o.ord 5 p s

/-- The step of `vst`. -/
def execVst (h : Slot) (o : VlF) (s : State) : Host.Outcome State Fault Refusal :=
  slotStep h (issueVst h o) s

/-- `vstm`: stores the lanes whose mask bit is one (R140). -/
def issueVstm (h : Slot) (o : VlF) (p s : State) : SlotRes :=
  storeTo h (eaRow (rs p o.sa) o.off) 64 (vlV p h o.vd) (laneBytes (vMask p (vlC h) o.m)) o.ord 5 p s true

/-- The step of `vstm`. -/
def execVstm (h : Slot) (o : VlF) (s : State) : Host.Outcome State Fault Refusal :=
  slotStep h (issueVstm h o) s

/-- `vldt`: lands the row at c + arr (R139). -/
def issueVldt (h : Slot) (o : VlF) (p s : State) : SlotRes :=
  timedLoad h 4 (eaRow (rs p o.sa) o.off) 64 (.v (vlC h) o.vd.toNat) (vlMask p h o.m) .row
    o.arr.toNat o.ord 5 p s

/-- The step of `vldt`. -/
def execVldt (h : Slot) (o : VlF) (s : State) : Host.Outcome State Fault Refusal :=
  slotStep h (issueVldt h o) s

/-- `vbld`: lands the word in every lane pair at c + arr (R139). -/
def issueVbld (h : Slot) (o : VlF) (p s : State) : SlotRes :=
  timedLoad h 11 (eaVWord (rs p o.sa) o.off) 8 (.v (vlC h) o.vd.toNat) (vlMask p h o.m) .bcast
    o.arr.toNat o.ord 5 p s

/-- The step of `vbld`. -/
def execVbld (h : Slot) (o : VlF) (s : State) : Host.Outcome State Fault Refusal :=
  slotStep h (issueVbld h o) s

/-! ### Handles (R20, R153 to R157) -/

/-- The fields of a handle image (R20). -/
structure Handle where
  base : Nat
  lsz  : Nat
  prd  : Nat
  cns  : Nat
  peer : Nat
  vld  : Bool
  pro  : Bool
deriving DecidableEq, Repr

/-- Read a handle image. -/
def handleOf (w : Word) : Handle :=
  { base := wf w 48 16, lsz := wf w 44 4, prd := wf w 31 13, cns := wf w 18 13, peer := wf w 8 10
    vld := w.getLsbD 7, pro := w.getLsbD 6 }
/-- Buffer size in rows. -/
def Handle.size (x : Handle) : Nat := 2 ^ x.lsz
/-- Filled count (R20). -/
def Handle.filled (x : Handle) : Nat := (x.prd + 2 * x.size - x.cns % (2 * x.size)) % (2 * x.size)
/-- Free count (R20). -/
def Handle.free (x : Handle) : Nat := x.size - x.filled

/-- A handle register of the issuing core. -/
def handleReg (p : State) (n : Nat) : Handle := handleOf (tget 0 (archOf p p.focus.core).h n)

/-- Is the handle misused by a consumer or producer access of this core at index `off` (R154)? (DEDUCED, log 27) -/
def handleBad (p : State) (x : Handle) (off : Nat) (producer : Bool) : Bool :=
  !x.vld || decide (x.size ≤ off) || (x.peer != p.focus.core && (x.pro != producer))

/-- The core whose slice holds the buffer seen through a handle: the consumer's (R153). -/
def bufferCore (p : State) (x : Handle) (producer : Bool) : Nat :=
  if producer then x.peer else p.focus.core

/-- Does an access reach a row of a bank that this task has released (R133)? The argument rows stay (R273). -/
def shutRow (p : State) (pa : Nat) : Bool :=
  inSlice p p.focus.core pa && (archOf p p.focus.core).rlsd.getLsbD (paBank pa) && !isArgRow p.focus.core pa

/-- The place of an address in an entry's region at `base`: a per-core entry stands for the core's own slice (R287). -/
def TEntry.offAt (core : Nat) (e : TEntry) (base pa : Nat) : Option Nat :=
  if e.per then
    (if pa / 2 ^ 32 = base / 2 ^ 32 ∧ paCore pa = core then offIn base (2 ^ e.lsz) (base / 2 ^ 22 * 2 ^ 22 + pa % 2 ^ 22) else none)
  else offIn base (2 ^ e.lsz) pa

/-- The virtual address at which an entry maps a row, on whichever of its sides. -/
def TEntry.vaOf (core : Nat) (e : TEntry) (pa : Nat) : Option Nat :=
  if !e.w0.getLsbD 63 then none
  else ((e.offAt core (wf e.w1 0 56) pa).or (if e.shp then e.offAt core (wf e.w2 0 56) pa else none)).map
    (fun o => wf e.w0 16 32 * 65536 + o)

/-- The virtual address at which a table maps a row of a handle's buffer. -/
def rowVa (t : Tbl TEntry) (core pa : Nat) : Option Nat := t.findSome? (fun x => x.2.vaOf core pa)

/-- An access through a handle: where an entry of the core maps its row, it meets that entry's permissions and reaches the
side that it reaches there, and the entry counts it (R292, R299, R300). (DEDUCED, logs 27 and 97) -/
def throughHandle (h : Slot) (a : Ask) (pa : Nat) (p : State) (g : Option Nat → Nat → SlotRes) : SlotRes :=
  match rowVa (archOf p p.focus.core).tab p.focus.core pa with
  | some va => withAccess h a (BitVec.ofNat 64 va) p fun i _ q => g (some i) q
  | none => if shutRow p pa then permission p h 0 else g none pa

/-- Count an access in the entry it went through, if any (R299). -/
def countVia (s : State) (core : Nat) : Option Nat → State
  | none => s
  | some i => countHot s core i

/-- `vldh`: reads the row at index `off` of the buffer once it is filled; lands at N0 (R154). (DEDUCED, log 27) -/
def issueVldh (h : Slot) (o : VlF) (p s : State) : SlotRes :=
  let x := handleReg p o.sa.toNat
  let off := o.off.toNat
  needEntry p (vlC h) <|
  if !x.vld then handleMisuse p h o.sa.toNat
  else throughHandle h askLoad (sliceRow p.pkg p.focus.core (x.base + (x.cns + off) % x.size)) p fun i pa =>
    if handleBad p x off false then handleMisuse p h o.sa.toNat
    else if !passed p 6 && decide (x.filled < off + 1) then .hold 6 false .plain
    else needBank p pa <|
    let q := issueReq (countVia s p.focus.core i) h .load pa 64 0 0 0 0 5 (some o.sa.toNat)
    .ok (emitLanding p q.2 h 5 (.v (vlC h) o.vd.toNat) (vlMask p h o.m) .row
      (n0 (ptNow p p.focus.core)) q.1)

/-- The step of `vldh`. -/
def execVldh (h : Slot) (o : VlF) (s : State) : Host.Outcome State Fault Refusal :=
  slotStep h (issueVldh h o) s

/-- `vsth`: writes the row at index `off` of the buffer once it is free (R154). (DEDUCED, log 27) -/
def issueVsth (h : Slot) (o : VlF) (p s : State) : SlotRes :=
  let x := handleReg p o.sa.toNat
  let off := o.off.toNat
  if !x.vld then handleMisuse p h o.sa.toNat
  else throughHandle h askStore (sliceRow p.pkg (bufferCore p x true) (x.base + (x.prd + off) % x.size)) p fun i pa =>
    if handleBad p x off true then handleMisuse p h o.sa.toNat
    else if !passed p 6 && decide (x.free < off + 1) then .hold 6 false .plain
    else needBank p pa <|
    .ok (issueReq (noteWrite (countVia s p.focus.core i) p.focus.core pa) h .store pa 64 (vlV p h o.vd) (BitVec.ofNat 64 (2 ^ 64 - 1)) 0 0 5
      (some o.sa.toNat)).2

/-- The step of `vsth`. -/
def execVsth (h : Slot) (o : VlF) (s : State) : Host.Outcome State Fault Refusal :=
  slotStep h (issueVsth h o) s

/-- `vldx`: v[vd] := cluster understory row `off`, latency 1 (R141). -/
def issueVldx (h : Slot) (o : VlF) (p s : State) : SlotRes :=
  let r := tget 0 ((archOf p p.focus.core).clus (vlC h)).und o.off.toNat
  .ok (emit s (mkFlight p h 7 (.v (vlC h) o.vd.toNat) r maskAll 1 0 .none))

/-- The step of `vldx`. -/
def execVldx (h : Slot) (o : VlF) (s : State) : Host.Outcome State Fault Refusal :=
  slotStep h (issueVldx h o) s

/-- `vstx`: cluster understory row `off` := v[vd] at commit (R141). -/
def issueVstx (h : Slot) (o : VlF) (p s : State) : SlotRes :=
  let put := fun (x : Cluster) => { x with und := tput x.und o.off.toNat (vlV p h o.vd) }
  .ok (modArch s p.focus.core (fun a => { a with cl := tmod Cluster.idle a.cl (vlC h) put }))

/-- The step of `vstx`. -/
def execVstx (h : Slot) (o : VlF) (s : State) : Host.Outcome State Fault Refusal :=
  slotStep h (issueVstx h o) s

/-- `vxfer`: v[sa] of this cluster into v[vd] of cluster `xc` under the mask (R142). -/
def issueVxfer (h : Slot) (o : VlF) (p s : State) : SlotRes :=
  if isRoot p.focus.core && decide (4 ≤ o.xc.toNat) then illegalInstr p h
  else .ok (emit s (mkFlight p h 9 (.v o.xc.toNat o.vd.toNat) (vlV p h o.sa) (vlMask p h o.m)
    (lat p p.focus 3 2) 0 .none))

/-- The step of `vxfer`. -/
def execVxfer (h : Slot) (o : VlF) (s : State) : Host.Outcome State Fault Refusal :=
  slotStep h (issueVxfer h o) s

/-! ### Queues (R159, R160) -/

/-- Is a queue unable to take an arrival: full without spilling, or disabled (R160, R161)? -/
def queueShut (x : Queue) (cap : Nat) : Bool :=
  !x.cfg.getLsbD 0 || (decide (cap ≤ x.ents.length) && !x.cfg.getLsbD 1)

/-- Depth of a queue (R159). -/
def queueCap (q : Nat) : Nat := if q = 7 then 8 else 16

/-- Entries that count against a vertical target's credit: held and in flight (R160). -/
def vertUsed (s : State) (dst : Nat) : Nat :=
  ((archOf s dst).queue 7).ents.length +
    (s.net.filter (fun m => m.dst == dst && match m.msg with
      | .push 7 _ => true
      | _ => false)).length

/-- The target of a vertical push (R160): the root core below, or crown core `k` of the copse. -/
def vertTarget (core k : Nat) : Nat :=
  if isRoot core then core / 128 * 128 + 4 * (core % 128 - 64) + k
  else core / 128 * 128 + 64 + core % 128 / 4

/-- All requests of a stream that a release waits for (R160, R203, R310). (DEDUCED, log 98) -/
def relWaits (s : State) (k : Sid) (scp : Nat) : List Nat :=
  ((archOf s k.core).reqs.filter (fun r => r.side == k.side && !r.eng && scopeHolds s k.core scp r.pa)).map (·.id)

/-- Send a message from the issuing core; in protected mode it waits in the outbound stage (R29). -/
def sendMsg (s : State) (dst : Nat) (m : Msg) (wait : List Nat) (out : Bool) : State :=
  let c := coreOf s s.focus.core
  { s with net := s.net ++ [{ src := s.focus.core, side := s.focus.side, dst := dst, msg := m, wait := wait, out := out
                              stg := if c.split then none else some c.seq
                              ctx := (nodeIds s s.focus.core).1, node := (nodeIds s s.focus.core).2 }] }

/-- An entry for a queue from the issuing core (R159). -/
def newEnt (s : State) (data : Row) (rel : Bool) : QEnt :=
  { id := s.ids, data := data, src := s.focus.core, ctx := (nodeIds s s.focus.core).1
    node := (nodeIds s s.focus.core).2, rel := rel }

/-- Take the record of a queue arrival into an empty queue when `EV` is set (R161, R201). -/
def pushEvent (a : Arch) (r : EvRec) : Arch :=
  if a.evq.length < 32 then
    let hdr := if a.lost then r.hdr ||| 0x4000000000000000 else r.hdr
    { a with evq := a.evq ++ [{ r with hdr := hdr }], lost := false }
  else { a with evdrop := if a.evdrop < 65535 then a.evdrop + 1 else a.evdrop, lost := true }

/-- The header of an event record (R201): VLD, kind, source and tag. (DEDUCED, log 44) -/
def evHdr (kind src tag : Nat) : Word :=
  BitVec.ofNat 64 (2 ^ 63 + kind * 2 ^ 48 + src % 65536 * 2 ^ 32 + tag % 2 ^ 32)

/-- A producer of a queue is noted for the order log (R355). -/
def Queue.noteProd (x : Queue) (src : Nat) : Queue := { x with prods := if x.prods.contains src then x.prods else x.prods ++ [src] }

/-- Write an entry into the storage of a queue of a core, posting the arrival record of `EV` (R159,
R161). -/
def enqueue (a : Arch) (q : Nat) (e : QEnt) : Arch :=
  let x := a.queue q
  let a1 := { a with q := tput a.q q { x.noteProd e.src with ents := x.ents ++ [e] } }
  if (a.qEnts q).isEmpty && x.cfg.getLsbD 2 && !((a1.qEnts q).isEmpty) then pushEvent a1 { hdr := evHdr 2 q 0, pay := 0 } else a1

/-- Spill an entry to the ring of a queue: its row in memory and the ring's tail (R162); of a push from another core, it is a
write of the pushing task's node (R360). -/
def spill (s : State) (c q : Nat) (e : QEnt) (r : Ring) : State :=
  let pa := r.base + 64 * ((r.head + r.ents.length) % r.size)
  let s1 := writeRow s pa e.data
  modArch (if e.src = c then s1 else noteNodeWrite s1 e.ctx e.node pa) c (fun a =>
    { a with q := tmod Queue.idle a.q q (fun x => { x.noteProd e.src with ring := some { r with ents := r.ents ++ [e] } }) })

/-- Has a queue more than one producer since launch start, this one counted (R355)? -/
def Queue.manyProds (x : Queue) (src : Nat) : Bool := x.prods.any (· != src)

/-- The log's choice of an arrival at queue `q` of a core for a node, when it has had more than one producer (R355). -/
def queueChoice (s : State) (n : Nat × Nat) (x : Queue) (c q src : Nat) : State :=
  if x.manyProds src then choose s n.1 n.2 4 (queueUnit s.pkg c q) (agentBits s.pkg src false) src false else s

/-- Does the log hold an arrival (R358)? -/
def queueHeld (s : State) (n : Nat × Nat) (x : Queue) (c q src : Nat) : Bool :=
  x.manyProds src && !mayArrive s n.1 n.2 4 (queueUnit s.pkg c q) (agentBits s.pkg src false)

/-- The arrival is held. -/
def holdQueue (s : State) (n : Nat × Nat) (c q src : Nat) : State :=
  holdArrival s n.1 n.2 4 (queueUnit s.pkg c q) (agentBits s.pkg src false)

/-- The node whose order log an arrival at a queue belongs to: that of a vertical entry, else that of the core's task (R355).
(DEDUCED, log 25) -/
def arrivalNode (s : State) (c q : Nat) (e : QEnt) : Nat × Nat := if q = 7 then (e.ctx, e.node) else nodeIds s c

/-- An arrival at a queue that accepts it (R159, R162): into storage, or to the ring when storage is full
or the ring holds entries. `none` is the discard of an arrival beyond the quota. -/
def arrive (s : State) (c q : Nat) (e : QEnt) : Option State :=
  let x := (archOf s c).queue q
  let s1 := queueChoice s (arrivalNode s c q e) x c q e.src
  match x.ring with
  | none => some (modArch s1 c (fun a => enqueue a q e))
  | some r =>
    if x.cfg.getLsbD 1 && (!r.ents.isEmpty || decide (queueCap q ≤ x.ents.length)) then
      if r.quota ≤ r.ents.length then none else some (spill s1 c q e r)
    else some (modArch s1 c (fun a => enqueue a q e))

/-- The queue-quota fault of a discarded arrival (R162): `QOV` sets, the record is logged, and the main
stream traps at the bundle at which it stands. -/
def quotaFault (s : State) (c q src : Nat) : State :=
  let s1 := modArch s c (fun a => { a with q := tmod Queue.idle a.q q (fun x => { x with qov := true }) })
  let s2 := logTask s1 { core := c, side := false } false 8 10 3 0 (q + src % 1024 * 8) 0
  modStrm s2 { core := c, side := false } (fun x =>
    { x with pend := x.pend ++ [(BitVec.ofNat 64 (10 + 31 * 2 ^ 8 + q * 2 ^ 16), x.pc, BitVec.ofNat 64 src)] })

/-- The core's own pushes to one of its queues that have committed and are not yet visible: they have their room.
(DEDUCED, log 98) -/
def ownPushes (s : State) (c q : Nat) : Nat :=
  (s.net.filter (fun m => m.src == c && m.dst == c && match m.msg with
    | .push n _ => n == q
    | _ => false)).length

/-- Is a queue unable to take one more entry beside the core's own that are on their way (R160)? (DEDUCED, log 98) -/
def queueFull (s : State) (c q : Nat) : Bool := queueShut ((archOf s c).queue q) (queueCap q - ownPushes s c q)

/-- A local push (R160): into the queue at commit. One with release becomes visible behind the stream's earlier accesses, those of
lower slots of its bundle among them, and later pushes of the core behind it. (DEDUCED, log 98) -/
def localPush (h : Slot) (q : Nat) (data : Row) (rel : Bool) (p s : State) : SlotRes :=
  let wait := if rel then relWaits s s.focus 5 else []
  if queueFull s p.focus.core q then handleMisuse p h q
  else
    let e := newEnt s data rel
    let s1 := { s with ids := s.ids + 1 }
    if !wait.isEmpty || ownPushes s p.focus.core q != 0 || queueHeld s (nodeIds p p.focus.core) ((archOf s p.focus.core).queue q) p.focus.core q p.focus.core then
      .ok (sendMsg s1 p.focus.core (.push q e) wait false)
    else match arrive s1 p.focus.core q e with
    | some t => .ok t
    | none => .ok (quotaFault s1 p.focus.core q p.focus.core)

/-- Does s[sa][9:0] name a core that exists, with the higher bits zero (R160, R203)? -/
def targetOk (w : Word) : Bool := decide (w.toNat < 1024) && coreOkN w.toNat

/-- `vqpush`: sends v[vd] to a queue: local, remote or vertical; a release waits for the stream's earlier accesses, those of lower
slots of its own bundle among them (R57, R160). (DEDUCED, log 98) -/
def issueVqpush (h : Slot) (o : VlF) (p s : State) : SlotRes :=
  let data := vlV p h o.vd
  let rel := decide (o.ord = 2)
  match o.xc.toNat with
  | 0 => localPush h o.off.toNat data rel p s
  | 1 =>
    let w := rs p o.sa
    if !targetOk w then handleMisuse p h o.off.toNat
    else if w.toNat = p.focus.core then localPush h o.off.toNat data rel p s
    else needOut p <|
      .ok (sendMsg { s with ids := s.ids + 1 } w.toNat (.push o.off.toNat (newEnt s data rel))
        (if rel then relWaits s s.focus 5 else []) true)
  | _ =>
    let t := vertTarget p.focus.core o.off.toNat
    let n := let k := tget 0 p.iss.verts t
      if k = 0 then 1 else k
    if !passed p 8 && decide (8 < vertUsed p t + n) then .hold 8 false .plain
    else .ok (sendMsg { s with ids := s.ids + 1 } t (.push 7 (newEnt s data rel))
      (if rel then relWaits s s.focus 5 else []) false)

/-- The step of `vqpush`. -/
def execVqpush (h : Slot) (o : VlF) (s : State) : Host.Outcome State Fault Refusal :=
  slotStep h (issueVqpush h o) s

/-! ### Scalar words, understory and staging (R143 to R145) -/

/-- `ld`: lands the word in s[sd] at c + arr (R144). -/
def issueLd (h : Slot) (o : SmF) (p s : State) : SlotRes :=
  timedLoad h 1 (eaWord (rs p o.sa) o.off) 8 (if o.sd = 0 then .none else .s o.sd.toNat) mask64 .word
    o.arr.toNat o.ord o.scp.toNat p s

/-- The step of `ld`. -/
def execLd (h : Slot) (o : SmF) (s : State) : Host.Outcome State Fault Refusal :=
  slotStep h (issueLd h o) s

/-- `st`: writes s[sb] to the word at commit (R144). -/
def issueSt (h : Slot) (o : SmF) (p s : State) : SlotRes :=
  storeTo h (eaWord (rs p o.sa) o.off) 8 (BitVec.ofNat 512 (rs p o.sb).toNat) 255 o.ord o.scp.toNat p s

/-- The step of `st`. -/
def execSt (h : Slot) (o : SmF) (s : State) : Host.Outcome State Fault Refusal :=
  slotStep h (issueSt h o) s

/-- `ldx`: s[sd] := understory word `off`, latency 1 (R144). -/
def issueLdx (h : Slot) (o : SmF) (p s : State) : SlotRes :=
  .ok (emitS p s h 3 o.sd (tget 0 (archOf p p.focus.core).und o.off.toNat) 1 0)

/-- The step of `ldx`. -/
def execLdx (h : Slot) (o : SmF) (s : State) : Host.Outcome State Fault Refusal :=
  slotStep h (issueLdx h o) s

/-- `stx`: understory word `off` := s[sb] at commit (R144). -/
def issueStx (_h : Slot) (o : SmF) (p s : State) : SlotRes :=
  .ok (modArch s p.focus.core (fun a => { a with und := tput a.und o.off.toNat (rs p o.sb) }))

/-- The step of `stx`. -/
def execStx (h : Slot) (o : SmF) (s : State) : Host.Outcome State Fault Refusal :=
  slotStep h (issueStx h o) s

/-- Is a staging access absent on this core or stream (R31, R145)? -/
def stgIllegal (p : State) (o : SmF) : Bool :=
  p.focus.side || (isRoot p.focus.core && decide (wf o.off 7 2 ≠ 1))

/-- `stg`: shadow word := s[sb] at commit (R145). -/
def issueStg (h : Slot) (o : SmF) (p s : State) : SlotRes :=
  if stgIllegal p o then illegalInstr p h
  else
    let put := fun (t : Tbl Word) => tput t (wf o.off 0 7) (rs p o.sb)
    .ok (modArch s p.focus.core (fun a => { a with shd := tmod [] a.shd (wf o.off 7 2) put }))

/-- The step of `stg`. -/
def execStg (h : Slot) (o : SmF) (s : State) : Host.Outcome State Fault Refusal :=
  slotStep h (issueStg h o) s

/-- `ldg`: s[sd] := shadow word, latency 1 (R145). -/
def issueLdg (h : Slot) (o : SmF) (p s : State) : SlotRes :=
  if stgIllegal p o then illegalInstr p h
  else .ok (emitS p s h 6 o.sd
    (tget 0 (tget [] (archOf p p.focus.core).shd (wf o.off 7 2)) (wf o.off 0 7)) 1 0)

/-- The step of `ldg`. -/
def execLdg (h : Slot) (o : SmF) (s : State) : Host.Outcome State Fault Refusal :=
  slotStep h (issueLdg h o) s

/-! ### Atomics (R146 to R149) -/

/-- An atomic: untimed with `arr` = 0, else landing the old value in s[sd] (R149). -/
def atomic (h : Slot) (opc : BitVec 8) (o : SmF) (p s : State) : SlotRes :=
  let va := eaWord (rs p o.sa) o.off
  let timed := decide (o.arr ≠ 0)
  let go := withAccess h (askAtomic timed) va p fun i _ pa => needBank p pa <| needFar p pa <|
    let s1 := countHot s p.focus.core i
    let q := issueReq s1 h (.atom opc) pa 8 (BitVec.ofNat 512 (rs p o.sb).toNat) 255 (rs p o.sd) o.ord
      o.scp.toNat none
    if timed then
      .ok (emitLanding p q.2 h opc (if o.sd = 0 then .none else .s o.sd.toNat) mask64
        (if opc = 17 then .half (decide (fld pa 2 1 = 1)) else .word) o.arr.toNat q.1)
    else .ok q.2
  if timed then needEntry p 8 go else go

/-- `aadd`: Wrap64(x + b) at the word's unit (R147). -/
def issueAadd (h : Slot) (o : SmF) (p s : State) : SlotRes :=
  atomic h 7 o p s

/-- The step of `aadd`. -/
def execAadd (h : Slot) (o : SmF) (s : State) : Host.Outcome State Fault Refusal :=
  slotStep h (issueAadd h o) s

/-- `aand`: x and b at the word's unit (R147). -/
def issueAand (h : Slot) (o : SmF) (p s : State) : SlotRes :=
  atomic h 8 o p s

/-- The step of `aand`. -/
def execAand (h : Slot) (o : SmF) (s : State) : Host.Outcome State Fault Refusal :=
  slotStep h (issueAand h o) s

/-- `aor`: x or b at the word's unit (R147). -/
def issueAor (h : Slot) (o : SmF) (p s : State) : SlotRes :=
  atomic h 9 o p s

/-- The step of `aor`. -/
def execAor (h : Slot) (o : SmF) (s : State) : Host.Outcome State Fault Refusal :=
  slotStep h (issueAor h o) s

/-- `axor`: x xor b at the word's unit (R147). -/
def issueAxor (h : Slot) (o : SmF) (p s : State) : SlotRes :=
  atomic h 10 o p s

/-- The step of `axor`. -/
def execAxor (h : Slot) (o : SmF) (s : State) : Host.Outcome State Fault Refusal :=
  slotStep h (issueAxor h o) s

/-- `amin`: smaller as S64 at the word's unit (R147). -/
def issueAmin (h : Slot) (o : SmF) (p s : State) : SlotRes :=
  atomic h 11 o p s

/-- The step of `amin`. -/
def execAmin (h : Slot) (o : SmF) (s : State) : Host.Outcome State Fault Refusal :=
  slotStep h (issueAmin h o) s

/-- `amax`: larger as S64 at the word's unit (R147). -/
def issueAmax (h : Slot) (o : SmF) (p s : State) : SlotRes :=
  atomic h 12 o p s

/-- The step of `amax`. -/
def execAmax (h : Slot) (o : SmF) (s : State) : Host.Outcome State Fault Refusal :=
  slotStep h (issueAmax h o) s

/-- `aminz`: smaller as Z64 at the word's unit (R147). -/
def issueAminz (h : Slot) (o : SmF) (p s : State) : SlotRes :=
  atomic h 13 o p s

/-- The step of `aminz`. -/
def execAminz (h : Slot) (o : SmF) (s : State) : Host.Outcome State Fault Refusal :=
  slotStep h (issueAminz h o) s

/-- `amaxz`: larger as Z64 at the word's unit (R147). -/
def issueAmaxz (h : Slot) (o : SmF) (p s : State) : SlotRes :=
  atomic h 14 o p s

/-- The step of `amaxz`. -/
def execAmaxz (h : Slot) (o : SmF) (s : State) : Host.Outcome State Fault Refusal :=
  slotStep h (issueAmaxz h o) s

/-- `axch`: b at the word's unit (R147). -/
def issueAxch (h : Slot) (o : SmF) (p s : State) : SlotRes :=
  atomic h 15 o p s

/-- The step of `axch`. -/
def execAxch (h : Slot) (o : SmF) (s : State) : Host.Outcome State Fault Refusal :=
  slotStep h (issueAxch h o) s

/-- `acas`: b when x equals s[sd], else x at the word's unit (R147). -/
def issueAcas (h : Slot) (o : SmF) (p s : State) : SlotRes :=
  atomic h 16 o p s

/-- The step of `acas`. -/
def execAcas (h : Slot) (o : SmF) (s : State) : Host.Outcome State Fault Refusal :=
  slotStep h (issueAcas h o) s

/-- `afadd`: FP32 sum in half of the word, rounded RNE at the word's unit (R147, R148). -/
def issueAfadd (h : Slot) (o : SmF) (p s : State) : SlotRes :=
  atomic h 17 o p s

/-- The step of `afadd`. -/
def execAfadd (h : Slot) (o : SmF) (s : State) : Host.Outcome State Fault Refusal :=
  slotStep h (issueAfadd h o) s

/-! ### Majority operations (R150 to R152) -/

/-- The number of a majority set in a majority page's physical address (R422). -/
def mjSet (pa : Nat) : Nat := fld pa 40 5
/-- Members of a set (R422). -/
def MjSet.n (m : MjSet) : Nat := wf m.reg 32 3
/-- State of member `i`: 0 up, 1 down, 2 rejoining. -/
def MjSet.mem (m : MjSet) (i : Nat) : Nat := wf m.reg (40 + 2 * i) 2
/-- Stack of member `i`. -/
def MjSet.stack (m : MjSet) (i : Nat) : Nat := wf m.reg (4 * i) 4
/-- The majority needed (R150). -/
def MjSet.need (m : MjSet) : Nat := m.n / 2 + 1
/-- The members that are up (R424). -/
def MjSet.up (m : MjSet) : List Nat := (List.range m.n).filter (fun i => m.mem i == 0)

/-- Enter releaser ids into the acquire set; more than eight overflow it (R317). -/
def addIds (a : Arch) (ids : List Nat) : Arch :=
  match a.aset with
  | none => a
  | some l =>
    let l' := ids.foldl (fun l i => if l.contains i then l else l ++ [i]) l
    { a with aset := if 8 < l'.length then none else some l' }

/-- What a fence leaves: an acquire fence moves the pending releaser ids into the acquire set (R317), and a release fence makes
the stream's later stores releases at its scope until the next fence (R312). (DEDUCED, log 66) -/
def passFence (s : State) (k : Sid) (acq : Bool) (rel : Option Nat) : State :=
  let s1 := if acq then modArch s k.core (fun a => { addIds a a.pids with pids := [] }) else s
  modStrm s1 k (fun x => { x with relF := rel })

/-- A majority operation at condition 9 (R151, R152): it traps when too few members are up, waits for the stream's earlier
accesses and for its protocol (MAJORITY_COMPLETION), and then writes its counter; `mjld` also stores the cell to the own slice.
It is a full fence at HOST scope (R326). (DEDUCED, log 28) -/
def majority (h : Slot) (opc : BitVec 8) (load : Bool) (o : SmF) (p s : State) : SlotRes :=
  let va := rs p o.sa
  withBoth h { askLoad with wr := true, timed := false, coreWr := true, major := true } va
    (if load then { askStore with own := true } else { askLoad with timed := false, own := true }) (rs p o.sb) p fun i pa j own =>
  needBank p own <|
    let m := tget MjSet.free p.hub.mjs (mjSet pa)
    match (strmOf p p.focus).mjok with
    | none =>
      if m.up.length < m.need then
        .trap (mkTrap p h 16 4 (BitVec.ofNat 64 (wf va 0 48 / 64 * 64)) 0)
      else .hold 9 false .majority
    | some r =>
      let s0 := countHot s p.focus.core i
      let s1 := if i = j then s0 else countHot s0 p.focus.core j
      let s2 := passFence (modStrm s1 p.focus (fun x => { x with mjok := none })) p.focus true (some 9)
      let s3 := emitS p s2 h opc o.sd (BitVec.ofNat 64 (r.toNat / 2 ^ 384 % 2 ^ 48)) 1 0
      .ok (if load then
          (issueReq (noteWrite s3 p.focus.core own) h .store own 64 r (BitVec.ofNat 64 (2 ^ 64 - 1)) 0 0 0 none).2
        else s3)

/-- `mjld`: loads a majority cell to the own slice (R151). -/
def issueMjld (h : Slot) (o : SmF) (p s : State) : SlotRes :=
  majority h 18 true o p s

/-- The step of `mjld`. -/
def execMjld (h : Slot) (o : SmF) (s : State) : Host.Outcome State Fault Refusal :=
  slotStep h (issueMjld h o) s

/-- `mjst`: stores a majority cell from the own slice (R151). -/
def issueMjst (h : Slot) (o : SmF) (p s : State) : SlotRes :=
  majority h 19 false o p s

/-- The step of `mjst`. -/
def execMjst (h : Slot) (o : SmF) (s : State) : Host.Outcome State Fault Refusal :=
  slotStep h (issueMjst h o) s

/-- The banks of the own slice that the running launch owns (R163, R208 `OWN`). -/
def ownedMask (s : State) (core : Nat) : BitVec 32 :=
  match (archOf s core).task with
  | none => 0
  | some t => BitVec.ofNat 32 (joinN 1 ((List.range 32).map (fun b =>
      (bankOwner s (32 * core + b) == some (t.ctx, t.node)).toNat)))

/-- `brel`: releases the owned banks of the mask once earlier accesses are performed (R163). -/
def issueBrel (_h : Slot) (o : SmF) (p s : State) : SlotRes :=
  let m := (rs p o.sa).setWidth 32 &&& (if isRoot p.focus.core then 0xFFFF else 0xFFFFFFFF)
  .ok (modArch s p.focus.core (fun a => { a with rlsd := a.rlsd ||| (m &&& ownedMask p p.focus.core) }))

/-- The step of `brel`. -/
def execBrel (h : Slot) (o : SmF) (s : State) : Host.Outcome State Fault Refusal :=
  slotStep h (issueBrel h o) s

end Sys2Proof.Machine
end

