-- ==== Sys2Proof/Machine/Sync.lean ====
section
/-!
DEFINITION. Synchronisation, events and system registers (R197 to R208, R213) and the handle and queue
instructions (R155 to R162), one issue function and one step per instruction. `launch` stands with the
dispatcher.
-/
namespace Sys2Proof.Machine

/-! ### Fences (R199) -/

/-- Does a landing await a request: is it a load or an atomic with a result? -/
def awaited (x : Stream) (id : Nat) : Bool :=
  (x.pipe.ops ++ x.frame.held.ops).any (fun y => y.landing && y.req == id)

/-- Kind 0: earlier loads and atomics with a result have read their value (R199). -/
def acqDone (p : State) (k : Sid) : Bool :=
  (archOf p k.core).reqs.all (fun r => r.side != k.side ||
    (r.op != .load && !awaited (strmOf p k) r.id))

/-- Kind 1: earlier stores, atomics, pushes, posts and pointer updates are performed at scope S (R199). -/
def relDone (p : State) (k : Sid) (scp : Nat) : Bool :=
  (archOf p k.core).reqs.all (fun r => r.side != k.side || r.op == .load || !scopeHolds p k.core scp r.pa) &&
    p.net.all (fun m => m.src != k.core || m.side != k.side ||
      !scopeHolds p k.core scp (sliceRow p.pkg m.dst 0))

/-- The hold of condition 9 while `ok` fails (R198); `acq` says whether a fence that passes makes acquires of the loads before it,
`rel` at which scope it makes releases of the stores after it (R312, R317). (DESIGN CHOICE, log 61) -/
def fenceOn (ok acq : Bool) (rel : Option Nat) (p s : State) : SlotRes :=
  if !ok then .hold 9 false .plain
  else .ok (passFence s p.focus acq rel)

/-- `fence acquire`: kind 0 (R199). -/
def issueFenceAcquire (_h : Slot) (_o : SmF) (p s : State) : SlotRes :=
  fenceOn (acqDone p p.focus) true none p s

/-- The step of `fence acquire`. -/
def execFenceAcquire (h : Slot) (o : SmF) (s : State) : Host.Outcome State Fault Refusal :=
  slotStep h (issueFenceAcquire h o) s

/-- `fence release`: kind 1 (R199). -/
def issueFenceRelease (_h : Slot) (o : SmF) (p s : State) : SlotRes :=
  fenceOn (relDone p p.focus o.scp.toNat) false (some o.scp.toNat) p s

/-- The step of `fence release`. -/
def execFenceRelease (h : Slot) (o : SmF) (s : State) : Host.Outcome State Fault Refusal :=
  slotStep h (issueFenceRelease h o) s

/-- `fence full`: kind 2 (R199). -/
def issueFenceFull (_h : Slot) (o : SmF) (p s : State) : SlotRes :=
  fenceOn (acqDone p p.focus && relDone p p.focus o.scp.toNat) true (some o.scp.toNat) p s

/-- The step of `fence full`. -/
def execFenceFull (h : Slot) (o : SmF) (s : State) : Host.Outcome State Fault Refusal :=
  slotStep h (issueFenceFull h o) s

/-- Has a pipe no command of the array or of the transpose engine? -/
def Pipe.quiet (q : Pipe) : Bool := q.mx.isEmpty && q.tx.isEmpty && q.rep.isNone && q.nest.isNone

/-- `fence engine complete`: kind 3: drains for `MX` and `TX`, then freezes for `CP` and `smv` and for the rows that the
engines have written (R199). Commands that a trap holds have not completed. -/
def issueFenceEngineComplete (_h : Slot) (_o : SmF) (p s : State) : SlotRes :=
  let a := archOf p p.focus.core
  if !(a.main.pipe.quiet && a.main.frame.held.quiet) then .hold 9 true .plain
  else fenceOn (a.cp.isEmpty && a.smv.isEmpty && !a.reqs.any (·.eng)) false none p s

/-- The step of `fence engine complete`. -/
def execFenceEngineComplete (h : Slot) (o : SmF) (s : State) : Host.Outcome State Fault Refusal :=
  slotStep h (issueFenceEngineComplete h o) s

/-- Is a core of this package in the instance of a scope for another (R305)? 1024 stands for the other packages. -/
def inScope (scp core c : Nat) : Bool :=
  match scp with
  | 0 => c == core
  | 1 => c == core
  | 2 => c / 128 == core / 128 && (if isRoot c then c % 128 - 64 else c % 128 / 4) ==
      (if isRoot core then core % 128 - 64 else core % 128 / 4)
  | 3 => c / 128 == core / 128
  | 10 => false
  | n => decide (c < 1024) || decide (6 ≤ n)

/-- Does a copy command publish — `pub`, `ap`, or an offload — and has its publish not yet completed at a scope (R190,
R194)? -/
def pubPending (s : State) (core scp : Nat) (x : CpCmd) : Bool :=
  (x.opc == 7 || x.prm.getLsbD 20 || (x.opc == 4 && !x.prm.getLsbD 10)) && !x.flip &&
    (x.pub.isNone || s.hub.flips.any (fun f => x.pub == some f.id && f.todo.any (inScope scp core)))

/-- `fence publish visible`: kind 4: earlier publishes have completed at the scope (R199). -/
def issueFencePublishVisible (_h : Slot) (o : SmF) (p s : State) : SlotRes :=
  fenceOn (!(archOf p p.focus.core).cp.any (pubPending p p.focus.core o.scp.toNat)) false none p s

/-- The step of `fence publish visible`. -/
def execFencePublishVisible (h : Slot) (o : SmF) (s : State) : Host.Outcome State Fault Refusal :=
  slotStep h (issueFencePublishVisible h o) s

/-! ### Barriers and events (R200 to R203) -/

/-- The cross-package barrier group of the running launch (R263, R274). -/
def barGroup (s : State) (core : Nat) : Nat :=
  let t := nodeIds s core
  match nodeOf s t.1 t.2 with
  | none => 0
  | some n => recN n.record 66 2

/-- `bar`: arrives once a full fence at the scope holds, and holds until the barrier completes (R200). The argument of its
permission trap, which has no address, is 0. (DESIGN CHOICE, log 54) -/
def issueBar (h : Slot) (o : SmF) (p s : State) : SlotRes :=
  let scp := o.scp.toNat
  let id := wf o.off 0 4
  if p.focus.side then illegalInstr p h
  else if 6 ≤ scp ∧ barGroup p p.focus.core = 0 then permission p h 0
  else
    let a := archOf p p.focus.core
    if a.arrv.contains (scp, id, true) then
      .ok (passFence (modArch s p.focus.core (fun b => { b with arrv := b.arrv.erase (scp, id, true) })) p.focus false (some scp))
    else if a.arrv.contains (scp, id, false) then .hold 9 false .plain
    else if acqDone p p.focus && relDone p p.focus scp then .hold 9 false (.arrive scp id)
    else .hold 9 false .plain

/-- The step of `bar`. -/
def execBar (h : Slot) (o : SmF) (s : State) : Host.Outcome State Fault Refusal :=
  slotStep h (issueBar h o) s

/-- `evpop`: takes the oldest record: header to s[sd], payload to s[sb] (R202); one posted with release makes the
pop an acquire (R323). -/
def issueEvpop (h : Slot) (o : SmF) (p s : State) : SlotRes :=
  let give := fun (s : State) (r : EvRec) => emitS p (emitS p s h 22 o.sd r.hdr 1 0) h 22 o.sb r.pay 1 0
  match (archOf p p.focus.core).evq with
  | [] => if o.off = 0 then .hold 9 false .plain else .ok (give s { hdr := 0, pay := 0 })
  | r :: t => .ok (give (modArch s p.focus.core (fun a =>
      if r.rel then addIds { a with evq := t } [wf r.hdr 32 16] else { a with evq := t })) r)

/-- The step of `evpop`. -/
def execEvpop (h : Slot) (o : SmF) (s : State) : Host.Outcome State Fault Refusal :=
  slotStep h (issueEvpop h o) s

/-- `evpost`: posts a record of kind 0x04 to the core named by s[sa] (R203); `AUX` of its misuse, which names no handle or
queue, is 0. (DESIGN CHOICE, log 54) -/
def issueEvpost (h : Slot) (o : SmF) (p s : State) : SlotRes :=
  let w := rs p o.sa
  if !targetOk w then handleMisuse p h 0
  else needOut p <|
    .ok (sendMsg s w.toNat (.event { hdr := evHdr 4 p.focus.core o.off.toNat, pay := rs p o.sb, rel := o.ord = 2 })
      (if o.ord = 2 then relWaits s s.focus o.scp.toNat else []) true)

/-- The step of `evpost`. -/
def execEvpost (h : Slot) (o : SmF) (s : State) : Host.Outcome State Fault Refusal :=
  slotStep h (issueEvpost h o) s

/-! ### Translation query (R206) -/

/-- The result of `tq`. -/
def tqWord (s : State) (core : Nat) (va : Word) : Word :=
  match lookupE (archOf s core).tab (wf va 0 48) with
  | none => 0
  | some (i, e) => BitVec.ofNat 64 (2 ^ 63 + i * 2 ^ 55 + e.lcl * 2 ^ 52 + e.res * 2 ^ 50 +
      e.shp.toNat * 2 ^ 49 + e.side.toNat * 2 ^ 48 + e.mj.toNat * 2 ^ 47 + wf e.w3 4 1 * 2 ^ 46 +
      e.rck.toNat * 2 ^ 45 + e.pr.toNat * 2 ^ 44 + e.pw.toNat * 2 ^ 43 + e.px.toNat * 2 ^ 42 +
      e.lsz * 2 ^ 36 + wf e.w0 0 16 * 2 ^ 20)

/-- `tq`: looks s[sa] up and writes s[sd] with latency 1 (R206). -/
def issueTq (h : Slot) (o : SmF) (p s : State) : SlotRes :=
  .ok (emitS p s h 27 o.sd (tqWord p p.focus.core (rs p o.sa)) 1 0)

/-- The step of `tq`. -/
def execTq (h : Slot) (o : SmF) (s : State) : Host.Outcome State Fault Refusal :=
  slotStep h (issueTq h o) s

/-! ### System registers (R207, R208, R213) -/

/-- The nominal code of a point (R215). -/
def ptCode (pt : Nat) : Nat := match pt with
  | 0 => 0
  | 1 => 5
  | 2 => 10
  | 3 => 15
  | 4 => 15
  | 5 => 23
  | 6 => 31
  | _ => 40

/-- The weight limit of a point (R220). -/
def ptLimit (pt : Nat) : Nat := match pt with
  | 4 => 40
  | 5 => 36
  | 6 => 30
  | 7 => 24
  | _ => 44

/-- The envelope code of a core's island or root rail (R227, R427). -/
def envOf (s : State) (core : Nat) : Nat :=
  if isRoot core then wf (tget 15 s.can.rrt (core / 128)) 0 6 else wf (tget 15 s.can.islt (railOf core)) 0 6

/-- The effective code of a nominal code in a mode under an envelope (R227): in full mode, whose envelope is never written below
18, a core that finds one below 18 runs at code 15 (R428). (DEDUCED, log 81) -/
def effCode (merged : Bool) (nom env : Nat) : Nat :=
  let m := if nom < env then nom else env
  if merged then m else if env < 18 ∨ m < 15 then 15 else m

/-- The steps of a clearing (R223). -/
def Clearing.n (x : Clearing) : Nat := if x.dep < x.nom then x.nom - x.dep else x.dep - x.nom
/-- Is a clearing in progress (R223)? -/
def Clearing.on (x : Clearing) : Bool := decide (x.steps < x.n)
/-- The nominal position (R226): the nominal code once no clearing runs. -/
def Clearing.posn (x : Clearing) : Nat :=
  if x.on then (if x.dep < x.nom then x.dep + x.steps else x.dep - x.steps) else x.nom

/-- Register 0x00E (R208): regulator code, clearing, cap, mode and point. -/
def envWord (s : State) (core : Nat) : Word :=
  let a := archOf s core
  let pt := a.main.blk.pt
  let mg := mergedPt pt
  let e := effCode mg a.clr.nom (envOf s core)
  let cap := (if mg then [0, 1, 2, 3] else [4, 5, 6, 7]).foldl
    (fun c q => if ptCode q ≤ e then q else c) (if mg then 0 else 4)
  BitVec.ofNat 64 (a.vcode * 2 ^ 8 + a.clr.on.toNat * 128 + cap * 16 + mg.toNat * 8 + pt.toNat)

/-- One line of the snapshot read-out (R213): REM, slot, SNW and SND. -/
structure Snap where
  rem  : Nat
  slot : Nat
  w    : Word
  d    : List Word

/-- The destination code of an operation (R213). -/
def dstCode : Dst → Nat
  | .none => 0
  | .s n => n
  | .f n => 0x30 + n
  | .v _ n => n
  | .m _ n => 0x20 + n

/-- The fields shared by all snapshot words. -/
def snapBits (res rpt fpx : Bool) (slot opc dst rem : Nat) (rm : BitVec 2) (en : BitVec 5) (fz : Bool)
    (rcnt : Nat) : Word :=
  BitVec.ofNat 64 (2 ^ 63 + res.toNat * 2 ^ 62 + rpt.toNat * 2 ^ 61 + fpx.toNat * 2 ^ 60 + slot * 2 ^ 55 +
    opc * 2 ^ 47 + dst * 2 ^ 39 + (if rem < 255 then rem else 255) * 2 ^ 31 + rm.toNat * 2 ^ 29 +
    en.toNat * 2 ^ 24 + fz.toNat * 2 ^ 23 + rcnt % 2 ^ 16)

/-- The eight words of a row. -/
def rowWords (r : Row) : List Word := (List.range 8).map (fun i => r.extractLsb' (64 * i) 64)

/-- The entry of an operation in flight: a word access shows its data in `SND0` (R213). -/
def flightSnap (x : Flight) : Snap :=
  let rem := if x.fpx then 1 else x.rem
  let res := x.landing && x.got && !x.fpx
  { rem := rem, slot := x.slot.toNat
    w := snapBits res false x.fpx x.slot.toNat x.opc.toNat (dstCode x.dst) rem x.rm x.en x.fz 0
    d := if res then (if x.shape = .row then rowWords x.val else [x.val.setWidth 64]) else [] }

/-- The entry of a matrix command in flight: its completion is first seen by the bundle after it, and its current row
(R28, R165, R213); what it has to wait for the array counts (R163). -/
def mxSnap (x : MxCmd) : Snap :=
  let rem := x.d + cdiv x.rows x.rho + 2 - x.age + x.wait
  { rem := rem, slot := x.slot.toNat
    w := snapBits false false false x.slot.toNat x.opc.toNat (x.ac * 128 + (x.ar + x.next) % 128) rem x.rm
      x.en x.fz 0
    d := [] }

/-- The entry of a transpose command in flight; it has no destination register, and DST shows 0 (DESIGN CHOICE, log 96). -/
def txSnap (x : TxCmd) : Snap :=
  let rem := x.done + 2 - x.age
  { rem := rem, slot := 22, w := snapBits false false false 22 (if x.txw then 2 else 1) 0 rem x.rm x.en x.fz 0, d := [] }

/-- The entry of a running repeat (R182, R213). The spec gives it no latency: REM, and with it the entry's place in the
read-out, is the count of iterations to come (DESIGN CHOICE, log 96). -/
def repSnap (x : Rep) : Snap :=
  let cur := x.set
  let at_ := if x.opc = 1 then 1 else if x.opc = 5 then 2 else 0
  let step := fun (w lo : Nat) =>
    BitVec.ofInt 64 ((tget 0 cur w).toNat + x.base.toInt * (if w = at_ then 1 else 0) +
      x.j * sgn 16 (wf (tget 0 cur 3) lo 16) * 64)
  { rem := x.left, slot := x.slot.pos.toNat
    w := snapBits false true false x.slot.pos.toNat x.opc.toNat (x.o.ac.toNat * 128) x.left x.rm x.en x.fz x.left
    d := [step 0 0, step 1 16, step 2 32,
      BitVec.ofInt 64 ((wf x.o.prm 14 7 + (if x.opc = 1 then 0 else x.j * sgn 8 (wf (tget 0 cur 3) 48 8))) % 128)] }

/-- The sum over the levels of index x stride in a nest word's field (R180). -/
def nestSum (cur : Tbl Word) (idx : List Nat) (word lo w : Nat) : Int :=
  (List.range 6).foldl (fun a l =>
    a + (idx.getD l 0 : Int) * sgn w (wf (tget 0 cur (8 + 2 * l + word)) lo w)) 0

/-- The entry of a running nest (R180, R213). The spec gives it no latency: REM is 1, and its place in the read-out follows
from that (DESIGN CHOICE, log 96). -/
def nestSnap (x : Nest) : Snap :=
  let cur := x.set
  let ad := fun (w lo : Nat) => BitVec.ofInt 64
    ((tget 0 cur w).toNat + (if w = 0 then x.base.toInt else 0) + 64 * nestSum cur x.idx 0 lo 16)
  { rem := 1, slot := x.slot.pos.toNat
    w := snapBits false true false x.slot.pos.toNat 7 (x.o.ac.toNat * 128) 1 x.rm x.en x.fz 0
    d := [ad 0 16, ad 1 32, ad 2 48,
      BitVec.ofInt 64 ((wf x.o.prm 13 7 + nestSum cur x.idx 1 0 8) % 128),
      BitVec.ofNat 64 (joinN 16 (x.idx.take 4)), BitVec.ofNat 64 (joinN 16 (x.idx.drop 4))] }

/-- Insert an entry in ascending write-back cycle and slot position (R213). -/
def snapIns (x : Snap) : List Snap → List Snap
  | [] => [x]
  | y :: t => if x.rem < y.rem ∨ (x.rem = y.rem ∧ x.slot < y.slot) then x :: y :: t else y :: snapIns x t

/-- The held snapshots of a stream's frame, in read-out order (R213). -/
def snapsOf (a : Arch) (side : Bool) : List Snap :=
  let p := (a.stream side).frame.held
  let l := p.ops.map flightSnap ++ p.mx.map mxSnap ++ p.tx.map txSnap ++ p.rep.toList.map repSnap ++ p.nest.toList.map nestSnap
  if (a.stream side).frame.act then l.foldl (fun acc x => snapIns x acc) [] else []

/-- Read a frame register, zero while the frame is inactive (R207, R208). -/
def frameReg (f : Frame) (n : Nat) : Word :=
  if !f.act then 0 else match n with
  | 0x20 => f.tcause
  | 0x21 => zext f.tpc
  | 0x22 => zext f.tfa
  | 0x23 => f.targ
  | 0x24 => zext f.tflg
  | 0x25 => zext f.tfpc
  | 0x26 => zext f.tblk
  | 0x27 => zext f.tlc0
  | 0x28 => zext f.tlb0
  | 0x29 => zext f.tle0
  | 0x2A => zext f.tlc1
  | 0x2B => zext f.tlb1
  | _ => zext f.tle1

/-- Read a system register of a stream (R208). -/
def sysRead (s : State) (k : Sid) (n : Nat) : Word :=
  let a := archOf s k.core
  let x := a.stream k.side
  let sn := (snapsOf a k.side)[x.frame.snsel.toNat]?
  match n with
  | 0x000 => zext a.fpc
  | 0x001 => zext (x.f ||| 1)
  | 0x002 => zext x.rc
  | 0x003 => zext x.lc0
  | 0x004 => zext x.lb0
  | 0x005 => zext x.le0
  | 0x006 => zext x.lc1
  | 0x007 => zext x.lb1
  | 0x008 => zext x.le1
  | 0x009 => a.hqv
  | 0x00A => BitVec.ofNat 64 (s.pkg.toNat * 2 ^ 24 + k.core % 1024 * 256 + (isRoot k.core).toNat * 2 + k.side.toNat)
  | 0x00B => BitVec.ofNat 64 (coreOf s k.core).split.toNat
  | 0x00C => zext a.disc
  | 0x00D => zext (ownedMask s k.core)
  | 0x00E => envWord s k.core
  | 0x00F => x.ccnt
  | 0x010 => s.hub.htck
  | 0x011 => BitVec.ofNat 64 (a.evdrop * 65536 + a.evq.length)
  | 0x030 => BitVec.ofNat 64 (snapsOf a k.side).length
  | 0x031 => zext x.frame.snsel
  | 0x032 => (sn.map (·.w)).getD 0
  | _ =>
    if 0x20 ≤ n ∧ n ≤ 0x2C then frameReg x.frame n
    else if 0x33 ≤ n ∧ n ≤ 0x3A then (sn.map (fun y => y.d.getD (n - 0x33) 0)).getD 0
    else if 0x40 ≤ n ∧ n ≤ 0x5F then zext (tget 0 a.bfmt (n - 0x40))
    else 0

/-- Write a frame register; discarded while the frame is inactive (R207, R208). -/
def frameWrite (f : Frame) (n : Nat) (w : Word) : Frame :=
  if !f.act then f else match n with
  | 0x21 => { f with tpc := w.setWidth 48 }
  | 0x24 => { f with tflg := w.setWidth 16 }
  | 0x25 => { f with tfpc := w.setWidth 32 &&& 0x3FFB }
  | 0x26 => { f with tblk := w.setWidth 48 }
  | 0x27 => { f with tlc0 := w.setWidth 32 }
  | 0x28 => { f with tlb0 := w.setWidth 48 }
  | 0x29 => { f with tle0 := w.setWidth 48 }
  | 0x2A => { f with tlc1 := w.setWidth 32 }
  | 0x2B => { f with tlb1 := w.setWidth 48 }
  | 0x2C => { f with tle1 := w.setWidth 48 }
  | _ => f

/-- A write of a bank format register (R48): reserved formats and groups discard it whole. (DEDUCED, log 38) -/
def bfmtWrite (a : Arch) (n : Nat) (w : Word) : Arch :=
  let v := w.setWidth 32
  if 8 < wf v 0 4 ∨ wf v 8 2 = 3 then a else { a with bfmt := tput a.bfmt n (v &&& 0xFFFF030F) }

/-- Write a system register of a stream (R207, R208); RO registers discard the write, and flags raised by results written in the
same core cycle stay in `FPC` (R24). -/
def sysWrite (s : State) (k : Sid) (n : Nat) (w : Word) : State :=
  match n with
  | 0x000 => modArch s k.core (fun a => { a with fpc := (w.setWidth 32 &&& 0x3FFB) ||| a.main.raised ||| a.side.raised })
  | 0x001 => modStrm s k (fun x => { x with f := w.setWidth 16 ||| 1 })
  | 0x002 => modStrm s k (fun x => { x with rc := w.setWidth 16 })
  | 0x031 => modStrm s k (fun x => { x with frame := { x.frame with snsel := w.setWidth 8 } })
  | _ =>
    if 0x20 ≤ n ∧ n ≤ 0x2C then modStrm s k (fun x => { x with frame := frameWrite x.frame n w })
    else if 0x40 ≤ n ∧ n ≤ 0x5F then modArch s k.core (fun a => bfmtWrite a (n - 0x40) w)
    else s

/-- Is a register number absent on this core (R207)? -/
def sysAbsent (p : State) (n : Nat) : Bool :=
  isRoot p.focus.core && decide (0x50 ≤ n) && decide (n ≤ 0x5F)

/-- `sysr`: s[sd] := register `off` as it stood before the bundle, latency 1 (R207). -/
def issueSysr (h : Slot) (o : SmF) (p s : State) : SlotRes :=
  if sysAbsent p o.off.toNat then illegalInstr p h
  else .ok (emitS p s h 25 o.sd (sysRead p p.focus o.off.toNat) 1 0)

/-- The step of `sysr`. -/
def execSysr (h : Slot) (o : SmF) (s : State) : Host.Outcome State Fault Refusal :=
  slotStep h (issueSysr h o) s

/-- `sysw`: register `off` := s[sb] at commit; a bank format waits for its bank (R207). The argument of its permission trap,
which has no address, is 0. (DESIGN CHOICE, log 54) -/
def issueSysw (h : Slot) (o : SmF) (p s : State) : SlotRes :=
  let n := o.off.toNat
  if sysAbsent p n then illegalInstr p h
  else if 0x40 ≤ n ∧ n ≤ 0x5F ∧ (archOf p p.focus.core).rlsd.getLsbD (n - 0x40) then permission p h 0
  else
    let r := SlotRes.ok (sysWrite s p.focus n (rs p o.sb))
    if 0x40 ≤ n ∧ n ≤ 0x5F then needBank p (sliceRow p.pkg p.focus.core ((n - 0x40) * 2048)) r else r

/-- The step of `sysw`. -/
def execSysw (h : Slot) (o : SmF) (s : State) : Host.Outcome State Fault Refusal :=
  slotStep h (issueSysw h o) s

/-! ### Chain signals (R205) -/

/-- A signal to the chain sequencer: it waits while the core's intake of four is full (R198, R205). The argument of its
permission trap, which has no address, is 0. (DESIGN CHOICE, log 54) -/
def chsig (h : Slot) (ret : Bool) (o : SmF) (p s : State) : SlotRes :=
  let a := rs p o.sa
  let b := rs p o.sb
  let c := (nodeIds p p.focus.core).1
  if 256 ≤ a.toNat ∨ 65536 ≤ b.toNat then illegalAtIssue p h
  else match (ctxOf p c).chain with
    | none => permission p h 0
    | some _ =>
      if 4 ≤ ((ctxOf p c).sigs.filter (fun x => x.core == p.focus.core)).length then .hold 9 false .plain
      else .ok (modCtx s c (fun x => { x with sigs := x.sigs ++ [{ core := p.focus.core, side := p.focus.side
                                                                   ret := ret, ctr := a.toNat, amt := b.toNat
                                                                   wait := relWaits s s.focus 6
                                                                   stg := if (coreOf p p.focus.core).split then none
                                                                     else some (coreOf p p.focus.core).seq }] }))

/-- `chsig ready`: adds s[sb][15:0] to ready counter s[sa][7:0] (R205). -/
def issueChsigReady (h : Slot) (o : SmF) (p s : State) : SlotRes :=
  chsig h false o p s

/-- The step of `chsig ready`. -/
def execChsigReady (h : Slot) (o : SmF) (s : State) : Host.Outcome State Fault Refusal :=
  slotStep h (issueChsigReady h o) s

/-- `chsig return`: returns s[sb][15:0] activation slots (R205). -/
def issueChsigReturn (h : Slot) (o : SmF) (p s : State) : SlotRes :=
  chsig h true o p s

/-- The step of `chsig return`. -/
def execChsigReturn (h : Slot) (o : SmF) (s : State) : Host.Outcome State Fault Refusal :=
  slotStep h (issueChsigReturn h o) s

/-! ### Handles and queue configuration (R155 to R162) -/

/-- Is a handle the target of a running command that produces into it (R189)? -/
def producing (a : Arch) (n : Nat) : Bool :=
  a.cp.any (fun x => x.prm.getLsbD 15 && wf x.prm 11 4 == n) || a.smv.any (fun x => x.hd.toNat == n)

/-- Is a handle image refused by `hdef` (R31, R156)? -/
def imageBad (core : Nat) (w : Word) : Bool :=
  let x := handleOf w
  decide (12 < x.lsz) || decide (wf w 0 6 ≠ 0) || decide (x.size < x.filled) ||
    decide (nRows core < x.base + x.size) || decide (nRows x.peer < x.base + x.size)

/-- `hdef`: h[hn] := s[sa] as an image, checked at commit (R156). -/
def issueHdef (h : Slot) (o : HqF) (p s : State) : SlotRes :=
  let w := rs p o.sa
  if producing (archOf p p.focus.core) o.hn.toNat || imageBad p.focus.core w then handleMisuse p h o.hn.toNat
  else .ok (modArch s p.focus.core (fun a => { a with h := tput a.h o.hn.toNat w }))

/-- The step of `hdef`. -/
def execHdef (h : Slot) (o : HqF) (s : State) : Host.Outcome State Fault Refusal :=
  slotStep h (issueHdef h o) s

/-- An image with one pointer replaced. -/
def setPtr (w : Word) (prd : Bool) (v : Nat) : Word := if prd then setFld w 31 13 v else setFld w 18 13 v

/-- The requests of a stream through a handle that a pointer update follows (R157): `vsth` for the
producer pointer, `vldh` for the consumer pointer. -/
def handleWaits (s : State) (k : Sid) (n : Nat) (prd : Bool) : List Nat :=
  ((archOf s k.core).reqs.filter (fun r => r.side == k.side && r.hnd == some n &&
    (if prd then r.op == .store else r.op == .load))).map (·.id)

/-- `hadv`: moves one pointer of h[hn] and tells the peer (R157); it traps when the peer moves the same pointer in the same
core cycle (R20). (DEDUCED, log 97) -/
def issueHadv (h : Slot) (o : HqF) (p s : State) : SlotRes :=
  let n := o.hn.toNat
  let x := handleReg p n
  let prd := decide (o.pk = 0)
  let c := o.cnt.toNat
  if c = 0 then .ok s
  else if !x.vld || decide ((if prd then x.free else x.filled) < c) ||
      (prd && producing (archOf p p.focus.core) n) || (archOf p p.focus.core).moved.contains (n, prd) then handleMisuse p h n
  else
    let v := ((if prd then x.prd else x.cns) + c) % (2 * x.size)
    let s1 := modArch s p.focus.core (fun a => { a with h := tput a.h n (setPtr (tget 0 a.h n) prd v) })
    .ok (if x.peer = p.focus.core then s1
      else sendMsg s1 x.peer (.pointer n prd (BitVec.ofNat 13 v)) (handleWaits s1 p.focus n prd) false)

/-- The step of `hadv`. -/
def execHadv (h : Slot) (o : HqF) (s : State) : Host.Outcome State Fault Refusal :=
  slotStep h (issueHadv h o) s

/-- The value of a handle query (R158). -/
def hqryWord (p : State) (o : HqF) : Word :=
  let a := archOf p p.focus.core
  match o.cnt.toNat with
  | 0 => tget 0 a.h o.hn.toNat
  | 1 => let x := handleReg p o.hn.toNat
         BitVec.ofNat 64 (x.free * 2 ^ 16 + x.filled)
  | 2 => let q := a.queue o.qn.toNat
         BitVec.ofNat 64 (q.qov.toNat * 2 ^ 32 + (q.ring.map (·.ents.length)).getD 0 * 256 + q.ents.length)
  | _ => BitVec.ofNat 64 (8 - vertUsed p (vertTarget p.focus.core o.qn.toNat))

/-- `hqry`: writes `HQV` (R158). -/
def issueHqry (h : Slot) (o : HqF) (p s : State) : SlotRes :=
  if o.cnt = 3 ∧ (if isRoot p.focus.core then 3 else 0) < o.qn.toNat then illegalInstr p h
  else .ok (modArch s p.focus.core (fun a => { a with hqv := hqryWord p o }))

/-- The step of `hqry`. -/
def execHqry (h : Slot) (o : HqF) (s : State) : Host.Outcome State Fault Refusal :=
  slotStep h (issueHqry h o) s

/-- `qcfg`: configures a queue (R161). -/
def issueQcfg (h : Slot) (o : HqF) (p s : State) : SlotRes :=
  let n := o.qn.toNat
  let w := rs p o.sa
  let x := (archOf p p.focus.core).queue n
  let sp := w.getLsbD 1
  if 8 ≤ w.toNat || (sp && (n = 7 || x.ring.isNone)) ||
      (!sp && (x.ring.map (fun r => !r.ents.isEmpty)).getD false) then handleMisuse p h n
  else
    let put := fun (x : Queue) => { x with cfg := w.setWidth 3 }
    .ok (modArch s p.focus.core (fun a => { a with q := tmod Queue.idle a.q n put }))

/-- The step of `qcfg`. -/
def execQcfg (h : Slot) (o : HqF) (s : State) : Host.Outcome State Fault Refusal :=
  slotStep h (issueQcfg h o) s

/-- `qspl`: sets the spill ring of a queue (R162). -/
def issueQspl (h : Slot) (o : HqF) (p s : State) : SlotRes :=
  let n := o.qn.toNat
  let va := rs p o.sa
  let quota := rs p o.sx
  let size := o.cnt.toNat
  let x := (archOf p p.focus.core).queue n
  withAccess h askStore va p fun i _ pa =>
  if wf va 0 6 ≠ 0 || quota.toNat = 0 || size < quota.toNat ||
      (x.ring.map (fun r => !r.ents.isEmpty)).getD false then handleMisuse p h n
  else
    let s1 := countHot s p.focus.core i
    let put := fun (x : Queue) => { x with ring := some { base := pa, size := size, quota := quota.toNat, head := 0
                                                          ents := [] } }
    .ok (modArch s1 p.focus.core (fun a => { a with q := tmod Queue.idle a.q n put }))

/-- The step of `qspl`. -/
def execQspl (h : Slot) (o : HqF) (s : State) : Host.Outcome State Fault Refusal :=
  slotStep h (issueQspl h o) s

end Sys2Proof.Machine
end

