-- ==== Sys2Proof/Machine/Engine.lean ====
section
/-!
DEFINITION. What the engines share: bank formats (R48, R49, R301), decoding and encoding at a bank port,
reads and writes of the array in order with the core's own stores (R169), the sums of a pass (R50 to
R52), and completion with its flag and record (R165, R201).
-/
namespace Sys2Proof.Machine

/-! ### Format registers (R48) -/

/-- Format code of a format register (R48). -/
def rFmt (x : BitVec 32) : Nat := wf x 0 4
/-- Group size of a format register. -/
def rG (x : BitVec 32) : Nat := 32 * 2 ^ wf x 8 2
/-- `SBASE` of a format register. -/
def rSb (x : BitVec 32) : Nat := wf x 16 16
/-- Is a format grouped? -/
def isGq (f : Nat) : Bool := f = 6 || f = 7
/-- Element width of a bank format; a RAW row of the array holds 32-bit words. -/
def bW (f : Nat) : Nat := match f with
  | 2 => 16
  | 3 => 16
  | 4 => 8
  | 6 => 8
  | 5 => 4
  | 7 => 4
  | _ => 32

/-- The format register of a bank of this package; HBM and the second tier count as RAW, and the register of
a bank of another package is open (R301). -/
def bankReg (p : State) (fmts : Tbl (BitVec 32)) (pa : Nat) : BitVec 32 :=
  if paSpace pa ≠ 0 then 0
  else if paPkg pa = p.pkg.toNat then tget 0 fmts (32 * paCore pa + paBank pa)
  else Config.remoteFmt pa

/-- The format registers of every slice of the package, as they stand. -/
def allFmts (p : State) : Tbl (BitVec 32) :=
  p.cores.flatMap (fun c => c.2.arch.bfmt.map (fun b => (32 * c.1 + b.1, b.2)))

/-! ### The array's view of the own slice (R169) -/

/-- What a store request does to its row: the bytes and which of them are written. -/
def storeBytes (r : Req) : Row × BitVec 64 :=
  if r.len = 64 then (r.data, r.mask)
  else
    let o := r.pa % 64 / 8 * 8
    (r.data <<< (8 * o), (r.mask &&& 0xFF) <<< o)

/-- Is a request a store of the row at `pa` issued before identity `mark`? -/
def storesRow (mark pa : Nat) (r : Req) : Bool :=
  r.op == .store && (decide (r.id < mark) || r.eng) && decide (canon (rowBase r.pa) = canon (rowBase pa))

/-- Perform a store at its row (R307): a whole row clears the poison mark, part of one does not, nor a `vstm` (R391). -/
def applyStore (s : State) (r : Req) : State :=
  let b := storeBytes r
  if b.2 = BitVec.ofNat 64 (2 ^ 64 - 1) ∧ !r.part then writeRow s r.pa b.1 else writePart s r.pa b.1 b.2

/-- The state under the own stores to a row that the core committed before `mark`, as an array row stage sees it (R169). -/
def settleRow (s : State) (core mark pa : Nat) : State :=
  let l := (archOf s core).reqs.filter (storesRow mark pa)
  if l.isEmpty then s
  else modArch (l.foldl applyStore s) core (fun a =>
    { a with reqs := a.reqs.filter (fun r => !storesRow mark pa r) })

/-- The row that the array reads at `pa`: memory under the core's own earlier stores. -/
def arrRow (s : State) (core mark pa : Nat) : Row := rowAt (settleRow s core mark pa) pa

/-- `n` rows from slice row `r` as one number. -/
def arrRows (s : State) (core mark r : Nat) : Nat → Nat
  | 0 => 0
  | n + 1 => (arrRow s core mark (sliceRow s.pkg core r)).toNat + 2 ^ 512 * arrRows s core mark (r + 1) n

/-- The first of `n` rows from slice row `r` that is poisoned under the core's own earlier stores, as the array reads it (R169,
R392). -/
def arrBad (s : State) (core mark r : Nat) : Nat → Option Nat
  | 0 => none
  | n + 1 =>
    let pa := sliceRow s.pkg core r
    if poisoned (settleRow s core mark pa) pa then some pa else arrBad s core mark (r + 1) n

/-- Does an entry of the core's table map an address as its shadow side (R300)? -/
def onShadow (s : State) (core pa : Nat) : Bool :=
  (archOf s core).tab.any (fun x => x.2.shp &&
    (offIn (if x.2.side then wf x.2.w1 0 56 else wf x.2.w2 0 56) (2 ^ x.2.lsz) pa).isSome)

/-- An engine write to a shadow side keeps a node restartable; any other counts as R360 says. -/
def noteEngine (s : State) (core pa : Nat) : State := if onShadow s core pa then s else noteWrite s core pa

/-- A row that an engine writes behind requests that are still to be performed (R169, R308). -/
def engineReq (s : State) (core pa : Nat) (v : Row) (mask : BitVec 64) (wait : List Nat) : State :=
  let r : Req :=
    { id := s.ids, side := false, slot := 31, pc := 0, op := .store, pa := pa, len := 64, data := v, mask := mask, cmp := 0
      acq := false, rel := false, scp := 0, hnd := none, wait := wait, stg := none, sent := false, sig := false, eng := true }
  { modArch s core (fun a => { a with reqs := a.reqs ++ [r] }) with ids := s.ids + 1 }

/-- An array or transpose write of the low `n` bytes (at most 64) of a row: it follows the core's own
earlier stores, drops the race tag's validity (R316) and counts against a restart (R360). -/
def arrWrite (s : State) (core mark pa : Nat) (v : Row) (n : Nat) : State :=
  let s1 := noteEngine (dropTag s pa) core pa
  let wait := ((archOf s core).reqs.filter (storesRow mark pa)).map (·.id)
  let m := BitVec.ofNat 64 (if 64 ≤ n then 2 ^ 64 - 1 else 2 ^ n - 1)
  if !wait.isEmpty then engineReq s1 core pa v m wait
  else if 64 ≤ n then writeRow s1 pa v else writePart (noteFound s1 pa m.toNat) pa v m

/-- Write `n` bytes of a number from slice row `r` on. -/
def arrWriteN (s : State) (core mark r v : Nat) : Nat → Nat → State
  | 0, _ => s
  | k + 1, n =>
    if n = 0 then s
    else arrWriteN (arrWrite s core mark (sliceRow s.pkg core r) (BitVec.ofNat 512 v) n) core mark (r + 1)
      (v / 2 ^ 512) k (n - 64)

/-- The rows that `n` elements take from slice row `r` on, each coded by its own bank (R49, R301): row, first element, count. -/
def coded (reg : Nat → BitVec 32) : Nat → Nat → Nat → Nat → List (Nat × Nat × Nat)
  | 0, _, _, _ => []
  | k + 1, r, e, n =>
    let m := min (512 / bW (rFmt (reg r))) n
    if n = 0 then [] else (r, e, m) :: coded reg k (r + 1) (e + m) (n - m)

/-! ### Bank formats (R45 to R49) -/

/-- The header of a group of a bank of the own slice, read through the array (R46). -/
def hdrAt (s : State) (core mark : Nat) (reg : BitVec 32) (g : Nat) : Nat :=
  fld (arrRow s core mark (sliceRow s.pkg core (rSb reg + g / 16))).toNat (32 * (g % 16)) 32

/-- The group of element `j` of slice row `row` in its bank (R46). -/
def groupOf (reg : BitVec 32) (row j : Nat) : Nat := (row % 2048 * (512 / bW (rFmt reg)) + j) / rG reg

/-- Do the scale rows that elements up to `j` of a row need lie in the slice (R49)? -/
def scalesOk (core : Nat) (reg : BitVec 32) (row j : Nat) : Bool :=
  !isGq (rFmt reg) || decide (rSb reg + groupOf reg row j / 16 < nRows core)

/-- A working value of the engines (R49): raw bits, FP32 or S32. -/
inductive Work where
  | raw (x : Nat)
  | flt (x : Nat)
  | int (x : Int)
deriving DecidableEq, Repr

/-- What one element adds to the counts of R165. -/
structure Cnt where
  sat : Nat
  inv : Nat
  inx : Nat
deriving DecidableEq, Repr

/-- The counts that raised flags and a saturation amount to. -/
def cntOf (f : Flags) (sat : Bool) : Cnt :=
  { sat := (sat || f.getLsbD 2 || f.getLsbD 5).toNat, inv := (f.getLsbD 0).toNat, inx := (f.getLsbD 4).toNat }

/-- Decode an element of a bank format (R49): the working value and the flags raised. -/
def decodeE (f x h : Nat) : Work × Flags :=
  match f with
  | 1 => (.flt x, 0)
  | 2 => let r := fConv bf16 fp32 0 false x
         (.flt r.1, r.2)
  | 3 => let r := fConv fp16 fp32 0 false x
         (.flt r.1, r.2)
  | 4 => (.int (sgn 8 x), 0)
  | 5 => (.int (sgn 4 x), 0)
  | 6 => let r := dequant (sgn 8 x) h
         (.flt r.1, r.2)
  | 7 => let r := dequant (sgn 4 x) h
         (.flt r.1, r.2)
  | _ => (.raw x, 0)

/-- Encode to a float format, RNE (R42). -/
def encF (f : Fmt) : Work → Nat × Flags
  | .raw x => (x, 0)
  | .flt x => if f = fp32 then (x, 0) else fConv fp32 f 0 false x
  | .int x => iToF f 0 false x

/-- Encode to S8 or S4: rounded RNE and saturated, NaN giving 0 (R49); the last part says saturated. (DEDUCED, log 46) -/
def encI (w : Nat) : Work → Nat × Flags × Bool
  | .raw x => (x, 0, false)
  | .flt x =>
    let r := fToI fp32 0 false w true x
    (r.1, r.2, r.2.getLsbD 0 && (match fpRead fp32 false x with
      | .nan _ => false
      | _ => true))
  | .int x =>
    let r := fitI w true true x
    (r.1, 0, r.2 != 0)

/-- Encode to GQ8 or GQ4 by Quantize (R47, R49); an S32 value is rounded to FP32 first. (DEDUCED, logs 29 and 46) -/
def encQ (w h : Nat) : Work → Nat × Flags × Bool
  | .raw x => (x, 0, false)
  | .flt x =>
    let q := quant (fpRead fp32 false x) h (-(2 ^ (w - 1))) (2 ^ (w - 1) - 1)
    (wrapN w q.1, q.2.1, q.2.2)
  | .int x =>
    let c := iToF fp32 0 false x
    let q := quant (fpRead fp32 false c.1) h (-(2 ^ (w - 1))) (2 ^ (w - 1) - 1)
    (wrapN w q.1, q.2.1 ||| c.2, q.2.2)

/-- Encode a working value to a bank format under a header (R49). -/
def encodeE (f h : Nat) (v : Work) : Nat × Cnt :=
  let fl := fun (r : Nat × Flags) => (r.1, cntOf r.2 false)
  let ts := fun (r : Nat × Flags × Bool) => (r.1, cntOf r.2.1 r.2.2)
  match f with
  | 1 => fl (encF fp32 v)
  | 2 => fl (encF bf16 v)
  | 3 => fl (encF fp16 v)
  | 4 => ts (encI 8 v)
  | 5 => ts (encI 4 v)
  | 6 => ts (encQ 8 h v)
  | 7 => ts (encQ 4 h v)
  | _ => (match v with
    | .raw x => x
    | .flt x => x
    | .int x => wrapN 32 x, { sat := 0, inv := 0, inx := 0 })

/-- Sum of counts. (DEDUCED, log 46) -/
def Cnt.plus (a b : Cnt) : Cnt := { sat := a.sat + b.sat, inv := a.inv + b.inv, inx := a.inx + b.inx }

/-- What one element adds that is counted in two conversions: it counts once (R49). -/
def Cnt.once (a b : Cnt) : Cnt := { sat := max a.sat b.sat, inv := max a.inv b.inv, inx := max a.inx b.inx }
/-- No counts. -/
def Cnt.zero : Cnt := { sat := 0, inv := 0, inx := 0 }

/-- The elements of width `w` of a number. -/
def elemsN (w n x : Nat) : List Nat := (List.range n).map (fun j => fld x (j * w) w)

/-! ### Pass sums (R50 to R52) -/

/-- The exact sum of a chunk of products, with what the products and additions raise (R50). -/
def chunkVal (fz : Bool) : List (Nat × Nat) → Option FpVal → Flags → Option FpVal × Flags
  | [], z, f => (z, f)
  | (x, y) :: t, z, f =>
    let m := fpMul (fpRead bf16 fz x) (fpRead bf16 fz y)
    let r := match z with
      | none => (m.1, 0)
      | some v => fpAdd 0 v m.1
    chunkVal fz t (some r.1) (f ||| m.2 ||| r.2)

/-- One chunk rounded to FP32; a NaN chunk raises invalid (R50). (DEDUCED, log 46) -/
def chunkSum (fz : Bool) (l : List (Nat × Nat)) : Nat × Flags :=
  let r := chunkVal fz l none 0
  match r.1 with
  | some (.nan _) => (fp32.qnan, fInv)
  | some v =>
    let c := fpWrite fp32 0 fz v
    (c.1, c.2 ||| r.2)
  | none => (0, 0)

/-- PassSum for float formats: sixteen chunks of eight in ascending order (R50). -/
def passF (fz : Bool) (l : List (Nat × Nat)) (acc : Nat) : Nat × Flags :=
  (List.range (l.length / 8)).foldl (fun a j =>
    let c := chunkSum fz ((l.drop (8 * j)).take 8)
    let r := fAdd fp32 0 fz a.1 c.1
    (r.1, a.2 ||| c.2 ||| r.2)) (acc, 0)

/-- PassSum for integer formats: exact, wrapping modulo 2^32 with IOV (R51). -/
def passI (w : Nat) (l : List (Nat × Nat)) (acc : Nat) : Nat × Flags :=
  fitI 32 true false (sgn 32 acc + l.foldl (fun a p => a + sgn w p.1 * sgn w p.2) 0)

/-- One group of a grouped pass added to the accumulator (R52). Under `fz` the rounded product of the group is flushed as the
chunk sums of R37 are, and the FP16 scales are not: R37 names neither (DEDUCED, log 95). -/
def groupStep (fz : Bool) (w : Nat) (ha hw : Nat) (l : List (Nat × Nat)) (a : Nat × Flags) : Nat × Flags :=
  let t := l.foldl (fun t p => t + (sgn w p.1 - hdrZp ha) * (sgn w p.2 - hdrZp hw)) 0
  let x : FpVal := .fin (decide (t < 0)) t.natAbs 0
  let p := fpMul (hdrSc ha) (hdrSc hw)
  let y := fpMul x p.1
  let r := fpWrite fp32 0 fz y.1
  let z := fAdd fp32 0 fz a.1 r.1
  (z.1, a.2 ||| p.2 ||| y.2 ||| r.2 ||| z.2)

/-- PassSum for grouped formats, in ascending K order (R52). -/
def passG (fz : Bool) (w g : Nat) (ha hw : Nat → Nat) (l : List (Nat × Nat)) (acc : Nat) : Nat × Flags :=
  (List.range (l.length / g)).foldl (fun a j =>
    groupStep fz w (ha j) (hw j) ((l.drop (g * j)).take g) a) (acc, 0)

/-! ### Completion (R165, R201) -/

/-- Post an event record to a core's own event queue (R201). -/
def postOwn (s : State) (core : Nat) (r : EvRec) : State := modArch s core (fun a => pushEvent a r)

/-- Hold a count at 65,535 (R165). -/
def hold16 (n : Nat) : Nat := if n < 65535 then n else 65535

/-- A completion sets a flag in an open counted cycle whose bundle writes it at commit: the flag reads one after the cycle
(R11). -/
def keepSet (f : Nat) (x : Flight) : Flight := if x.dst = .f f then { x with val := 1 } else x

/-- Complete an engine command (R165): its flag sets, and is not lost to a bundle of the cycle (R11); its record is posted
when `ce` or the status asks. -/
def complete (s : State) (core eng opc : Nat) (cf : BitVec 4) (ce : Bool) (num sts : Nat) (c : Cnt) : State :=
  let k : Sid := { core := core, side := false }
  let s1 := modStrm s k (fun x =>
    { x.setFlag cf.toNat true with pipe := { x.pipe with ops := x.pipe.ops.map (keepSet cf.toNat) } })
  if ce || sts != 0 then
    postOwn s1 core { hdr := evHdr 1 (eng * 2 ^ 14) num
                      pay := BitVec.ofNat 64 (eng * 2 ^ 62 + opc * 2 ^ 54 + sts * 2 ^ 50 +
                        hold16 c.sat * 2 ^ 34 + hold16 c.inv * 2 ^ 18 + hold16 c.inx * 4) }
  else s1

/-- Count a command accepted by an engine (R201). (DEDUCED, log 44) -/
def countCmd (s : State) (core eng : Nat) : State :=
  modArch s core (fun a => { a with nacc := tput a.nacc eng (tget 0 a.nacc eng + 1) })

/-- The number of the next command an engine accepts. (DEDUCED, log 44) -/
def nextNum (s : State) (core eng : Nat) : Nat := tget 0 (archOf s core).nacc eng + 1

/-- Count the translations of one engine command: one for each entry it goes through (R299). -/
def countHots (s : State) (core : Nat) (l : List Nat) : State :=
  l.eraseDups.foldl (fun s i => countHot s core i) s

/-- The current set of an engine becomes the shadow as it stood before the bundle (R22). -/
def copySet (p s : State) (core eng : Nat) : State :=
  modArch s core (fun a => { a with cur := tput a.cur eng (tget [] (archOf p core).shd eng) })

/-- A word of an engine's shadow set. -/
def shWord (p : State) (core eng n : Nat) : Word := tget 0 (tget [] (archOf p core).shd eng) n

end Sys2Proof.Machine
end

