-- ==== Sys2Proof/Machine/Matrix.lean ====
section
/-!
DEFINITION. The matrix array (R164 to R183): acceptance and planning of a command, the commands one by
one, the continuations of a repeat and of a nest, the row stages and the completions.
-/
namespace Sys2Proof.Machine

/-! ### Ports and latches (R167, R168) -/

/-- The port of a command: 0 A, 1 weight, 2 drain (R167). -/
def MxOp.port : MxOp → Nat
  | .mlw => 1
  | .mscl => 1
  | .mzr => 2
  | .mst => 2
  | _ => 0
/-- Does a command write its latch? -/
def MxOp.writesW : MxOp → Bool
  | .mlw => true
  | .mscl => true
  | _ => false
/-- Does a command read its latch? -/
def MxOp.readsW : MxOp → Bool
  | .mma => true
  | .mmar => true
  | .mcop => true
  | _ => false
/-- Does a command use accumulator rows? -/
def MxOp.usesAcc : MxOp → Bool
  | .mlw => false
  | .mscl => false
  | _ => true

/-- The counted cycles for which a command holds its port. -/
def MxCmd.span (x : MxCmd) : Nat := cdiv x.rows x.rho
/-- Counted cycles since a command's acceptance: those it has run for and those it has waited for in the engine (R163). -/
def MxCmd.since (x : MxCmd) : Nat := x.age + x.lag
/-- Is a port held in the coming counted cycle? -/
def portBusy (q : Pipe) (port : Nat) : Bool :=
  q.mx.any (fun x => x.op.port == port && decide (x.since < x.span))
/-- Was the A port held in the counted cycle before (R168)? -/
def aWasBusy (q : Pipe) : Bool := q.mx.any (fun x => x.op.port == 0 && decide (x.since ≤ x.span))
/-- Has an earlier writer of a latch not completed? -/
def latchWr (q : Pipe) (l : Nat) : Bool :=
  q.mx.any (fun x => x.op.writesW && x.wl == l) || q.tx.any (fun x => x.txw && x.wl == l)
/-- Has an earlier reader of a latch not completed? -/
def latchRd (q : Pipe) (l : Nat) : Bool := q.mx.any (fun x => x.op.readsW && x.wl == l)

/-- May a command of this kind be accepted in the coming counted cycle, its token apart (R168)? -/
def mxReady (q : Pipe) (op : MxOp) (l : Nat) : Bool :=
  !portBusy q op.port && !(op.readsW && latchWr q l) && !(op.writesW && (latchWr q l || latchRd q l))

/-- Does a running nest use a latch: it has been accepted and has not completed (R168, R180)? -/
def nestLatch (q : Pipe) (l : Nat) : Bool := q.nest.any (fun x => x.o.wl.toNat == l)

/-- Does a command start the array (R168)? -/
def starts (q : Pipe) (op : MxOp) : Bool := op.port == 0 && !aWasBusy q

/-! ### Planning a command (R164, R166, R170 to R175) -/

/-- A command to be accepted, with its address, rows and pitches. -/
structure MxAsk where
  op   : MxOp
  wl   : Nat
  ac   : Nat
  /-- First accumulator or latch row, before the bounds check. -/
  ar   : Int
  rows : Nat
  va   : Nat
  apt  : Nat
  dpt  : Nat
  zr   : Bool
  src  : Nat
  /-- The repeat iteration, for the trap's AUX. -/
  it   : Nat

/-- The allotment of the running task (R21, R263): first row and row count. -/
def allotOf (p : State) (core : Nat) : Nat × Nat := match (archOf p core).task with
  | none => (0, 128)
  | some t => (t.alb, t.aln)

/-- Do the rows leave the allotment or pass row 127 (R172, R182)? -/
def outOfRows (p : State) (core : Nat) (m : MxAsk) : Bool :=
  let a := allotOf p core
  m.op.usesAcc && (decide (m.ar < a.1) || decide (((if a.1 + a.2 < 128 then a.1 + a.2 else 128 : Nat) : Int) < m.ar + m.rows))

/-- The format register of the bank that holds a slice row, as it stands (R301). -/
def regOf (p : State) (core row : Nat) : BitVec 32 := tget 0 (archOf p core).bfmt (row / 2048)

/-- Latch tag, bytes of a latch row and rate of a source format of `mlw` (R173). -/
def mlwForm (f : Nat) : Nat × Nat × Nat := match f with
  | 1 => (2, 512, 1)
  | 4 => (4, 128, 2)
  | 5 => (5, 64, 4)
  | 6 => (6, 128, 2)
  | 7 => (7, 64, 4)
  | _ => (2, 256, 1)

/-- Row rate and parts of a latch format (R166). -/
def passForm (f : Nat) : Nat × Nat := match f with
  | 2 => (1, 4)
  | 4 => (2, 2)
  | 6 => (2, 2)
  | _ => (4, 1)

/-- Does a latch pair with the format register of an A bank (R166)? -/
def pairs (w : WLatch) (g : BitVec 32) : Bool :=
  let f := rFmt g
  if w.fmt = 2 then f = 2 || f = 0 else f = w.fmt.toNat && (!isGq f || rG g == 32 * 2 ^ w.gs.toNat)

/-- Does an A row of a grouped bank begin at a group, with its headers in the slice (R49, R52)? -/
def atGroup (p : State) (core row parts : Nat) : Bool :=
  let g0 := regOf p core row
  (!isGq (rFmt g0) || decide (row % 2048 * (512 / bW (rFmt g0)) % rG g0 = 0)) &&
    (List.range parts).all (fun j => let g := regOf p core (row + j)
      scalesOk core g (row + j) (512 / bW (rFmt g) - 1))

/-- Does an A row pair with a latch (R166, R52)? -/
def aRowOk (p : State) (core : Nat) (w : WLatch) (row parts : Nat) : Bool :=
  (List.range parts).all (fun j => pairs w (regOf p core (row + j))) && atGroup p core row parts

/-- Parts of an A row in a bank of a format (R166). -/
def bankParts (f : Nat) : Nat := match f with
  | 4 => 2
  | 6 => 2
  | 5 => 1
  | 7 => 1
  | _ => 4

/-- Two parts of one array cycle in the same bank with the same row modulo 8 (R170). -/
def collides (l : List Nat) : Bool := match l with
  | [] => false
  | r :: t => t.any (fun x => x / 2048 == r / 2048 && x % 8 == r % 8) || collides t

/-- The first A row, if any, whose part collides within its array cycle (R170). -/
def collisionRow (a apt rows rho parts : Nat) : Option Nat :=
  let rowsOf := fun (lo n : Nat) => (List.range n).flatMap (fun i => (List.range parts).map (fun j => a + (lo + i) * apt + j))
  (List.range rows).find? (fun i => collides (rowsOf (i / rho * rho) (i % rho + 1)))

/-- A command as planned: what is accepted, the entries it went through, and the slice rows it reaches. -/
structure MxPlan where
  c    : MxCmd
  hots : List Nat
  own  : List Nat

/-- A trap of an engine command at its bundle. -/
def mxTrap (p : State) (h : Slot) (code : Nat) (va it : Nat) : Trap :=
  mkTrap p h code 4 (BitVec.ofNat 64 va) it

/-- The first and last physical address of a range and the entries they go through, or the trap (R136, R164). -/
def engRange (p : State) (h : Slot) (core : Nat) (a : Ask) (va n : Nat) : Except Trap (Nat × Nat × List Nat) :=
  match rangesFault p core [(a, va, n)] with
  | some t => .error (mxTrap p h t.1 t.2.toNat 0)
  | none =>
    let e := (rangeEnds a va n).map (fun x => (lookPa p core x.1 x.2).getD 0)
    .ok (e.headD 0, e.getLastD 0, rangeHots p core [(a, va, n)])

/-- Translate the first and the last byte of a range of the own slice (R164): the slice row of the first
byte and the entries. The rows between are taken to follow the first in the slice, whatever entry maps them. (DESIGN CHOICE, log
13) (DESIGN CHOICE, log 13) -/
def mxRange (p : State) (h : Slot) (core : Nat) (a : Ask) (va n : Nat) : Except Trap (Nat × List Nat) :=
  match engRange p h core a va n with
  | .error t => .error t
  | .ok r => .ok (paRow r.1, r.2.2)

/-- The slice rows of a drained row, each coded by its own bank: row, first element, count (R49, R177, R301).
(DEDUCED, log 47) -/
def drainRows (reg : Nat → BitVec 32) (row : Nat) : List (Nat × Nat × Nat) := coded reg 8 row 0 128

/-- How many bytes a drained row takes at a slice row (R177). -/
def drainBytes (p : State) (core row : Nat) : Nat :=
  (drainRows (regOf p core) row).foldl (fun n t => n + t.2.2 * bW (rFmt (regOf p core t.1)) / 8) 0

/-- Plan a command (R164 to R177): bounds, translation, bank conflicts, format errors. `b` carries what
the issuing slot captured. An `mscl` on an ungrouped latch, which has no G, reads one scale row (DESIGN CHOICE, log 101). -/
def planMx (p : State) (h : Slot) (core : Nat) (b : MxCmd) (m : MxAsk) : Except Trap MxPlan :=
  if outOfRows p core m then .error (mxTrap p h 8 0 m.it)
  else
    let d := if m.op = .mcop then (if mergedPt (ptNow p core) then 13 else 22)
             else (if mergedPt (ptNow p core) then 10 else 18)
    let w := tget WLatch.idle (archOf p core).w m.wl
    let c : MxCmd := { b with op := m.op, d := d, rows := m.rows, wl := m.wl, ac := m.ac, ar := m.ar.toNat
                              apt := m.apt, dpt := m.dpt, zr := m.zr, src := m.src
                              fmts := (archOf p core).bfmt }
    match m.op with
    | .mzr => .ok { c := { c with rho := 8 }, hots := [], own := [] }
    | .mlw =>
      let f := mlwForm (rFmt (regOf p core (paRow ((lookPa p core (askSrc true) m.va).getD 0))))
      match mxRange p h core (askSrc true) m.va (m.rows * f.2.1) with
      | .error t => .error t
      | .ok (a, l) => .ok { c := { c with a := a, rho := f.2.2, ferr := (List.range (m.rows * f.2.1 / 64)).any (fun i =>
                              rFmt (regOf p core (a + i)) = 8) }
                            hots := l, own := (List.range (m.rows * f.2.1 / 64)).map (fun i => a + i) }
    | .mscl =>
      let n := if isGq w.fmt.toNat then 8 * 128 / (32 * 2 ^ w.gs.toNat) else 1
      match mxRange p h core (askSrc true) m.va (64 * n) with
      | .error t => .error t
      | .ok (a, l) => .ok { c := { c with a := a, rows := n, rho := 4, ferr := !isGq w.fmt.toNat || (List.range n).any (fun i => rFmt (regOf p core (a + i)) = 8) }, hots := l
                            own := (List.range n).map (fun i => a + i) }
    | .mst =>
      let rowOf := fun (i : Nat) => paRow ((lookPa p core (askDst true) m.va).getD 0) + i * m.dpt
      match mxRange p h core (askDst true) m.va ((m.rows - 1) * m.dpt * 64 + drainBytes p core (rowOf (m.rows - 1))) with
      | .error t => .error t
      | .ok (a, l) =>
        let parts := fun (i : Nat) => drainRows (regOf p core) (rowOf i)
        let bad := fun (i : Nat) => (parts i).any (fun r => let g := regOf p core r.1
          rFmt g = 8 || !scalesOk core g r.1 (r.2.2 - 1))
        .ok { c := { c with a := a, rho := 1, ferr := (List.range m.rows).any bad }, hots := l
              own := (List.range m.rows).flatMap (fun i => (parts i).map (·.1)) }
    | _ =>
      let f := if m.op = .mmar then (1, 4) else passForm w.fmt.toNat
      if m.op = .mcop ∧ core % 4 ≠ m.src then
        .ok { c := { c with rho := f.1, ferr := false }, hots := [], own := [] }
      else
        match mxRange p h core (askSrc true) m.va (((m.rows - 1) * m.apt + f.2) * 64) with
        | .error t => .error t
        | .ok (a, l) =>
          match collisionRow a m.apt m.rows f.1 f.2 with
          | some i => .error (mxTrap p h 7 ((m.va + i * m.apt * 64) % 2 ^ 48) m.it)
          | none =>
            let ok := !(m.op = .mmar && w.fmt != 2) &&
              (List.range m.rows).all (fun i => aRowOk p core w (a + i * m.apt) f.2)
            .ok { c := { c with a := a, rho := f.1, ferr := !ok }, hots := l
                  own := (List.range m.rows).flatMap (fun i => (List.range f.2).map (fun j => a + i * m.apt + j)) }

/-- Rows, by address, in banks that the running launch does not own: a command accepted for them waits in its engine (R163,
R278). (DEDUCED, log 43) -/
def notOwned (p : State) (core : Nat) (rows : List Nat) : List Nat :=
  (rows.map (sliceRow p.pkg core)).filter (fun a => !ownsBank p core a)

/-- Accept a planned command (R168, R299): it stands behind what the commands before it wait for (R163).
(DEDUCED, log 43) -/
def acceptMx (s : State) (core : Nat) (x : MxPlan) : State :=
  let s1 := countHots s core x.hots
  let behind := (((archOf s core).main.pipe.mx.getLast?).map (fun y => y.lag + y.wait)).getD 0
  modStrm s1 { core := core, side := false } (fun y =>
    { y with pipe := { y.pipe with mx := y.pipe.mx ++ [{ x.c with bank := notOwned s core x.own, wait := behind }] } })

/-- What an `MX` slot captures at issue (R24, R37). (DESIGN CHOICE, log 48) -/
def mxBase (p : State) (h : Slot) (o : EnF) (op : MxOp) (opc : BitVec 8) (core : Nat) : MxCmd :=
  { op := op, slot := h.pos, opc := opc, pc := p.iss.pc, cf := o.cf, ce := o.ce == 1, num := nextNum p core 0
    sub := false, age := 0, rows := 0, next := 0, rho := 1, d := 18, wl := 0, ac := 0, ar := 0, a := 0, apt := 0
    dpt := 0, zr := false, src := 0, fmts := [], ferr := false, fz := p.iss.fz
    rm := capRm p { core := core, side := false }, en := capEn p { core := core, side := false }
    nsat := 0, ninv := 0, ninx := 0 }

/-- The request of iteration `j` of a command from staging words `w` (R172, R181). -/
def mxAsk (op : MxOp) (o : EnF) (w : Nat → Word) (base : Word) (j : Nat) : MxAsk :=
  let ad := fun (n lo : Nat) => (BitVec.ofInt 64 ((w n).toNat + base.toInt + j * sgn 16 (wf (w 3) lo 16) * 64)).toNat % 2 ^ 48
  { op := op, wl := o.wl.toNat, ac := o.ac.toNat
    ar := (wf o.prm 14 7 : Int) + (if op = .mlw then 0 else j * sgn 8 (wf (w 3) 48 8)), rows := wf o.prm 7 7 + 1
    va := match op with
      | .mlw => ad 1 16
      | .mscl => ad 1 16
      | .mst => ad 2 32
      | _ => ad 0 0
    apt := wf (w 4) 0 13, dpt := wf (w 4) 16 13, zr := o.prm.getLsbD 6, src := wf o.prm 5 2, it := j }

/-- A reserved bit in an address word (R171). -/
def badAddr (w : Word) : Bool := decide (wf w 48 16 ≠ 0)
/-- A reserved bit in word 4. -/
def badPitch (w : Word) : Bool := decide (wf w 29 35 ≠ 0) || decide (wf w 13 3 ≠ 0)

/-- Are the staging words that a command uses out of range (R164, R171)? Of the two pitches of word 4 the one that the form
does not use may hold any value; the spec does not say whether it is checked (DESIGN CHOICE, log 48). A receiver of `mcop` uses
none (R178). -/
def mxBad (op : MxOp) (w : Nat → Word) (rp recv : Bool) : Bool :=
  (rp && decide (wf (w 3) 56 8 ≠ 0)) || !recv &&
  match op with
  | .mzr => false
  | .mlw => badAddr (w 1)
  | .mscl => badAddr (w 1)
  | .mst => badAddr (w 2) || badPitch (w 4) || decide (wf (w 4) 16 13 = 0)
  | _ => badAddr (w 0) || badPitch (w 4) || decide (wf (w 4) 0 13 = 0)

/-- Condition 5 of a command of the array (R59, R168): its port and latch in drain cycles, then its token
frozen. -/
def needArray (p : State) (core : Nat) (ready needTok : Bool) (r : SlotRes) : SlotRes :=
  if passed p 5 then r
  else if !ready then .hold 5 true .plain
  else if needTok && !(archOf p core).tok.stGot then .hold 5 false .token
  else r

/-- The start token is consumed by the command it was granted for (R230). -/
def useToken (s : State) (core : Nat) : State :=
  modArch s core (fun a => { a with tok := { a.tok with stGot := false } })

/-- Start the continuation of an `rp` bundle (R181). -/
def startRep (p s : State) (core : Nat) (h : Slot) (opc : BitVec 8) (o : EnF) : State :=
  let n := (archOf p core).main.rc.toNat
  if p.iss.rp ∧ 1 < n then
    let r : Rep := { slot := h, opc := opc, o := o, j := 1, left := n - 1, fz := p.iss.fz
                     rm := capRm p { core := core, side := false }, en := capEn p { core := core, side := false }
                     pc := p.iss.pc, base := rs p o.sa, set := tget [] (archOf p core).shd 0 }
    modStrm s { core := core, side := false } (fun y => { y with pipe := { y.pipe with rep := some r } })
  else s

/-- A command of the three ports at its bundle (R164, R168, R172, R181). -/
def mxGo (op : MxOp) (opc : BitVec 8) (h : Slot) (o : EnF) (p s : State) : SlotRes :=
  let core := p.focus.core
  let q := (archOf p core).main.pipe
  let w := shWord p core 0
  if p.iss.rp && (archOf p core).main.rc = 0 then .ok s
  else
    needArray p core (mxReady q op o.wl.toNat && q.nest.isNone) (starts q op) <|
    if mxBad op w p.iss.rp (op == .mcop && core % 4 != wf o.prm 5 2) then illegalAtIssue p h
    else match planMx p h core (mxBase p h o op opc core) (mxAsk op o w (rs p o.sa) 0) with
      | .error t => .trap t
      | .ok x =>
        if p.iss.rp && decide (x.c.rho < x.c.rows) then illegalAtIssue p h
        else
          let s1 := copySet p (countCmd s core 0) core 0
          let s2 := if op.port = 0 then useToken s1 core else s1
          .ok (startRep p (acceptMx s2 core x) core h opc o)

/-- `mlw`: loads latch rows from a bank (R173). -/
def issueMlw (h : Slot) (o : EnF) (p s : State) : SlotRes :=
  mxGo .mlw 1 h o p s

/-- The step of `mlw`. -/
def execMlw (h : Slot) (o : EnF) (s : State) : Host.Outcome State Fault Refusal :=
  slotStep h (issueMlw h o) s

/-- `mma`: streams A rows through a latch (R175). -/
def issueMma (h : Slot) (o : EnF) (p s : State) : SlotRes :=
  mxGo .mma 2 h o p s

/-- The step of `mma`. -/
def execMma (h : Slot) (o : EnF) (s : State) : Host.Outcome State Fault Refusal :=
  slotStep h (issueMma h o) s

/-- `mmar`: the backward pass through a BF16 latch (R175). -/
def issueMmar (h : Slot) (o : EnF) (p s : State) : SlotRes :=
  mxGo .mmar 3 h o p s

/-- The step of `mmar`. -/
def execMmar (h : Slot) (o : EnF) (s : State) : Host.Outcome State Fault Refusal :=
  slotStep h (issueMmar h o) s

/-- `mzr`: zeroes accumulator rows (R177). -/
def issueMzr (h : Slot) (o : EnF) (p s : State) : SlotRes :=
  mxGo .mzr 4 h o p s

/-- The step of `mzr`. -/
def execMzr (h : Slot) (o : EnF) (s : State) : Host.Outcome State Fault Refusal :=
  slotStep h (issueMzr h o) s

/-- `mst`: drains accumulator rows to the own slice (R177). -/
def issueMst (h : Slot) (o : EnF) (p s : State) : SlotRes :=
  mxGo .mst 5 h o p s

/-- The step of `mst`. -/
def execMst (h : Slot) (o : EnF) (s : State) : Host.Outcome State Fault Refusal :=
  slotStep h (issueMst h o) s

/-- `mscl`: loads the resident scales of a grouped latch (R174). -/
def issueMscl (h : Slot) (o : EnF) (p s : State) : SlotRes :=
  mxGo .mscl 6 h o p s

/-- The step of `mscl`. -/
def execMscl (h : Slot) (o : EnF) (s : State) : Host.Outcome State Fault Refusal :=
  slotStep h (issueMscl h o) s

/-! ### The broadcast pass (R178) -/

/-- The row counts of the broadcasts from a source position of which a core buffers the first row. -/
def freshCasts (s : State) (core src : Nat) : List Nat :=
  ((archOf s core).bcast.filter (fun x => x.src == src && x.row == 0)).map (·.count)

/-- The `mcop` commands of a core that receive from a source position and have taken no row yet, in order. -/
def freshCops (s : State) (core src : Nat) : List MxCmd :=
  (archOf s core).main.pipe.mx.filter (fun x => x.op == .mcop && x.src == src && x.next == 0 && core % 4 != src)

/-- The class-violation trap of a broadcast whose row count differs from its receiver's (R178), for the broadcast and the
receiver at place `i` of those that wait for each other; it has no virtual address, and the spec gives neither its slot nor its
argument: slot 31 and TARG 0 (DESIGN CHOICE, log 54). -/
def copMismatch (s : State) (core src i : Nat) : State :=
  match (freshCops s core src)[i]?, (freshCasts s core src)[i]? with
  | some x, some n =>
    if x.rows = n then s
    else modStrm s { core := core, side := false } (fun y =>
      { y with pend := y.pend ++ [(BitVec.ofNat 64 (6 + 31 * 2 ^ 8), y.pc, 0)] })
  | _, _ => s

/-- `mcop`: one pass over A rows broadcast from one core of the copse (R178). -/
def issueMcop (h : Slot) (o : EnF) (p s : State) : SlotRes :=
  let core := p.focus.core
  let src := wf o.prm 5 2
  let n := (freshCops p core src).length
  match mxGo .mcop 8 h o p s with
  | .ok t => .ok (if n < (freshCops t core src).length then copMismatch t core src n else t)
  | r => r

/-- The step of `mcop`. -/
def execMcop (h : Slot) (o : EnF) (s : State) : Host.Outcome State Fault Refusal :=
  slotStep h (issueMcop h o) s

/-! ### The nest (R180) -/

/-- Count of a nest level; 0 marks it absent (R171). -/
def nestCnt (cur : Tbl Word) (l : Nat) : Nat := wf (tget 0 cur (8 + 2 * l)) 0 16
/-- Action bit of a nest level: 0 reload, 1 zero, 2 drain. -/
def nestAct (cur : Tbl Word) (l b : Nat) : Bool := (tget 0 cur (9 + 2 * l)).getLsbD (8 + b)
/-- The levels inside `l` that are present. -/
def innerLevels (cur : Tbl Word) (l : Nat) : List Nat := (List.range l).filter (fun m => nestCnt cur m != 0)
/-- Does an iteration of level `l` begin at an index vector? -/
def nestBegins (cur : Tbl Word) (idx : List Nat) (l : Nat) : Bool :=
  nestCnt cur l != 0 && (innerLevels cur l).all (fun m => idx.getD m 0 == 0)
/-- Does an iteration of level `l` end at an index vector? -/
def nestEnds (cur : Tbl Word) (idx : List Nat) (l : Nat) : Bool :=
  nestCnt cur l != 0 && (innerLevels cur l).all (fun m => idx.getD m 0 + 1 == nestCnt cur m)

/-- The internal commands of one index vector, in order. -/
def nestSeq (cur : Tbl Word) (bk : Bool) (idx : List Nat) : List MxOp :=
  ([5, 4, 3, 2, 1, 0].flatMap (fun l => if nestBegins cur idx l then
    (if nestAct cur l 0 then [MxOp.mlw] else []) ++ (if nestAct cur l 1 then [MxOp.mzr] else []) else [])) ++
  [if bk then MxOp.mmar else MxOp.mma] ++
  ([0, 1, 2, 3, 4, 5].flatMap (fun l => if nestEnds cur idx l && nestAct cur l 2 then [MxOp.mst] else []))

/-- The next index vector, innermost level fastest; none after the last. -/
def nestInc (cur : Tbl Word) : Nat → List Nat → Option (List Nat)
  | _, [] => none
  | l, i :: t =>
    if nestCnt cur l ≠ 0 ∧ i + 1 < nestCnt cur l then some ((i + 1) :: t)
    else (nestInc cur (l + 1) t).map (fun t' => 0 :: t')

/-- The request of an internal command at an index vector. -/
def nestAsk (cur : Tbl Word) (x : Nest) (op : MxOp) : MxAsk :=
  let ad := fun (n : Nat) (b : Int) (lo : Nat) =>
    (BitVec.ofInt 64 ((tget 0 cur n).toNat + b + 64 * nestSum cur x.idx 0 lo 16)).toNat % 2 ^ 48
  { op := op, wl := x.o.wl.toNat, ac := x.o.ac.toNat
    ar := if op = .mlw then 0 else (wf x.o.prm 13 7 : Int) + nestSum cur x.idx 1 0 8
    rows := if op = .mlw then 128 else wf x.o.prm 6 7 + 1
    va := match op with
      | .mlw => ad 1 0 32
      | .mst => ad 2 0 48
      | _ => ad 0 x.base.toInt 16
    apt := wf (tget 0 cur 4) 0 13, dpt := wf (tget 0 cur 4) 16 13, zr := false, src := 0, it := 0 }

/-- Move a nest past the internal command it has issued. (DEDUCED, log 42) -/
def nestNext (cur : Tbl Word) (x : Nest) : Nest :=
  if x.pos + 1 < (nestSeq cur (x.o.prm.getLsbD 20) x.idx).length then { x with pos := x.pos + 1 }
  else match nestInc cur 0 x.idx with
    | some i => { x with idx := i, pos := 0 }
    | none => { x with tail := true }

/-- What the nest issues in this counted cycle, if R168 allows: one internal command, or a request for its
start token (R180). `p` is the state that acceptance reads, `s` the one it changes. -/
def nestGo (p s : State) (core : Nat) (x : Nest) : SlotRes :=
  let q := (archOf p core).main.pipe
  let cur := x.set
  if x.tail then .ok s
  else match (nestSeq cur (x.o.prm.getLsbD 20) x.idx)[x.pos]? with
    | none => .ok s
    | some op =>
      if !mxReady q op x.o.wl.toNat then .ok s
      else if starts q op && !(archOf p core).tok.stGot then .ok (requestToken s core true)
      else
        let b : MxCmd := { mxBase p x.slot x.o op 7 core with cf := 0, ce := false, sub := true, pc := x.pc
                                                              fz := x.fz, rm := x.rm, en := x.en }
        match planMx p x.slot core b (nestAsk cur x op) with
        | .error t => .trap t
        | .ok y =>
          let s1 := if op.port = 0 then useToken s core else s
          .ok (modStrm (acceptMx s1 core y) { core := core, side := false } (fun z =>
            { z with pipe := { z.pipe with nest := some (nestNext cur x) } }))

/-- Are the staging words of a nest out of range (R164, R171)? -/
def nestBad (w : Nat → Word) : Bool :=
  let present := (List.range 6).filter (fun l => decide (wf (w (8 + 2 * l)) 0 16 ≠ 0))
  let act := fun (b : Nat) => present.any (fun l => (w (9 + 2 * l)).getLsbD (8 + b))
  badAddr (w 0) || badPitch (w 4) || decide (wf (w 4) 0 13 = 0) || (act 0 && badAddr (w 1)) ||
    (act 2 && (badAddr (w 2) || decide (wf (w 4) 16 13 = 0))) ||
    present.any (fun l => decide (wf (w (9 + 2 * l)) 11 53 ≠ 0))

/-- `mnest`: runs a nest of passes from the staging set; its first internal command issues in its own
counted cycle when R168 allows (R180). (DEDUCED, log 42) -/
def issueMnest (h : Slot) (o : EnF) (p s : State) : SlotRes :=
  let core := p.focus.core
  let q := (archOf p core).main.pipe
  let w := shWord p core 0
  let l := o.wl.toNat
  let rl := (List.range 6).any (fun n => decide (wf (w (8 + 2 * n)) 0 16 ≠ 0) && (w (9 + 2 * n)).getLsbD 8)
  needArray p core (q.nest.isNone && !portBusy q 0 && !portBusy q 1 && !portBusy q 2 && !latchWr q l &&
    !(rl && latchRd q l)) false <|
  if nestBad w then illegalAtIssue p h
  else
    let s1 := copySet p (countCmd s core 0) core 0
    let x : Nest := { slot := h, o := o, idx := [0, 0, 0, 0, 0, 0], pos := 0, tail := false, base := rs p o.sa
                      set := tget [] (archOf p core).shd 0, fz := p.iss.fz, rm := capRm p p.focus, en := capEn p p.focus
                      pc := p.iss.pc, num := nextNum p core 0, nsat := 0, ninv := 0, ninx := 0, ferr := false }
    let s2 := modStrm s1 { core := core, side := false } (fun y => { y with pipe := { y.pipe with nest := some x } })
    nestGo p s2 core x

/-- The step of `mnest`. -/
def execMnest (h : Slot) (o : EnF) (s : State) : Host.Outcome State Fault Refusal :=
  slotStep h (issueMnest h o) s

/-! ### Continuations (R180 to R182) -/

/-- The command of a repeat by its opcode (R181). -/
def repOp (opc : BitVec 8) : MxOp := match opc.toNat with
  | 1 => .mlw
  | 2 => .mma
  | 3 => .mmar
  | 4 => .mzr
  | _ => .mst

/-- What the running repeat or nest issues in the counted cycle about to open (R180 to R182): an
iteration, an internal command, or nothing; a trap is precise at the bundle of that cycle. (DEDUCED, log 45) -/
def contMx (p s : State) (core : Nat) : SlotRes :=
  let q := (archOf p core).main.pipe
  match q.rep with
  | some r =>
    let op := repOp r.opc
    let b : MxCmd := { mxBase p r.slot r.o op r.opc core with pc := r.pc, fz := r.fz, rm := r.rm, en := r.en }
    (match planMx p r.slot core b (mxAsk op r.o (fun n => tget 0 r.set n) r.base r.j) with
    | .error t => .trap t
    | .ok x =>
      let r' := if r.left ≤ 1 then none else some { r with j := r.j + 1, left := r.left - 1 }
      .ok (modStrm (acceptMx (countCmd s core 0) core x) { core := core, side := false } (fun y =>
        { y with pipe := { y.pipe with rep := r' } })))
  | none =>
    match q.nest with
    | some x => nestGo p s core x
    | none => .ok s

/-! ### Row stages (R167, R169, R173 to R178) -/

/-- What one row stage comes to: the state, the flags it raises, what it counts, a poisoned row read. -/
structure RowOut where
  s    : State
  f    : Flags
  c    : Cnt
  bad  : Option Nat
  /-- A receiver finds that its latch does not pair with the broadcast rows (R166, R178). -/
  ferr : Bool

/-- A row stage without any of that. -/
def rowOut (s : State) : RowOut := { s := s, f := 0, c := Cnt.zero, bad := none, ferr := false }

/-- Replace the low `n` bits of a latch row. -/
def latchRow (old : BitVec 2048) (n v : Nat) : BitVec 2048 :=
  BitVec.ofNat 2048 (old.toNat / 2 ^ n * 2 ^ n + v % 2 ^ n)

/-- Row `i` of an `mlw` (R173). Its format, group size and rate are those of the bank of its first row (DEDUCED, log 49). -/
def stageMlw (s : State) (core mark : Nat) (x : MxCmd) (i : Nat) : RowOut :=
  let reg := tget 0 x.fmts (x.a / 2048)
  let f := mlwForm (rFmt reg)
  let n := f.2.1 / 64
  let raw := arrRows s core mark (x.a + i * n) n
  let sf := rFmt reg
  let cv := (elemsN (bW sf) 128 raw).map (fun e => fConv (if sf = 1 then fp32 else fp16) bf16 0 false e)
  let conv := sf = 1 || sf = 3
  let v := if conv then joinN 16 (cv.map (·.1)) else raw
  let cn := if conv then cv.foldl (fun a r => a.plus (cntOf r.2 false)) Cnt.zero else Cnt.zero
  let bits := 128 * (if f.1 = 2 then 16 else bW f.1)
  let k := x.ar + i
  let put := fun (w : WLatch) =>
    let w1 := if i = 0 then { w with fmt := BitVec.ofNat 4 f.1, gs := BitVec.ofNat 2 (wf reg 8 2) } else w
    { w1 with rows := tput w1.rows k (latchRow (tget 0 w1.rows k) bits v) }
  { s := modArch s core (fun a => { a with w := tmod WLatch.idle a.w x.wl put }), f := 0, c := cn
    bad := arrBad s core mark (x.a + i * n) n, ferr := false }

/-- Scale row `i` of an `mscl` (R174). (DEDUCED, log 47) -/
def stageMscl (s : State) (core mark : Nat) (x : MxCmd) (i : Nat) : RowOut :=
  let r := arrRow s core mark (sliceRow s.pkg core (x.a + i))
  let put := fun (w : WLatch) => { w with scales := tput w.scales i r }
  { rowOut (modArch s core (fun a => { a with w := tmod WLatch.idle a.w x.wl put })) with
    bad := arrBad s core mark (x.a + i) 1 }

/-- An accumulator row of a core. (DESIGN CHOICE, log 6) -/
def accRow (s : State) (core ac r : Nat) : AccRow :=
  tget { int := false, bits := 0 } (tget [] (archOf s core).acc ac) r

/-- Set an accumulator row. -/
def setAcc (s : State) (core ac r : Nat) (v : AccRow) : State :=
  modArch s core (fun a => { a with acc := tmod [] a.acc ac (fun t => tput t r v) })

/-- The 128 results of one A row through a latch (R175), with the flags of all. (DEDUCED, log 47) -/
def passRow (mmar fz : Bool) (w : WLatch) (ha : Nat → Nat) (a : List Nat) (acc : Nat → Nat) : List (Nat × Flags) :=
  let f := w.fmt.toNat
  let wd := if f = 2 then 16 else bW f
  let rows := (List.range 128).map (fun k => (tget 0 w.rows k).toNat)
  let col := fun (n : Nat) => rows.map (fun r => fld r (n * wd) wd)
  if mmar then
    (List.range 128).map (fun k => passF fz (a.zip (elemsN 16 128 (rows.getD k 0))) (acc k))
  else if f = 2 then (List.range 128).map (fun n => passF fz (a.zip (col n)) (acc n))
  else if isGq f then
    let g := 32 * 2 ^ w.gs.toNat
    (List.range 128).map (fun n => passG fz wd g ha
      (fun j => fld (tget 0 w.scales ((j * 128 + n) / 16)).toNat (32 * (n % 16)) 32) (a.zip (col n)) (acc n))
  else (List.range 128).map (fun n => passI wd (a.zip (col n)) (acc n))

/-- The header of element `e` of a row of grouped elements that begins at slice row `row`: that of its group in the bank in
which its part lies (R46). -/
def elemHdr (s : State) (core mark : Nat) (fmts : Tbl (BitVec 32)) (w row e : Nat) : Nat :=
  let r := row + e * w / 512
  let reg := tget 0 fmts (r / 2048)
  hdrAt s core mark reg (groupOf reg r (e % (512 / w)))

/-- The headers of the groups of an A row in its own slice (R46, R52). -/
def rowHdrs (s : State) (core mark : Nat) (x : MxCmd) (row : Nat) : List Nat :=
  let reg := tget 0 x.fmts (row / 2048)
  if isGq (rFmt reg) then (List.range (128 / rG reg)).map (fun j => elemHdr s core mark x.fmts (bW (rFmt reg)) row (j * rG reg))
  else []

/-- The pass of A row `i`, given as a number with the headers of its groups, into its accumulator row (R175, R176): a row
that raises an enabled exception is not written. -/
def stagePass (s : State) (core : Nat) (x : MxCmd) (i raw : Nat) (hd : List Nat) : RowOut :=
  let w := tget WLatch.idle (archOf s core).w x.wl
  let f := w.fmt.toNat
  let wd := if f = 2 then 16 else bW f
  let old := accRow s core x.ac (x.ar + i)
  let l := passRow (x.op == .mmar) x.fz w (fun j => hd.getD j 0) (elemsN wd 128 raw)
    (fun n => fld old.bits.toNat (32 * n) 32)
  let fl := l.foldl (fun a r => a ||| r.2) 0
  let new : AccRow := { int := f = 4 || f = 5, bits := BitVec.ofNat 4096 (joinN 32 (l.map (·.1))) }
  { rowOut (if raisesTrap fl x.en then s else setAcc s core x.ac (x.ar + i) new) with f := fl }

/-- The parts of an A row for a latch format. -/
def aParts (s : State) (core : Nat) (x : MxCmd) : Nat :=
  if x.op = .mmar then 4 else (passForm (tget WLatch.idle (archOf s core).w x.wl).fmt.toNat).2

/-- The first poisoned scale row that the first `n` elements of each of some slice rows read (R392). -/
def hdrBad (s : State) (core mark : Nat) (fmts : Tbl (BitVec 32)) (l : List (Nat × Nat)) : Option Nat :=
  (l.flatMap (fun t =>
    let reg := tget 0 fmts (t.1 / 2048)
    if isGq (rFmt reg) then [0, t.2 - 1].map (fun e => rSb reg + groupOf reg t.1 e / 16) else [])).findSome?
    (fun r => arrBad s core mark r 1)

/-- The first poisoned row, or scale row, that an A row of `n` parts reads (R392). -/
def aRowBad (s : State) (core mark : Nat) (fmts : Tbl (BitVec 32)) (row n : Nat) : Option Nat :=
  (arrBad s core mark row n).or (hdrBad s core mark fmts
    ((List.range n).map (fun j => (row + j, 512 / bW (rFmt (tget 0 fmts ((row + j) / 2048)))))))

/-- A pass row read from the own slice. -/
def stageOwn (s : State) (core mark : Nat) (x : MxCmd) (i : Nat) : RowOut :=
  let n := aParts s core x
  let row := x.a + i * x.apt
  { stagePass s core x i (arrRows s core mark row n) (rowHdrs s core mark x row) with
    bad := aRowBad s core mark x.fmts row n }

/-- The crown cores of a core's copse other than itself (R178). -/
def copsemates (core : Nat) : List Nat :=
  ((List.range 4).map (fun j => core / 4 * 4 + j)).filter (· != core)

/-- Send a broadcast row to the other cores of the copse (R178). -/
def castRow (s : State) (core : Nat) (y : Cast) : State :=
  (copsemates core).foldl (fun s c =>
    let s1 := modArch s c (fun a => { a with bcast := a.bcast ++ [y] })
    if y.row = 0 then copMismatch s1 c y.src (freshCasts s c y.src).length else s1) s

/-- Forget the first broadcast row from a source. -/
def dropCast (src : Nat) : List Cast → List Cast
  | [] => []
  | x :: t => if x.src = src then t else x :: dropCast src t

/-- The broadcast of row `i` by its source, which reads it whatever its own latch holds (R178). -/
def castOf (s : State) (core mark : Nat) (x : MxCmd) (i : Nat) : Cast :=
  let fm := fun (r : Nat) => tget 0 x.fmts (r / 2048)
  let row := x.a + i * x.apt
  let n := fun (r : Nat) => bankParts (rFmt (fm r))
  let p := modArch s core (fun a => { a with bfmt := x.fmts })
  let rows := (List.range x.rows).map (fun j => x.a + j * x.apt)
  { src := x.src, row := i, count := x.rows
    parts := (List.range (n row)).map (fun j => arrRow s core mark (sliceRow s.pkg core (row + j)))
    regs := (rows.flatMap (fun r => (List.range (n r)).map (fun j => fm (r + j)))).eraseDups
    atGrp := rows.all (fun r => atGroup p core r (n r)), hdrs := rowHdrs s core mark x row }

/-- Row `i` of an `mcop` (R178): the source reads and broadcasts, a receiver takes the row it buffers. -/
def stageCop (s : State) (core mark : Nat) (x : MxCmd) (i : Nat) : RowOut :=
  if core % 4 = x.src then
    let row := x.a + i * x.apt
    let r := if x.ferr then { rowOut s with bad := aRowBad s core mark x.fmts row (bankParts (rFmt (tget 0 x.fmts (row / 2048)))) }
             else stageOwn s core mark x i
    { r with s := castRow r.s core (castOf s core mark x i) }
  else match (archOf s core).bcast.find? (fun y => y.src == x.src) with
    | none => rowOut s
    | some y =>
      let s1 := modArch s core (fun a => { a with bcast := dropCast x.src a.bcast })
      let ok := y.atGrp && y.regs.all (pairs (tget WLatch.idle (archOf s core).w x.wl))
      if x.ferr || !ok then { rowOut s1 with ferr := true }
      else stagePass s1 core x i (joinN 512 (y.parts.map (·.toNat))) y.hdrs

/-- The elements of an accumulator row that one slice row of a drain takes, encoded for its bank (R49, R177). -/
def drainPart (s : State) (core mark : Nat) (fmts : Tbl (BitVec 32)) (a : AccRow) (t : Nat × Nat × Nat) : List (Nat × Cnt) :=
  let reg := tget 0 fmts (t.1 / 2048)
  (List.range t.2.2).map (fun j =>
    let v := fld a.bits.toNat (32 * (t.2.1 + j)) 32
    encodeE (rFmt reg) (if isGq (rFmt reg) then hdrAt s core mark reg (groupOf reg t.1 j) else 0)
      (if a.int then .int (sgn 32 v) else .flt v))

/-- Drained row `i` of an `mst` (R177). -/
def stageMst (s : State) (core mark : Nat) (x : MxCmd) (i : Nat) : RowOut :=
  let reg := fun (r : Nat) => tget 0 x.fmts (r / 2048)
  let a := accRow s core x.ac (x.ar + i)
  let rows := drainRows reg (x.a + i * x.dpt)
  let l := rows.map (fun t => (t, drainPart s core mark x.fmts a t))
  let s1 := l.foldl (fun s y => let w := bW (rFmt (reg y.1.1))
    arrWriteN s core mark y.1.1 (joinN w (y.2.map (·.1))) 1 (y.1.2.2 * w / 8)) s
  { rowOut (if x.zr then setAcc s1 core x.ac (x.ar + i) { int := false, bits := 0 } else s1) with
    c := l.foldl (fun c y => y.2.foldl (fun c r => c.plus r.2) c) Cnt.zero
    bad := hdrBad s core mark x.fmts (rows.map (fun t => (t.1, t.2.2))) }

/-- The row stage of row `i` of a command. (DEDUCED, log 47) -/
def stageRow (s : State) (core mark : Nat) (x : MxCmd) (i : Nat) : RowOut :=
  match x.op with
  | .mlw => stageMlw s core mark x i
  | .mscl => stageMscl s core mark x i
  | .mzr => rowOut (setAcc s core x.ac (x.ar + i) { int := false, bits := 0 })
  | .mst => stageMst s core mark x i
  | .mcop => stageCop s core mark x i
  | _ => stageOwn s core mark x i

/-- Raise flags in `FPC` (R24). -/
def orFpc (s : State) (core : Nat) (f : Flags) : State :=
  modArch s core (fun a => { a with fpc := a.fpc ||| flagsInFpc f })

/-- Is an FP trap pending? -/
def fpPending (x : Stream) : Bool := x.pend.any (fun t => wf t.1 0 8 == 11)

/-- Note a trap for the next boundary; of one cycle's FP traps the earliest-issued stands (R41). A consumed error poisons
its row (R392). (DEDUCED, log 34) -/
def notePend (s : State) (k : Sid) (code slot aux : Nat) (tfa : BitVec 48) (targ : Word) : State :=
  modStrm (if code = 18 then meetError s targ.toNat else s) k (fun x =>
    if code = 11 ∧ fpPending x then x
    else { x with pend := x.pend ++ [(BitVec.ofNat 64 (code + slot * 2 ^ 8 + aux * 2 ^ 16), tfa, targ)] })

/-- Change the matrix command at place `n`. -/
def modMx (s : State) (core n : Nat) (g : MxCmd → MxCmd) : State :=
  modStrm s { core := core, side := false } (fun y => { y with pipe := { y.pipe with mx := y.pipe.mx.modify n g } })

/-- One row stage of the command at place `n` with its consequences (R175, R176, R392), and whether the command is held
behind the row by an exception it enables. -/
def runStage (core mark n : Nat) (s : State) (i : Nat) : State × Bool :=
  match (archOf s core).main.pipe.mx[n]? with
  | none => (s, false)
  | some x =>
    if x.ferr && x.op != .mcop then (modMx s core n (fun y => { y with next := i + 1 }), false)
    else
      let r := stageRow s core mark x i
      match r.bad with
      | some pa =>
        (notePend (modMx s core n (fun y => { y with next := i + 1, ferr := true })) { core := core, side := false } 18
          x.slot.toNat 3 x.pc (BitVec.ofNat 64 pa), false)
      | none =>
        let s1 := modMx (orFpc r.s core r.f) core n (fun y =>
          { y with next := i + 1, nsat := y.nsat + r.c.sat, ninv := y.ninv + r.c.inv, ninx := y.ninx + r.c.inx
                   ferr := y.ferr || r.ferr })
        if raisesTrap r.f x.en then (notePend s1 { core := core, side := false } 11 x.slot.toNat i x.pc 0, true) else (s1, false)

/-- Row stages of one command in a counted cycle; a row that traps holds the rest until the return (R176). -/
def runStages (core mark n : Nat) : List Nat → State → State
  | [], s => s
  | i :: t, s => let r := runStage core mark n s i
    if r.2 then r.1 else runStages core mark n t r.1

/-- The rows a command stages in the open counted cycle (R167), those that a trap has held back among them (R176). -/
def dueRows (x : MxCmd) : List Nat :=
  let n := (x.age - x.d) * x.rho
  (List.range (if n < x.rows then n else x.rows)).filter (fun i => decide (x.next ≤ i))

/-- The row stages of a core in the open counted cycle, earlier-issued commands first (R169). -/
def mxStages (s : State) (core mark : Nat) : State :=
  (List.range (archOf s core).main.pipe.mx.length).foldl (fun s n =>
    match (archOf s core).main.pipe.mx[n]? with
    | none => s
    | some x => runStages core mark n (dueRows x) s) s

/-- Does the array hold the core at the counted cycle about to open: a receiver's row has not arrived, or a
receiver has no room for the source's row (R178)? -/
def copLate (s : State) (core : Nat) : Bool :=
  let a := archOf s core
  a.main.pipe.mx.any (fun x => x.op == .mcop && !(dueRows x).isEmpty &&
    (if core % 4 = x.src then
        (copsemates core).any (fun c => decide (16 < (archOf s c).bcast.length + (dueRows x).length))
      else decide ((a.bcast.filter (fun y => y.1 == x.src)).length < (dueRows x).length)))

/-! ### Completion (R165, R180) -/

/-- A command that completes in the open counted cycle. (DEDUCED, log 45) -/
def mxEnds (x : MxCmd) : Bool := decide (x.d + x.span ≤ x.age) && decide (x.rows ≤ x.next)

/-- The status of a command of the array. -/
def mxSts (ferr : Bool) : Nat := if ferr then 1 else 0

/-- Complete one command: its flag and record, or its report to the nest (R165, R180). -/
def endMx (core : Nat) (s : State) (x : MxCmd) : State :=
  if x.sub then
    modStrm s { core := core, side := false } (fun y => { y with pipe := { y.pipe with
      nest := y.pipe.nest.map (fun z => { z with nsat := z.nsat + x.nsat, ninv := z.ninv + x.ninv
                                                 ninx := z.ninx + x.ninx, ferr := z.ferr || x.ferr }) } })
  else complete s core 0 x.opc.toNat x.cf x.ce x.num (mxSts x.ferr) { sat := x.nsat, inv := x.ninv, inx := x.ninx }

/-- Complete the nest when the last of its internal commands has (R180). (DEDUCED, log 42) -/
def endNest (s : State) (core : Nat) : State :=
  let q := (archOf s core).main.pipe
  match q.nest with
  | none => s
  | some x =>
    if x.tail && !q.mx.any (·.sub) then
      complete (modStrm s { core := core, side := false } (fun y => { y with pipe := { y.pipe with nest := none } })) core 0 7
        x.o.cf (x.o.ce == 1) x.num (mxSts x.ferr) { sat := x.nsat, inv := x.ninv, inx := x.ninx }
    else s

/-- The first command, if any, that stands in the array in a counted cycle: its turn has come, and it waits for a bank (R163,
R278). (DEDUCED, log 43) -/
def mxStands (s : State) (core : Nat) (l : List MxCmd) : Option Nat :=
  l.findIdx? (fun x => x.age == 0 && x.wait == 0 && x.bank.any (fun a => !ownsBank s core a))

/-- A command after a counted cycle: it has stood, behind the banks that another waits for or for its own, or it has waited for
its turn, or it has run (R163, R167). (DEDUCED, log 43) -/
def MxCmd.tick (x : MxCmd) (stands : Bool) : MxCmd :=
  if stands then { x with lag := x.lag + 1 }
  else if 0 < x.wait then { x with lag := x.lag + 1, wait := x.wait - 1 }
  else { x with age := x.age + 1, bank := [] }

/-- The commands of the array after a counted cycle: from the first that stands, all of them stand. (DEDUCED, log 43) -/
def mxTick (s : State) (core : Nat) (l : List MxCmd) : List MxCmd :=
  match mxStands s core l with
  | none => l.map (·.tick false)
  | some n => (l.take n).map (·.tick false) ++ (l.drop n).map (·.tick true)

/-- The completions of the array in the open counted cycle; the other commands age (R165, R167). -/
def mxCompletions (s : State) (core : Nat) : State :=
  let l := (archOf s core).main.pipe.mx
  let s1 := modStrm s { core := core, side := false } (fun y => { y with pipe := { y.pipe with
    mx := mxTick s core (l.filter (fun x => !mxEnds x)) } })
  endNest ((l.filter mxEnds).foldl (endMx core) s1) core

/-! ### The stack product (R179) -/

/-- Exact product of a B element and an A element of `smv`, under the captured `fz` (R37). -/
def smvPair (fz : Bool) (fmt : Nat) (b h a : Nat) : FpVal × Flags :=
  let av := fpRead bf16 fz a
  if fmt = 0 then fpMul (fpRead bf16 fz b) av
  else
    let d := sgn (if fmt = 1 then 8 else 4) b - hdrZp h
    let e := fpMul (hdrSc h) (.fin (decide (d < 0)) d.natAbs 0)
    let r := fpMul e.1 av
    (r.1, e.2 ||| r.2)

/-- A chunk of eight products summed exactly and rounded once (R50, R179). -/
def smvChunk (fz : Bool) (l : List (FpVal × Flags)) : Nat × Flags :=
  let r := l.foldl (fun (z : Option FpVal × Flags) x =>
    match z.1 with
    | none => (some x.1, z.2 ||| x.2)
    | some v => let t := fpAdd 0 v x.1
                (some t.1, z.2 ||| x.2 ||| t.2)) (none, 0)
  match r.1 with
  | some (.nan _) => (fp32.qnan, fInv)
  | some v => let c := fpWrite fp32 0 fz v
              (c.1, c.2 ||| r.2)
  | none => (0, 0)

/-- Element `i` of width `w` bits from a physical address. -/
def memElem (s : State) (pa w i : Nat) : Nat :=
  let bit := i * w
  fld (readN s.mem (canon (pa + bit / 8)) 4) (bit % 8) w

/-- y[n] of an `smv` command (R179). The A vector's bits are BF16 whatever the format of their bank (DEDUCED, log 49). -/
def smvY (s : State) (x : SmvCmd) (n : Nat) : Nat × Flags :=
  let fmt := x.fmt.toNat
  let w := if fmt = 0 then 16 else if fmt = 1 then 8 else 4
  let g := 32 * 2 ^ x.gs.toNat
  let pair := fun (k : Nat) =>
    let h := if fmt = 0 then 0 else readN s.mem (canon (x.h + 4 * (n * x.k / g + k / g))) 4
    smvPair x.fz fmt (memElem s x.b w (n * x.k + k)) h (fld (x.vec.getD (k / 32) 0).toNat (16 * (k % 32)) 16)
  (List.range (x.k / 8)).foldl (fun a j =>
    let c := smvChunk x.fz ((List.range 8).map (fun i => pair (8 * j + i)))
    let r := fAdd fp32 0 x.fz a.1 c.1
    (r.1, a.2 ||| c.2 ||| r.2)) (0, 0)

/-- Does a range of HBM lie in one stack of this package, in the stack view (R179, R290)? -/
def oneStack (s : State) (a b : Nat) : Bool :=
  decide (paPkg a = s.pkg.toNat) && decide (paSpace a = 1) && decide (paSpace b = 1) && decide (paStack a = paStack b) &&
    fld a 45 1 == 0 && fld b 45 1 == 0

/-- Is a handle refused by an engine that would produce into it (R153, R189)? -/
def handleShut (p : State) (core n : Nat) : Bool :=
  let x := handleOf (tget 0 (archOf p core).h n)
  !x.vld || (x.peer != core && !x.pro)

/-- The consumer's buffer row at which a producing engine stands, `i` rows on (R153, R189). -/
def handlePa (s : State) (core hn i : Nat) : Nat :=
  let x := handleOf (tget 0 (archOf s core).h hn)
  sliceRow s.pkg x.peer (x.base + (x.prd + i) % x.size)

/-- The row that a producing engine writes for a row of the buffer: where the core's table maps it, the side that engine
writes reach (R300). (DEDUCED, log 97) -/
def handleDst (tab : Tbl TEntry) (core pa : Nat) : Nat :=
  ((tab.findSome? (fun x => (x.2.vaOf core pa).map (fun va => entryPa core x.2 true va))).map rowBase).getD pa

/-- What an engine that produces `n` rows into a handle asks of the entries that map the first and the last (R164, R292).
(DEDUCED, log 97) -/
def handleAsks (p : State) (core hn n : Nat) : List (Ask × Nat × Nat) :=
  if handleShut p core hn then []
  else [0, n - 1].filterMap (fun i => (rowVa (archOf p core).tab core (handlePa p core hn i)).map (fun va => (askDst false, va, 64)))

/-- Translate the ranges of one command: the entries, or the trap that comes first in the order of R136 (R164). -/
def engRanges (p : State) (h : Slot) (core : Nat) (l : List (Ask × Nat × Nat)) : Except Trap (List Nat) :=
  match rangesFault p core l with
  | some t => .error (mxTrap p h t.1 t.2.toNat 0)
  | none => .ok (rangeHots p core l)

/-- All outstanding requests of the issuing stream: an engine's reads follow the stores among them (R184). -/
def allReqs (p : State) (core : Nat) : List Nat :=
  ((archOf p core).reqs.filter (fun r => !r.side && r.op != .load)).map (·.id)

/-- The bundle's outbound stage mark in protected mode (R29). -/
def stageMark (p : State) (core : Nat) : Option Nat :=
  let c := coreOf p core
  if c.split then none else some c.seq

/-- Bits of a B element of `smv` (R179). -/
def smvBits (fmt : Nat) : Nat := if fmt = 0 then 16 else if fmt = 1 then 8 else 4

/-- What an `smv` asks of its A vector, B matrix, headers and handle (R179, R291). -/
def smvAsks (p : State) (core va : Nat) (w : Nat → Word) (fmt g n k hd : Nat) : List (Ask × Nat × Nat) :=
  [(askSrc true, va, 2 * k), (askSrc false, wf (w 5) 0 48, n * k * smvBits fmt / 8)] ++
  (if fmt = 0 then [] else [({ askSrc false with near := true }, wf (w 7) 0 48, 4 * (n * k / g))]) ++ handleAsks p core hd (n / 16)

/-- The class violation of a B matrix that does not lie in one stack (R179), whatever its residency (R136). -/
def stackFault (p : State) (core va n : Nat) : Option (Nat × Word) :=
  match (rangeEnds (askSrc false) va n).map (fun x => lookPa p core x.1 x.2) with
  | [some a, some b] => if oneStack p a b then none else some (6, BitVec.ofNat 64 va)
  | _ => none

/-- Does a row of a handle's buffer lie in a bank of the ECW format, which is no destination (R49)? -/
def handleEcw (p : State) (core hd n : Nat) : Bool :=
  (List.range (min n (handleOf (tget 0 (archOf p core).h hd)).size)).any (fun i =>
    rFmt (bankReg p (allFmts p) (handleDst (archOf p core).tab core (handlePa p core hd i))) == 8)

/-- Take the vector of an `smv` whose banks the core owns, as the stores before its acceptance leave it (R163, R169). -/
def captureOne (s : State) (core : Nat) (x : SmvCmd) : SmvCmd :=
  if x.bank.any (fun a => !ownsBank s core a) then x
  else { x with bank := [], vec := (List.range (x.k / 32)).map (fun i => arrRow s core x.mark (sliceRow s.pkg core (x.a + i)))
                bad := arrBad s core x.mark x.a (x.k / 32) }

/-- Take the vectors that waited for banks which the core owns now (R163, R278). (DEDUCED, log 43) -/
def captureSmv (s : State) (core : Nat) : State :=
  if (archOf s core).smv.all (fun x => x.bank.isEmpty) then s
  else modArch s core (fun a => { a with smv := a.smv.map (fun x => if x.bank.isEmpty then x else captureOne s core x) })

/-- `smv`: sends a vector to a stack for a product produced into a handle (R179). -/
def issueSmv (h : Slot) (o : EnF) (p s : State) : SlotRes :=
  let core := p.focus.core
  let w := shWord p core 0
  let n := wf (w 6) 16 16 + 1
  let k := wf (w 6) 0 16 + 1
  let fmt := wf o.prm 15 2
  let hd := wf o.prm 17 4
  let g := 32 * 2 ^ wf o.prm 13 2
  let va := (w 0 + rs p o.sa).toNat % 2 ^ 48
  let asks := smvAsks p core va w fmt g n k hd
  if !passed p 5 && (archOf p core).main.pipe.nest.isSome then .hold 5 true .plain
  else if !passed p 5 && decide (4 ≤ (archOf p core).smv.length) then .hold 5 false .plain
  else if badAddr (w 0) || badAddr (w 5) || decide (wf (w 6) 32 32 ≠ 0) || (fmt != 0 && badAddr (w 7)) ||
      decide (n % 16 ≠ 0) || decide (k % 128 ≠ 0) then illegalAtIssue p h
  else match firstFault (rangesFault p core asks) (stackFault p core (wf (w 5) 0 48) (n * k * smvBits fmt / 8)) with
    | some t => .trap (mxTrap p h t.1 t.2.toNat 0)
    | none =>
      if handleShut p core hd then handleMisuse p h hd
      else
        let pa := fun (a : Ask) (v : Nat) => (lookPa p core a v).getD 0
        let a := paRow (pa (askSrc true) va)
        let rows := (List.range (k / 32)).map (fun i => a + i)
        let x : SmvCmd := { num := nextNum p core 0, pc := p.iss.pc, cf := o.cf, ce := o.ce == 1
                            hd := BitVec.ofNat 4 hd, fmt := BitVec.ofNat 2 fmt, gs := BitVec.ofNat 2 (wf o.prm 13 2)
                            n := n, k := k, a := a, b := pa (askSrc false) (wf (w 5) 0 48)
                            h := if fmt = 0 then 0 else pa (askSrc false) (wf (w 7) 0 48), made := 0, fz := p.iss.fz, bad := none
                            ferr := rows.any (fun r => rFmt (regOf p core r) = 8) || handleEcw p core hd (n / 16)
                            nsat := 0, ninv := 0, ninx := 0, vec := [], bank := notOwned p core rows, mark := p.ids
                            tab := (archOf p core).tab, wait := allReqs p core, stg := stageMark p core }
        .ok (modArch (countHots (copySet p (countCmd s core 0) core 0) core (rangeHots p core asks)) core
          (fun a => { a with smv := a.smv ++ [captureOne p core x] }))

/-- The step of `smv`. -/
def execSmv (h : Slot) (o : EnF) (s : State) : Host.Outcome State Fault Refusal :=
  slotStep h (issueSmv h o) s

end Sys2Proof.Machine
end

