-- ==== Sys2Proof/Machine/Packet.lean ====
section
/-!
DEFINITION. Packets as their source composes and sends them (R403, R404, R406, R407): the header, the
windows, the source retry buffer and the routes.
-/
namespace Sys2Proof.Machine

/-- The fields of a packet header (R403). -/
structure PHdr where
  dpkg : Nat
  spkg : Nat
  kind : Nat
  unord : Bool
  seq  : Nat
  flt  : Nat
  addr : Nat
  opd  : Nat
deriving DecidableEq, Repr

/-- Lay a packet header out (R403). -/
def PHdr.bits (h : PHdr) : BitVec 256 :=
  BitVec.ofNat 256 (h.dpkg % 256 * 2 ^ 248 + h.spkg % 256 * 2 ^ 240 + h.kind % 16 * 2 ^ 236 + h.unord.toNat * 2 ^ 235 +
    h.seq % 65536 * 2 ^ 216 + h.flt % 256 * 2 ^ 208 + h.addr % 2 ^ 56 * 2 ^ 144 + h.opd % 2 ^ 128)

/-- Read a packet header. -/
def pHdr (x : BitVec 256) : PHdr :=
  { dpkg := wf x 248 8, spkg := wf x 240 8, kind := wf x 236 4, unord := x.getLsbD 235, seq := wf x 216 16
    flt := wf x 208 8, addr := wf x 144 56, opd := wf x 0 128 }

/-- The window of a peer package and class (R404). -/
def winKey (pkg : Nat) (unord : Bool) : Nat := 2 * pkg + unord.toNat
/-- Read it. -/
def winOf (s : State) (pkg : Nat) (unord : Bool) : Win := tget Win.fresh s.fab.wins (winKey pkg unord)
/-- Change it. -/
def modWin (s : State) (pkg : Nat) (unord : Bool) (g : Win → Win) : State :=
  { s with fab := { s.fab with wins := tput s.fab.wins (winKey pkg unord) (g (winOf s pkg unord)) } }

/-- A port of the fabric. -/
def portOf (s : State) (p : Nat) : Port := tget Port.off s.fab.ports p
/-- Change it. -/
def modPort (s : State) (p : Nat) (g : Port → Port) : State :=
  { s with fab := { s.fab with ports := tput s.fab.ports p (g (portOf s p)) } }
/-- State of a port: 2 up, 3 changing width (R400). -/
def pst (s : State) (p : Nat) : Nat := wf (portOf s p).reg 8 4

/-- The ports of a route by rank (R407). -/
def rankPorts (rt : Word) : List Nat :=
  if rt.getLsbD 63 then
    ((List.range 4).filter (fun i => rt.getLsbD (8 * i + 7))).map (fun i => wf rt (8 * i) 6)
  else []

/-- The ports over which a package can be reached: those up, or changing width (R402, R407). -/
def livePorts (s : State) (pkg : Nat) : List Nat :=
  (rankPorts (tget 0 s.fab.rt pkg)).filter (fun p => pst s p == 2 || pst s p == 3)

/-- May a port transmit a flit now: it is up, holds a credit, has nothing to send again, and its retry buffer has room
(R401, R402)? -/
def portFree (s : State) (p : Nat) : Bool :=
  pst s p == 2 && decide (0 < (portOf s p).credit) && decide ((portOf s p).retry.length < 512) && (portOf s p).again == 0

/-- The port that a packet takes now (R402, R407): ordered packets the lowest-ranked, held while it changes width;
unordered ones are spread over those that are up. None until the fabric manager is ready (R433). -/
def portFor (s : State) (h : PHdr) : Option Nat :=
  let l := livePorts s h.dpkg
  if !s.hub.rdy.getLsbD 3 then none
  else if h.unord then
    let f := l.filter (portFree s)
    if f.isEmpty then none else f[h.seq % f.length]?
  else match l with
    | p :: _ => if portFree s p then some p else none
    | [] => none

/-- One bit of the CRC-64 of R401. -/
def crcBit (c : BitVec 64) : BitVec 64 := if c.getLsbD 63 then (c <<< 1) ^^^ 0x42F0E1EBA9EA3693 else c <<< 1
/-- One byte, its most significant bit first. -/
def crcByte (c : BitVec 64) (b : Nat) : BitVec 64 :=
  let c0 := c ^^^ (BitVec.ofNat 64 (b * 2 ^ 56))
  crcBit (crcBit (crcBit (crcBit (crcBit (crcBit (crcBit (crcBit c0)))))))
/-- The CRC-64 of a list of bytes (R401). -/
def crc64 (l : List Nat) : BitVec 64 := ~~~(l.foldl crcByte (BitVec.ofNat 64 (2 ^ 64 - 1)))

/-- The CRC of the first 248 bytes of a flit. -/
def flitCrc (x : Nat) : BitVec 64 := crc64 ((List.range 248).map (fun i => fld x (8 * i) 8))

/-- The credits that a flit returns (R401). -/
def Port.crd (q : Port) : Nat := if q.owed < 256 then q.owed else 255

/-- A link header (R401): of a flit type, with or without an acknowledgment. -/
def linkHdr (q : Port) (ty : Nat) (av : Bool) : Nat :=
  q.txseq.toNat + ty * 2 ^ 12 + (q.rxseq - 1).toNat * 2 ^ 16 + av.toNat * 2 ^ 28 + q.crd * 2 ^ 29

/-- The flit of a packet (R401, R403): link header, packet header, payload, CRC. -/
def mkFlit (q : Port) (hdr : BitVec 256) (data : Row) : BitVec 2048 :=
  let x := linkHdr q 1 true + 2 ^ 64 * hdr.toNat + 2 ^ 320 * data.toNat
  BitVec.ofNat 2048 (x + 2 ^ 1984 * (flitCrc x).toNat)

/-- Transmit a packet over a port: its flit stands in the link retry buffer until it is acknowledged (R401). -/
def transmit (s : State) (p : Nat) (hdr : BitVec 256) (data : Row) : State :=
  modPort s p (fun q => { q with
    retry := q.retry ++ [(q.txseq, mkFlit q hdr data)], txseq := q.txseq + 1, credit := q.credit - 1
    owed := q.owed - q.crd })

/-- A port that is up and has nothing else to send returns its credits in a type-3 flit, with or without an acknowledgment
(R401). (DEDUCED, log 76) -/
def noteBack (s : State) (p : Nat) (av : Bool) : State :=
  if pst s p ≠ 2 ∨ (portOf s p).owed = 0 then s
  else modPort s p (fun q => { q with note := some (BitVec.ofNat 64 (linkHdr q 3 av)), owed := q.owed - q.crd })

/-- Flits of the link retry buffer are sent again, in order, each for a credit (R401). -/
def Port.resend (q : Port) : Port :=
  let n := min q.again q.credit
  { q with again := q.again - n, credit := q.credit - n }

/-- Are two packets of one pair and class? -/
def samePair (a b : Pkt) : Bool :=
  (pHdr a.hdr).dpkg == (pHdr b.hdr).dpkg && (pHdr a.hdr).unord == (pHdr b.hdr).unord

/-- Has the hub's buffer room for a packet: those that have left for its destination hold less than 2 MiB, all less than
32 MiB, in flits of 256 bytes (R406)? -/
def hasRoom (l : List Pkt) (x : Pkt) : Bool :=
  let held := l.filter (fun y => y.gone)
  x.gone || (decide (held.length < 131072) && decide ((held.filter (fun y => (pHdr y.hdr).dpkg == (pHdr x.hdr).dpkg)).length < 8192))

/-- May a packet be sent after those ahead of it: inside the window of its pair and class, with room in the buffer, and in its
order (R404, R406, R409)? -/
def mayLeave (ahead rest : List Pkt) (x : Pkt) : Bool :=
  let pair := ahead.filter (samePair x)
  pair.all (fun y => decide (((pHdr x.hdr).seq + 65536 - (pHdr y.hdr).seq) % 65536 < 1024)) && hasRoom (ahead ++ rest) x && !x.refd &&
    ((pHdr x.hdr).unord || !pair.any (fun y => y.refd || !y.sent))

/-- Send the packets of a list that may leave; `ahead` are those before it. -/
def sendAll : List Pkt → List Pkt → State → State
  | ahead, [], s => { s with fab := { s.fab with retry := ahead } }
  | ahead, x :: t, s =>
    if x.sent || !mayLeave ahead t x then sendAll (ahead ++ [x]) t s
    else match portFor s (pHdr x.hdr) with
      | none => sendAll (ahead ++ [x]) t s
      | some p => sendAll (ahead ++ [{ x with sent := true, gone := true, port := some p, lost := false }]) t (transmit s p x.hdr x.data)

/-- Send the answers that may leave; they have no window (R404). -/
def sendOut : List Pkt → List Pkt → State → State
  | kept, [], s => { s with fab := { s.fab with out := kept } }
  | kept, x :: t, s =>
    match portFor s (pHdr x.hdr) with
    | none => sendOut (kept ++ [x]) t s
    | some p => sendOut kept t (transmit s p x.hdr x.data)

/-- Send what may leave: answers, then the source retry buffer (R404, R406). -/
def pump (s : State) : State :=
  let s1 := if s.fab.out.isEmpty then s else sendOut [] s.fab.out s
  if s1.fab.retry.isEmpty then s1 else sendAll [] s1.fab.retry s1

/-- Compose a packet into the source retry buffer under the next sequence number of its pair and class
(R403, R404, R406). -/
def composePkt (s : State) (kind : Nat) (unord : Bool) (addr opd : Nat) (data : Row) (core : Nat)
    (req cmd : Option Nat) : State :=
  let d := paPkg addr
  let w := winOf s d unord
  let h : PHdr := { dpkg := d, spkg := s.pkg.toNat, kind := kind, unord := unord, seq := w.next.toNat, flt := 1
                    addr := addr, opd := opd }
  let s1 := modWin s d unord (fun w => { w with next := w.next + 1 })
  pump { s1 with fab := { s1.fab with retry := s1.fab.retry ++
    [{ hdr := h.bits, data := data, core := core, req := req, cmd := cmd, refd := false, sent := false
       tick := s.hub.htck.toNat }] } }

/-- The agent that stands for the migration engine as the sender of a packet. The model's own. (DEDUCED, log 79) -/
def migrationId : Nat := 1025

/-- A whole row goes to another package for migration slot `m`, its poison with it (R420). (DEDUCED, log 79) -/
def sendRow (s : State) (m src dst : Nat) : State :=
  composePkt s 1 false dst (2 ^ 64 - 1 + (poisoned s src).toNat * 2 ^ 64) (rowAt s src) migrationId none (some m)

/-- A packet that has left and is discarded keeps its sequence number: a store of no bytes takes its place (R404, R408).
(DEDUCED, log 75) -/
def Pkt.void (x : Pkt) : Pkt :=
  { x with hdr := { pHdr x.hdr with kind := 2, opd := 0 }.bits, data := 0, req := none, cmd := none }

/-- Discard, unperformed, the packets of a kind that have left and whose destination no route reaches any more (R408).
(DEDUCED, log 75) -/
def voidLost (s : State) (p : Pkt → Bool) : State :=
  { s with fab := { s.fab with retry := s.fab.retry.map (fun x =>
      if x.gone && p x && (livePorts s (pHdr x.hdr).dpkg).isEmpty then x.void else x) } }

/-- Discard packets that never left, and number those behind them anew; `done` holds what has been kept. -/
def discardGo (p : Pkt → Bool) : Tbl Nat → List Pkt → List Pkt × Tbl Nat
  | n, [] => ([], n)
  | n, x :: t =>
    let h := pHdr x.hdr
    let k := winKey h.dpkg h.unord
    if !x.gone && p x then discardGo p (tput n k (tget 0 n k + 1)) t
    else
      let y := if x.gone then x else { x with hdr := { h with seq := (h.seq + 65536 - tget 0 n k % 65536) % 65536 }.bits }
      let r := discardGo p n t
      (y :: r.1, r.2)

/-- Discard the packets of a kind that have not left the source (R408). (DEDUCED, log 75) -/
def discardUnsent (s : State) (p : Pkt → Bool) : State :=
  let r := discardGo p [] s.fab.retry
  { s with fab := { s.fab with retry := r.1, wins := s.fab.wins.map (fun w =>
      (w.1, { w.2 with next := w.2.next - BitVec.ofNat 16 (tget 0 r.2 w.1) })) } }

end Sys2Proof.Machine
end

