-- ==== Sys2Proof/Machine/Copy.lean ====
section
/-!
DEFINITION. The copy engine (R184 to R194): acceptance of the nine commands, what each reads and writes,
production into a handle, publishing, and completion in acceptance order.
-/
namespace Sys2Proof.Machine

/-! ### Acceptance (R164, R184 to R186) -/

/-- Element width of a format, given that of the other end; both RAW move bytes (R49, R187). (DEDUCED, log 49) -/
def endW (f other : Nat) : Nat := if f ≠ 0 then bW f else if other = 0 then 8 else bW other

/-- The command that an `CP` slot captures at acceptance. -/
def cpBase (p : State) (h : Slot) (o : EnF) (opc : BitVec 8) : CpCmd :=
  let core := p.focus.core
  let w := (List.range 16).map (fun i => shWord p core 1 i)
  { num := nextNum p core 1, opc := opc, slot := h.pos, pc := p.iss.pc, side := false, cf := o.cf, ce := o.ce == 1
    prm := o.prm, w := w.set 1 (BitVec.ofNat 64 (wf (w.getD 1 0 + rs p o.sa) 0 48)), tab := (archOf p core).tab
    fmts := allFmts p, tick := p.hub.htck.toNat, made := 0, nsat := 0, ninv := 0, ninx := 0, sts := 0, tries := 0, phase := 0, asked := []
    got := [], flip := false, wait := allReqs p core, stg := stageMark p core }

/-- A staging word of a command. -/
def CpCmd.word (x : CpCmd) (i : Nat) : Word := x.w.getD i 0
/-- An address word. -/
def CpCmd.adr (x : CpCmd) (i : Nat) : Nat := wf (x.word i) 0 48
/-- `CN`. -/
def CpCmd.cn (x : CpCmd) : Nat := wf (x.word 2) 0 32
/-- Bytes of a record of `cpg` and `cps`. -/
def CpCmd.recB (x : CpCmd) : Nat := (wf (x.word 2) 32 4 + 1) * 64
/-- Index limit. -/
def CpCmd.cl (x : CpCmd) : Nat := wf (x.word 4) 0 32
/-- Does the command produce into a handle? -/
def CpCmd.hp (x : CpCmd) : Bool := x.prm.getLsbD 15
/-- The handle. -/
def CpCmd.hn (x : CpCmd) : Nat := wf x.prm 11 4
/-- The symbol format of `cpz` as a bank format (R186, R191). -/
def CpCmd.sym (x : CpCmd) : Nat := match wf x.prm 8 3 with
  | 0 => 0
  | n => n + 1
/-- Group size of `cpc`. -/
def CpCmd.grp (x : CpCmd) : Nat := 32 * 2 ^ wf x.prm 9 2

/-! ### Reading (R184, R297) -/

/-- The physical address of a virtual one through the translations of acceptance (R297). -/
def cpPa (core : Nat) (x : CpCmd) (shadow : Bool) (va : Nat) : Option Nat :=
  match lookupE x.tab (va % 2 ^ 48) with
  | some (_, e) => some (entryPa core e shadow (va % 2 ^ 48))
  | none => none

/-- The row at a physical address, as the command reads it: one of another package is the row that came for it. -/
def cpRaw (s : State) (x : CpCmd) (pa : Nat) : Row :=
  if paPkg pa = s.pkg.toNat then rowAt s pa else ((x.got.find? (fun g => g.1 == rowBase pa)).map (·.2)).getD 0

/-- The row that holds a virtual address, as the command reads it. (DESIGN CHOICE, log 13) -/
def cpRow (s : State) (core : Nat) (x : CpCmd) (va : Nat) : Row :=
  match cpPa core x false va with
  | none => Config.gapRow va
  | some pa => cpRaw s x pa

/-- `n` rows from a virtual address as one number. -/
def cpRows (s : State) (core : Nat) (x : CpCmd) (va : Nat) : Nat → Nat
  | 0 => 0
  | n + 1 => (cpRow s core x va).toNat + 2 ^ 512 * cpRows s core x (va + 64) n

/-- `n` bits from a virtual row address: the low six bits of an address word are dropped. (DESIGN CHOICE, log 48) -/
def cpBits (s : State) (core : Nat) (x : CpCmd) (va n : Nat) : Nat := cpRows s core x (va / 64 * 64) (cdiv n 512) % 2 ^ n

/-- A byte at a virtual address. -/
def cpByte (s : State) (core : Nat) (x : CpCmd) (va : Nat) : Nat :=
  fld (cpRow s core x va).toNat (8 * (va % 64)) 8

/-- The format register of the bank of a virtual address, at acceptance. (DEDUCED, log 49) -/
def cpFmt (s : State) (core : Nat) (x : CpCmd) (shadow : Bool) (va : Nat) : BitVec 32 :=
  match cpPa core x shadow va with
  | some pa => bankReg s x.fmts pa
  | none => 0

/-- An end of a command: its format register, the physical address of its first row. -/
structure CpEnd where
  reg : BitVec 32
  pa  : Nat
deriving DecidableEq, Repr

/-- The end at a virtual address. -/
def cpEnd (s : State) (core : Nat) (x : CpCmd) (shadow : Bool) (va : Nat) : CpEnd :=
  { reg := cpFmt s core x shadow va, pa := (cpPa core x shadow va).getD 0 }

/-- The destination end: the range at `CD`, or the handle's buffer. -/
def cpDstEnd (s : State) (core : Nat) (x : CpCmd) : CpEnd :=
  if x.hp then
    let h := handleOf (tget 0 (archOf s core).h x.hn)
    let pa := handleDst x.tab core (sliceRow s.pkg h.peer (h.base + (h.prd + 2 * h.size - x.made % (2 * h.size)) % h.size))
    { reg := bankReg s x.fmts pa, pa := pa }
  else cpEnd s core x true (x.adr 1)

/-- Scale row `i` of the bank of an end (R46). -/
def CpEnd.scale (e : CpEnd) (i : Nat) : Nat := e.pa / 2 ^ 22 * 2 ^ 22 + (rSb e.reg + i) * 64

/-- The header of element `j` of an end (R46). -/
def cpHdr (s : State) (x : CpCmd) (e : CpEnd) (j : Nat) : Nat :=
  if !isGq (rFmt e.reg) then 0
  else
    let g := groupOf e.reg (paRow e.pa) j
    fld (cpRaw s x (e.scale (g / 16))).toNat (32 * (g % 16)) 32

/-- Do the scale rows that `n` elements of an end need lie in its slice (R49)? -/
def cpScales (e : CpEnd) (n : Nat) : Bool := n == 0 || scalesOk (paCore e.pa) e.reg (paRow e.pa) (n - 1)

/-- The scale rows that `n` elements of an end need. -/
def hdrRows (e : CpEnd) (n : Nat) : List Nat :=
  if !isGq (rFmt e.reg) || n == 0 || !cpScales e n then []
  else
    let lo := groupOf e.reg (paRow e.pa) 0 / 16
    (List.range (groupOf e.reg (paRow e.pa) (n - 1) / 16 + 1 - lo)).map (fun i => e.scale (lo + i))

/-- The physical address of row `i` of a command's destination. -/
def cpDstRow (s : State) (core : Nat) (x : CpCmd) (va i : Nat) : Option Nat :=
  if x.hp then
    let h := handleOf (tget 0 (archOf s core).h x.hn)
    some (handleDst x.tab core (sliceRow s.pkg h.peer (h.base + (h.prd + 2 * h.size - x.made % (2 * h.size) + i) % h.size)))
  else (cpPa core x true (va + 64 * i)).map rowBase

/-- The virtual row addresses of `n` bytes from an address. -/
def rowVas (va n : Nat) : List Nat := (List.range (cdiv (va % 64 + n) 64)).map (fun i => va / 64 * 64 + 64 * i)

/-! ### The rows of a range (R46, R49, R301) -/

/-- One row of a range that a command converts: its number, its place and format register, whether no entry maps it, the width of
its elements, the first of them and how many. -/
structure CpSeg where
  i   : Nat
  e   : CpEnd
  gap : Bool
  w   : Nat
  lo  : Nat
  n   : Nat
deriving DecidableEq, Repr

/-- The rows that `n` elements from element `lo` take, from row `i` on: each holds elements of the width that its own format register
gives (R301). (DEDUCED, log 49) -/
def cpSegs (row : Nat → Option CpEnd) (w : BitVec 32 → Nat) : Nat → Nat → Nat → Nat → List CpSeg
  | 0, _, _, _ => []
  | k + 1, i, lo, n =>
    if n = 0 then []
    else
      let e := (row i).getD { reg := 0, pa := 0 }
      let m := min (512 / w e.reg) n
      { i := i, e := e, gap := (row i).isNone, w := w e.reg, lo := lo, n := m } :: cpSegs row w k (i + 1) (lo + m) (n - m)

/-- The bytes from the first to the last of a range. -/
def segBytes (l : List CpSeg) : Nat := match l.getLast? with
  | none => 0
  | some g => 64 * (l.length - 1) + cdiv (g.n * g.w) 8

/-- Row `i` of a command's source. -/
def cpSrcRow (s : State) (core : Nat) (x : CpCmd) (i : Nat) : Option CpEnd :=
  (cpPa core x false (x.adr 0 / 64 * 64 + 64 * i)).map (fun pa => { reg := bankReg s x.fmts pa, pa := rowBase pa })

/-- Row `i` of a command's destination. -/
def cpDstRowE (s : State) (core : Nat) (x : CpCmd) (i : Nat) : Option CpEnd :=
  (cpDstRow s core x (x.adr 1 / 64 * 64) i).map (fun pa => { reg := bankReg s x.fmts pa, pa := pa })

/-- The formats of the first rows of source and destination. (DEDUCED, log 49) -/
def cpFs (s : State) (core : Nat) (x : CpCmd) : Nat := rFmt (cpEnd s core x false (x.adr 0)).reg
/-- The format of the first row of the destination. -/
def cpFd (s : State) (core : Nat) (x : CpCmd) : Nat := rFmt (cpDstEnd s core x).reg

/-- Bits of a symbol of `cpz`. -/
def CpCmd.symW (x : CpCmd) : Nat := if x.sym = 0 then 8 else bW x.sym

/-- Element width of a source row: a RAW row has that of the other end's first row. (DEDUCED, log 49) -/
def cpSrcW (s : State) (core : Nat) (x : CpCmd) (r : BitVec 32) : Nat :=
  if x.opc = 9 ∨ x.opc = 6 ∧ wf x.prm 9 2 ≠ 0 then bW (rFmt r) else endW (rFmt r) (cpFd s core x)

/-- Element width of a destination row. (DEDUCED, log 49) -/
def cpDstW (s : State) (core : Nat) (x : CpCmd) (r : BitVec 32) : Nat :=
  let f := rFmt r
  match x.opc.toNat with
  | 5 => if f = 0 ∨ x.sym = 0 then x.symW else bW f
  | 6 => if wf x.prm 9 2 = 0 then endW f (cpFs s core x) else 32
  | 8 => if f = 0 then 64 else bW f
  | 9 => if x.prm.getLsbD 8 then 32 else bW f
  | _ => endW f (cpFs s core x)

/-- The source rows of a command that converts elements. -/
def cpSrcSegs (s : State) (core : Nat) (x : CpCmd) : List CpSeg := cpSegs (cpSrcRow s core x) (cpSrcW s core x) x.cn 0 0 x.cn
/-- Its destination rows. -/
def cpDstSegs (s : State) (core : Nat) (x : CpCmd) : List CpSeg := cpSegs (cpDstRowE s core x) (cpDstW s core x) x.cn 0 0 x.cn

/-! ### The commands of the slot (R184 to R194) -/

/-- Accept a command (R164, R184, R299). -/
def cpAccept (p s : State) (h : Slot) (x : CpCmd) (bad : Bool) (l : List (Ask × Nat × Nat)) (more : List Nat) :
    SlotRes :=
  let core := p.focus.core
  if !passed p 5 && decide (8 ≤ (archOf p core).cp.length) then .hold 5 false .plain
  else if bad then illegalAtIssue p h
  else match engRanges p h core l with
    | .error t => .trap t
    | .ok hots =>
      if x.hp && handleShut p core x.hn then handleMisuse p h x.hn
      else
        let s1 := countHots (copySet p (countCmd s core 1) core 1) core (hots ++ more)
        .ok (modArch s1 core (fun a => { a with cp := a.cp ++ [x] }))

/-- The destination range of `n` bytes, or what a handle's buffer asks for it. -/
def cpDst (p : State) (x : CpCmd) (n : Nat) : List (Ask × Nat × Nat) :=
  if x.hp then handleAsks p p.focus.core x.hn (cdiv n 64) else [(askDst false, x.adr 1, n)]

/-- Reserved bits of word 2: all of [63:36], and `RL` counts only where it is used. -/
def badCn (x : CpCmd) : Bool := decide (wf (x.word 2) 36 28 ≠ 0)

/-- `cpy`: copies elements, converting by bank formats (R187). -/
def issueCpy (h : Slot) (o : EnF) (p s : State) : SlotRes :=
  let x := cpBase p h o 1
  cpAccept p s h x (badAddr (x.word 0) || (!x.hp && badAddr (shWord p p.focus.core 1 1)) || badCn x)
    ((askSrc false, x.adr 0, segBytes (cpSrcSegs p p.focus.core x)) :: cpDst p x (segBytes (cpDstSegs p p.focus.core x))) []

/-- The step of `cpy`. -/
def execCpy (h : Slot) (o : EnF) (s : State) : Host.Outcome State Fault Refusal :=
  slotStep h (issueCpy h o) s

/-- `cpg`: gathers records by an index list (R188). -/
def issueCpg (h : Slot) (o : EnF) (p s : State) : SlotRes :=
  let x := cpBase p h o 2
  cpAccept p s h x (badAddr (x.word 0) || (!x.hp && badAddr (shWord p p.focus.core 1 1)) || badCn x ||
      badAddr (x.word 3) || decide (wf (x.word 4) 32 32 ≠ 0))
    ([(askSrc false, x.adr 0, x.cl * x.recB), (askSrc false, x.adr 3, 4 * x.cn)] ++ cpDst p x (x.cn * x.recB)) []

/-- The step of `cpg`. -/
def execCpg (h : Slot) (o : EnF) (s : State) : Host.Outcome State Fault Refusal :=
  slotStep h (issueCpg h o) s

/-- `cps`: scatters records by an index list (R188). -/
def issueCps (h : Slot) (o : EnF) (p s : State) : SlotRes :=
  let x := cpBase p h o 3
  cpAccept p s h x (badAddr (x.word 0) || badAddr (shWord p p.focus.core 1 1) || badCn x || badAddr (x.word 3) ||
      decide (wf (x.word 4) 32 32 ≠ 0))
    [(askSrc false, x.adr 0, x.cn * x.recB), (askDst false, x.adr 1, x.cl * x.recB),
     (askSrc false, x.adr 3, 4 * x.cn)] []

/-- The step of `cps`. -/
def execCps (h : Slot) (o : EnF) (s : State) : Host.Outcome State Fault Refusal :=
  slotStep h (issueCps h o) s

/-- The entry whose region has a virtual address as its base (R190). -/
def regionAt (a : Arch) (va : Nat) : Option TEntry := match lookupE a.tab va with
  | some (_, e) => if va % 2 ^ e.lsz = 0 then some e else none
  | none => none

/-- `cpt` offload: moves a region to the second tier; `CS` must be the base of its region (R190). A `CS` that is not is an
illegal-instruction trap here, as a staging value out of its range is (R164). (DESIGN CHOICE, log 99) -/
def issueCptOffload (h : Slot) (o : EnF) (p s : State) : SlotRes :=
  let x := cpBase p h o 4
  let e := regionAt (archOf p p.focus.core) (x.adr 0)
  let n := match e with
    | some e => 2 ^ e.lsz
    | none => 1
  match access p p.focus.core (askSrc false) (BitVec.ofNat 64 (x.adr 0)) with
  | .error c => cpAccept p s h x (badAddr (x.word 0) || badAddr (shWord p p.focus.core 1 1)) [(askSrc false, x.adr 0, 1)] [c]
  | .ok _ =>
    cpAccept p s h x (badAddr (x.word 0) || badAddr (shWord p p.focus.core 1 1) || e.isNone)
      [(askSrc false, x.adr 0, n), (askDst false, x.adr 1, n)] []

/-- The step of `cpt`. -/
def execCptOffload (h : Slot) (o : EnF) (s : State) : Host.Outcome State Fault Refusal :=
  slotStep h (issueCptOffload h o) s

/-- Change an entry's residency in every table of a context that maps a region (R297), and in its shadow
record (R418). -/
def setRes (s : State) (ctx reg res : Nat) : State :=
  let put := fun (a : Arch) => { a with tab := a.tab.map (fun x =>
    if x.2.reg = reg then (x.1, { x.2 with w3 := setFld x.2.w3 8 2 res }) else x) }
  let s1 := { s with
    cores := s.cores.map (fun c => if (c.2.arch.task.map (·.ctx)) = some ctx then
      (c.1, { c.2 with arch := put c.2.arch }) else c)
    hub := { s.hub with saves := s.hub.saves.map (fun v => if v.ctx = ctx then { v with arch := put v.arch } else v) } }
  let x := ctxOf s1 ctx
  if reg < x.shtn.toNat then
    let a := x.shtb.toNat + 32 * reg
    writeRec s1 (a + 4) 1 ((fld (readN s1.mem (canon (a + 4)) 1) 0 8) / 8 * 8 + res * 2 +
      fld (readN s1.mem (canon (a + 4)) 1) 0 1)
  else s1

/-- The region is resident: its entries change, and tasks suspended on it lose that cause (R296, R297).
(DEDUCED, log 51) -/
def resident (s : State) (ctx reg : Nat) : State :=
  let s1 := setRes s ctx reg 0
  { s1 with
    cores := s1.cores.map (fun c => if (c.2.arch.task.map (·.ctx)) = some ctx then
      (c.1, { c.2 with arch := { c.2.arch with preq := c.2.arch.preq.filter (· != .page reg) } }) else c)
    hub := { s1.hub with saves := s1.hub.saves.map (fun v =>
      if v.ctx = ctx then { v with causes := v.causes.filter (· != .page reg) } else v) } }

/-- `cpt` fetch: copies from the second tier into the region at `CD`, which is moving until completion
(R190); its destination meets its residency at acceptance as any does (R296). -/
def issueCptFetch (h : Slot) (o : EnF) (p s : State) : SlotRes :=
  let core := p.focus.core
  let x := cpBase p h o 4
  let e := (lookupE (archOf p core).tab (x.adr 1)).map (·.2)
  let n := (e.map (fun e => 2 ^ e.lsz)).getD 1
  match cpAccept p s h x (badAddr (x.word 0) || badAddr (shWord p core 1 1))
      [(askSrc false, x.adr 0, n), (askDst false, x.adr 1, 1)] [] with
  | .ok t => .ok (match (archOf p core).task, e with
    | some k, some e => setRes t k.ctx e.reg 2
    | _, _ => t)
  | r => r

/-- The step of `cpt`. -/
def execCptFetch (h : Slot) (o : EnF) (s : State) : Host.Outcome State Fault Refusal :=
  slotStep h (issueCptFetch h o) s

/-- `cpz`: decodes an entropy-coded tensor (R191). -/
def issueCpz (h : Slot) (o : EnF) (p s : State) : SlotRes :=
  let x := cpBase p h o 5
  cpAccept p s h x (badAddr (x.word 0) || (!x.hp && badAddr (shWord p p.focus.core 1 1)) || badCn x ||
      badAddr (x.word 6) || decide (wf (x.word 8) 36 28 ≠ 0))
    ([(askSrc false, x.adr 0, wf (x.word 8) 0 32), (askSrc false, x.adr 6, 256)] ++
      cpDst p x (segBytes (cpDstSegs p p.focus.core x))) []

/-- The step of `cpz`. -/
def execCpz (h : Slot) (o : EnF) (s : State) : Host.Outcome State Fault Refusal :=
  slotStep h (issueCpz h o) s

/-- `coll`: performs one collective step (R192). -/
def issueColl (h : Slot) (o : EnF) (p s : State) : SlotRes :=
  let x := cpBase p h o 6
  cpAccept p s h x (badAddr (x.word 0) || badAddr (shWord p p.focus.core 1 1) || badCn x ||
      decide (wf (x.word 8) 36 28 ≠ 0))
    [(askSrc false, x.adr 0, segBytes (cpSrcSegs p p.focus.core x)), (askDst false, x.adr 1, segBytes (cpDstSegs p p.focus.core x))] []

/-- The step of `coll`. -/
def execColl (h : Slot) (o : EnF) (s : State) : Host.Outcome State Fault Refusal :=
  slotStep h (issueColl h o) s

/-- `pub`: publishes the shadowed pages of a range (R194). -/
def issuePub (h : Slot) (o : EnF) (p s : State) : SlotRes :=
  let x := cpBase p h o 7
  cpAccept p s h x (badAddr (shWord p p.focus.core 1 1) || badCn x) [(askDst false, x.adr 1, x.cn * 64)] []

/-- The step of `pub`. -/
def execPub (h : Slot) (o : EnF) (s : State) : Host.Outcome State Fault Refusal :=
  slotStep h (issuePub h o) s

/-- `cpf`: fills destination elements with a value (R187). -/
def issueCpf (h : Slot) (o : EnF) (p s : State) : SlotRes :=
  let x := cpBase p h o 8
  cpAccept p s h x (badAddr (shWord p p.focus.core 1 1) || badCn x)
    [(askDst false, x.adr 1, segBytes (cpDstSegs p p.focus.core x))] []

/-- The step of `cpf`. -/
def execCpf (h : Slot) (o : EnF) (s : State) : Host.Outcome State Fault Refusal :=
  slotStep h (issueCpf h o) s

/-- `cpc`: sends gradients compressed to GQ8 with error feedback (R193). -/
def issueCpc (h : Slot) (o : EnF) (p s : State) : SlotRes :=
  let x := cpBase p h o 9
  cpAccept p s h x (badAddr (x.word 0) || badAddr (shWord p p.focus.core 1 1) || badCn x || badAddr (x.word 5) ||
      badAddr (x.word 9))
    [(askSrc false, x.adr 0, segBytes (cpSrcSegs p p.focus.core x)), (askDst false, x.adr 1, segBytes (cpDstSegs p p.focus.core x)),
     ({ askSrc true with wr := true }, x.adr 5, 4 * x.cn), (askSrc false, x.adr 9, 4 * cdiv x.cn x.grp)] []

/-- The step of `cpc`. -/
def execCpc (h : Slot) (o : EnF) (s : State) : Host.Outcome State Fault Refusal :=
  slotStep h (issueCpc h o) s

/-! ### What a command writes (R187 to R193) -/

/-- What a command comes to: its status, its counts and its writes in order. -/
structure CpOut where
  sts : Nat
  c   : Cnt
  l   : List CpWr
deriving DecidableEq, Repr

/-- A command that writes nothing and ends with a status. -/
def cpStop (sts : Nat) : CpOut := { sts := sts, c := Cnt.zero, l := [] }

/-- The mask of the first `n` bytes of a row. -/
def bytesMask (n : Nat) : BitVec 64 := BitVec.ofNat 64 (2 ^ (if n < 64 then n else 64) - 1)

/-- The writes of `n` bytes of a number from a destination address on. -/
def cpSpread (s : State) (core : Nat) (x : CpCmd) (add va v n : Nat) : List CpWr :=
  (List.range (cdiv n 64)).filterMap (fun i => (cpDstRow s core x (va / 64 * 64) i).map (fun pa =>
    { pa := pa, data := BitVec.ofNat 512 (v / 2 ^ (512 * i)), mask := bytesMask (n - 64 * i), add := add }))

/-- Do two formats move bits unchanged (R49)? -/
def rawMove (fs fd : Nat) : Bool := fs = fd || fs = 0 || fd = 0

/-- Convert one element (R49): its format, bits and header at the source, the format and header at the destination. It counts
once. -/
def moveElem (x : Nat × Nat × Nat) (fd hd : Nat) : Nat × Cnt :=
  if rawMove x.1 fd then (x.2.1, Cnt.zero)
  else
    let d := decodeE x.1 x.2.1 x.2.2
    let e := encodeE fd hd d.1
    (e.1, e.2.once (cntOf d.2 false))

/-- Convert `n` elements of a row between two ends of equal width (R49): the row's bits and the counts. -/
def cpConv (s : State) (x : CpCmd) (fs : Nat) (es ed : CpEnd) (n v : Nat) : Nat × Cnt :=
  let l := (List.range n).map (fun j => moveElem (fs, fld v (j * bW fs) (bW fs), cpHdr s x es j) (rFmt ed.reg) (cpHdr s x ed j))
  (joinN (bW (rFmt ed.reg)) (l.map (·.1)), l.foldl (fun a r => a.plus r.2) Cnt.zero)

/-- Do two rows of the ends share elements that are converted (R49)? -/
def CpSeg.converts (g : CpSeg) (l : List CpSeg) : Bool :=
  l.any (fun h => decide (g.lo < h.lo + h.n) && decide (h.lo < g.lo + g.n) && !rawMove (rFmt g.e.reg) (rFmt h.e.reg))

/-- Are the scale rows that a row needs in its slice (R49)? -/
def CpSeg.scaled (g : CpSeg) : Bool := cpScales g.e g.n

/-- Is a row of a range in an ECW bank (R49)? -/
def anyEcw (l : List CpSeg) : Bool := l.any (fun g => rFmt g.e.reg == 8)

/-- The elements of a command's source: format, bits and header of each. -/
def cpElems (s : State) (core : Nat) (x : CpCmd) : List (Nat × Nat × Nat) :=
  (cpSrcSegs s core x).flatMap (fun g =>
    let r := (cpRow s core x (x.adr 0 / 64 * 64 + 64 * g.i)).toNat
    (List.range g.n).map (fun j => (rFmt g.e.reg, fld r (j * g.w) g.w, cpHdr s x g.e j)))

/-- The writes of destination rows whose elements `f` gives, and what they count; a row that no entry maps is dropped (DESIGN CHOICE,
log 13). -/
def cpPut (add : Nat) (dst : List CpSeg) (f : CpSeg → Nat → Nat × Cnt) : CpOut :=
  let l := dst.map (fun g => (g, (List.range g.n).map (f g)))
  { sts := 0, c := l.foldl (fun c y => y.2.foldl (fun c r => c.plus r.2) c) Cnt.zero
    l := (l.filter (fun y => !y.1.gap)).map (fun y =>
      { pa := y.1.e.pa, data := ofElems y.1.w (y.2.map (·.1)), mask := bytesMask (cdiv (y.1.n * y.1.w) 8), add := add }) }

/-- Does a command name an ECW bank as its source or its destination (R49)? -/
def namesEcw (s : State) (core : Nat) (x : CpCmd) : Bool :=
  rFmt (cpFmt s core x false (x.adr 0)) = 8 || rFmt (cpDstEnd s core x).reg = 8

/-- Elements move from source to destination, each decoded and encoded by the banks of its two rows (R49, R187, R301). -/
def cpMove (s : State) (core : Nat) (x : CpCmd) : CpOut :=
  let src := cpSrcSegs s core x
  let dst := cpDstSegs s core x
  if namesEcw s core x || anyEcw src || anyEcw dst || src.any (fun g => g.converts dst && !g.scaled) ||
      dst.any (fun g => g.converts src && !g.scaled) then cpStop 1
  else
    let l := cpElems s core x
    cpPut 0 dst (fun g j => moveElem (l.getD (g.lo + j) (0, 0, 0)) (rFmt g.e.reg) (cpHdr s x g.e j))

/-- `cpy` (R187): both ends fill whole rows. (DEDUCED, log 49) -/
def cpyOut (s : State) (core : Nat) (x : CpCmd) : CpOut :=
  if (cpSrcSegs s core x ++ cpDstSegs s core x).all (fun g => decide (g.n * g.w = 512)) then cpMove s core x else cpStop 1

/-- `cpf` (R187). (DEDUCED, log 49) -/
def cpfOut (s : State) (core : Nat) (x : CpCmd) : CpOut :=
  let dst := cpDstSegs s core x
  let v := (x.word 7).toNat
  if rFmt (cpDstEnd s core x).reg = 8 || anyEcw dst || dst.any (fun g => !g.scaled) then cpStop 1
  else cpPut 0 dst (fun g j =>
    if rFmt g.e.reg = 0 then (v, Cnt.zero) else encodeE (rFmt g.e.reg) (cpHdr s x g.e j) (.flt (v % 2 ^ 32)))

/-- The index at place `i` of the list (R188). -/
def cpIndex (s : State) (core : Nat) (x : CpCmd) (i : Nat) : Nat :=
  fld (cpRow s core x (x.adr 3 / 64 * 64 + 64 * (i / 16))).toNat (32 * (i % 16)) 32

/-- One row of a record, from a source address to a destination row, converted when the formats differ. -/
def recRow (s : State) (core : Nat) (x : CpCmd) (src : Nat) (dst : Option Nat) (zero : Bool) :
    List CpWr × Cnt × Bool :=
  match dst with
  | none => ([], Cnt.zero, false)
  | some pa =>
    let es := cpEnd s core x false src
    let ed : CpEnd := { reg := bankReg s x.fmts pa, pa := pa }
    let fs := rFmt es.reg
    let fd := rFmt ed.reg
    let full : BitVec 64 := bytesMask 64
    if zero then ([{ pa := pa, data := 0, mask := full, add := 0 }], Cnt.zero, fd = 8)
    else if fs = 8 ∨ fd = 8 then ([], Cnt.zero, true)
    else if rawMove fs fd then ([{ pa := pa, data := cpRow s core x src, mask := full, add := 0 }], Cnt.zero, false)
    else
      let n := 512 / bW fs
      if bW fs ≠ bW fd ∨ !cpScales es n ∨ !cpScales ed n then ([], Cnt.zero, true)
      else
        let r := cpConv s x fs es ed n (cpRow s core x src).toNat
        ([{ pa := pa, data := BitVec.ofNat 512 r.1, mask := full, add := 0 }], r.2, false)

/-- The rows that a gather moves (R188): source address, destination row, whether the record is skipped and zeros go there. -/
def cpgRecs (s : State) (core : Nat) (x : CpCmd) : List (Nat × Option Nat × Bool) :=
  let k := x.recB / 64
  (List.range x.cn).flatMap (fun i =>
    let y := cpIndex s core x i
    (List.range k).map (fun r =>
      (x.adr 0 / 64 * 64 + y * x.recB + 64 * r, cpDstRow s core x (x.adr 1 / 64 * 64) (i * k + r), decide (x.cl ≤ y))))

/-- The rows that a scatter moves (R188). -/
def cpsRecs (s : State) (core : Nat) (x : CpCmd) : List (Nat × Option Nat × Bool) :=
  let k := x.recB / 64
  (List.range x.cn).flatMap (fun i =>
    let y := cpIndex s core x i
    if x.cl ≤ y then [] else (List.range k).map (fun r =>
      (x.adr 0 / 64 * 64 + i * x.recB + 64 * r, cpDstRow s core x (x.adr 1 / 64 * 64) (y * k + r), false)))

/-- Join the rows of the records of a gather or scatter; `skipped` records count in `NSAT` (R188). -/
def recJoin (ecw : Bool) (l : List (List CpWr × Cnt × Bool)) (skipped : Nat) : CpOut :=
  if ecw || l.any (·.2.2) then cpStop 1
  else
    let c := l.foldl (fun a r => a.plus r.2.1) Cnt.zero
    { sts := if skipped = 0 then 0 else 2, c := { c with sat := c.sat + skipped }, l := l.flatMap (·.1) }

/-- The records that a command skips (R188). -/
def cpSkips (s : State) (core : Nat) (x : CpCmd) : Nat :=
  ((List.range x.cn).filter (fun i => decide (x.cl ≤ cpIndex s core x i))).length

/-- `cpg` (R188): skipped records are written as zeros. (DEDUCED, log 49) -/
def cpgOut (s : State) (core : Nat) (x : CpCmd) : CpOut :=
  recJoin (namesEcw s core x) ((cpgRecs s core x).map (fun r => recRow s core x r.1 r.2.1 r.2.2)) (cpSkips s core x)

/-- `cps` (R188): records are applied in ascending order. (DEDUCED, log 49) -/
def cpsOut (s : State) (core : Nat) (x : CpCmd) : CpOut :=
  recJoin (namesEcw s core x) ((cpsRecs s core x).map (fun r => recRow s core x r.1 r.2.1 r.2.2)) (cpSkips s core x)

/-- The region that a `cpt` moves: its source and destination addresses and its bytes (R190). -/
def cptSpan (x : CpCmd) : Nat × Nat × Nat :=
  if x.prm.getLsbD 10 then
    match lookupE x.tab (x.adr 1) with
    | some (_, e) => (x.adr 0, x.adr 1 / 2 ^ e.lsz * 2 ^ e.lsz, 2 ^ e.lsz)
    | none => (x.adr 0, x.adr 1, 0)
  else
    match lookupE x.tab (x.adr 0) with
    | some (_, e) => (x.adr 0, x.adr 1, 2 ^ e.lsz)
    | none => (x.adr 0, x.adr 1, 0)

/-- `cpt` (R190): bits move unchanged between the region and the second tier. -/
def cptOut (s : State) (core : Nat) (x : CpCmd) : CpOut :=
  let r := cptSpan x
  if namesEcw s core x || (List.range (r.2.2 / 64)).any (fun i =>
      rFmt (cpFmt s core x false (r.1 + 64 * i)) == 8 || rFmt (cpFmt s core x true (r.2.1 + 64 * i)) == 8) then cpStop 1
  else { sts := 0, c := Cnt.zero, l := (List.range (r.2.2 / 64)).filterMap (fun i =>
    (cpPa core x true (r.2.1 + 64 * i)).map (fun pa =>
      { pa := rowBase pa, data := cpRow s core x (r.1 + 64 * i), mask := bytesMask 64, add := 0 })) }

/-- The canonical code of R191 as a list of (length, code, symbol): none for a code-table error. -/
def codeTable (lens : List Nat) : Option (List (Nat × Nat × Nat)) :=
  let start : Nat × List (Nat × Nat × Nat) × Bool := (0, [], lens.any (fun l => decide (16 < l)))
  let r := (List.range 16).foldl (fun (a : Nat × List (Nat × Nat × Nat) × Bool) i =>
    let len := i + 1
    let b := lens.zipIdx.foldl (fun (b : Nat × List (Nat × Nat × Nat)) y =>
      if y.1 = len then (b.1 + 1, b.2 ++ [(len, b.1, y.2)]) else b) (a.1, a.2.1)
    (b.1 * 2, b.2, a.2.2 || decide (2 ^ len < b.1))) start
  if r.2.2 || r.2.1.isEmpty then none else some r.2.1

/-- Bit `k` of the input of a `cpz`, most significant bit of each byte first. -/
def cpzBit (s : State) (core : Nat) (x : CpCmd) (k : Nat) : Nat :=
  fld (cpByte s core x (x.adr 0 + k / 8)) (7 - k % 8) 1

/-- Decode one symbol from bit `k`: the symbol and its length; none when no code matches or the input ends. -/
def cpzSym (s : State) (core : Nat) (x : CpCmd) (tab : List (Nat × Nat × Nat)) (lim : Nat) :
    Nat → Nat → Nat → Nat → Option (Nat × Nat)
  | _, _, _, 0 => none
  | k, code, len, n + 1 =>
    if lim ≤ k then none
    else
      let c := 2 * code + cpzBit s core x k
      match tab.find? (fun t => t.1 == len + 1 && t.2.1 == c) with
      | some t => some (t.2.2, len + 1)
      | none => cpzSym s core x tab lim (k + 1) c (len + 1) n

/-- Decode up to `n` bytes from bit `k`, in order; whether all were found. -/
def cpzBytes (s : State) (core : Nat) (x : CpCmd) (tab : List (Nat × Nat × Nat)) (lim : Nat) :
    Nat → Nat → List Nat × Bool
  | _, 0 => ([], true)
  | k, n + 1 =>
    match cpzSym s core x tab lim k 0 0 16 with
    | none => ([], false)
    | some (b, len) =>
      let r := cpzBytes s core x tab lim (k + len) n
      (b :: r.1, r.2)

/-- `cpz` (R191): on a decode error only the whole destination rows before it are written. -/
def cpzOut (s : State) (core : Nat) (x : CpCmd) : CpOut :=
  let dst := cpDstSegs s core x
  let fs := x.sym
  let ws := x.symW
  if (rowVas (x.adr 0) (wf (x.word 8) 0 32)).any (fun va => let f := rFmt (cpFmt s core x false va)
        decide (f ≠ 0) && decide (f ≠ 8)) ||
      rFmt (cpDstEnd s core x).reg = 8 || anyEcw dst || dst.any (fun g => !rawMove fs (rFmt g.e.reg) && !g.scaled) then cpStop 1
  else match codeTable ((List.range 256).map (fun i => cpByte s core x (x.adr 6 + i))) with
    | none => cpStop 4
    | some tab =>
      let r := cpzBytes s core x tab (8 * wf (x.word 8) 0 32) 0 (cdiv (x.cn * ws) 8)
      let v := joinN 8 r.1
      let rows := if r.2 then dst else dst.filter (fun g => decide (g.lo + g.n ≤ 8 * r.1.length / ws))
      { cpPut 0 rows (fun g j => moveElem (fs, fld v ((g.lo + j) * ws) ws, 0) (rFmt g.e.reg) (cpHdr s x g.e j)) with
        sts := if r.2 then 0 else 3 }

/-- A working value as FP32 bits, rounded RNE. -/
def workF : Work → Nat
  | .raw x => x
  | .flt x => x
  | .int x => (iToF fp32 0 false x).1

/-- A working value as S32 bits: a float is rounded RNE and saturated, which counts (R49). -/
def workI (v : Work) : Nat × Cnt :=
  let r := encI 32 v
  (r.1, cntOf r.2.1 r.2.2)

/-- `coll` (R192). -/
def collOut (s : State) (core : Nat) (x : CpCmd) : CpOut :=
  let add := wf x.prm 9 2
  if add = 0 then cpMove s core x
  else if namesEcw s core x || anyEcw (cpSrcSegs s core x) || anyEcw (cpDstSegs s core x) ||
      (cpSrcSegs s core x).any (fun g => !g.scaled) then cpStop 1
  else
    let l := (cpElems s core x).map (fun e => let d := decodeE e.1 e.2.1 e.2.2
      if add = 1 then (workF d.1, cntOf d.2 false) else ((workI d.1).1, (workI d.1).2.once (cntOf d.2 false)))
    cpPut add (cpDstSegs s core x) (fun g j => l.getD (g.lo + j) (0, Cnt.zero))

/-- The write of the header of the group of element `j` of an end. -/
def hdrWr (e : CpEnd) (j h : Nat) : CpWr :=
  let g := groupOf e.reg (paRow e.pa) j
  { pa := e.scale (g / 16), data := BitVec.ofNat 512 (h % 2 ^ 24 * 2 ^ (32 * (g % 16)))
    mask := BitVec.ofNat 64 (15 * 2 ^ (4 * (g % 16))), add := 0 }

/-- The packets of compressed gradients for another package (R193): each carries the quantised elements of one row of the
destination, at most sixty-four, with their headers. (DESIGN CHOICE, log 14) -/
def cpcFar (x : CpCmd) (dst : List CpSeg) (add : Nat) (q : List Nat) (hdr : Nat → Nat) : List CpWr :=
  (dst.filter (fun g => !g.gap)).flatMap (fun g => (List.range (cdiv g.n 64)).map (fun c =>
    let l := (q.drop (g.lo + 64 * c)).take (min 64 (g.n - 64 * c))
    { pa := g.e.pa + 64 * c * g.w / 8, data := ofElems 8 l, mask := bytesMask l.length, add := add, grp := x.grp
      hdrs := (List.range (cdiv l.length x.grp)).map (fun k => hdr (g.lo + 64 * c + k * x.grp) % 2 ^ 24) }))

/-- Does a destination row take the quantised elements raw: GQ8 of the command's group size (R193)? -/
def CpSeg.takes (x : CpCmd) (g : CpSeg) : Bool := rFmt g.e.reg == 6 && rG g.e.reg == x.grp

/-- One element of a `cpc` (R193): the quantised value, the new residual, what the quantisation counts. -/
def cpcElem (g r hdr : Nat) : Nat × Nat × Cnt :=
  let v := (fAdd fp32 0 false g r).1
  let q := encQ 8 hdr (.flt v)
  let d := (dequant (sgn 8 q.1) hdr).1
  (q.1, (fAdd fp32 0 false v (Nat.xor d (2 ^ 31))).1, cntOf q.2.1 q.2.2)

/-- `cpc` (R193): the residual is written once, here at composition. (DEDUCED, log 46) -/
def cpcOut (s : State) (core : Nat) (x : CpCmd) : CpOut :=
  let src := cpSrcSegs s core x
  let dst := cpDstSegs s core x
  let n := x.cn
  let ad := x.prm.getLsbD 8
  if namesEcw s core x || anyEcw src || anyEcw dst || (ad && dst.any (fun g => rFmt g.e.reg != 1)) ||
      (src ++ dst).any (fun g => !g.scaled) then cpStop 1
  else
    let hdr := fun (j : Nat) => fld (cpRow s core x (x.adr 9 / 64 * 64 + 64 * (j / x.grp / 16))).toNat (32 * (j / x.grp % 16)) 32
    let res := cpBits s core x (x.adr 5) (32 * n)
    let e := cpElems s core x
    let l := (List.range n).map (fun j =>
      let y := e.getD j (0, 0, 0)
      cpcElem (workF (decodeE y.1 y.2.1 y.2.2).1) (fld res (32 * j) 32) (hdr j))
    let at_ := fun (j : Nat) => l.getD j (0, 0, Cnt.zero)
    let dec := fun (j : Nat) => (dequant (sgn 8 (at_ j).1) (hdr j)).1
    let own := { x with prm := x.prm &&& ~~~0x8000 }
    let rw := cpSpread s core own 0 (x.adr 5) (joinN 32 (l.map (·.2.1))) (4 * n)
    if paPkg (cpDstEnd s core x).pa ≠ s.pkg.toNat then
      { sts := 0, c := l.foldl (fun a r => a.plus r.2.2) Cnt.zero, l := rw ++ cpcFar x dst ad.toNat (l.map (·.1)) hdr }
    else
      let r := cpPut ad.toNat dst (fun g j => let q := at_ (g.lo + j)
        if ad then (dec (g.lo + j), q.2.2)
        else if g.takes x then (q.1, q.2.2)
        else let y := encodeE (rFmt g.e.reg) (cpHdr s x g.e j) (.flt (dec (g.lo + j)))
             (y.1, q.2.2.once y.2))
      let heads := (dst.filter (fun g => !ad && !g.gap && g.takes x)).flatMap (fun g =>
        ((List.range g.n).filter (fun j => (g.lo + j) % x.grp == 0)).map (fun j => hdrWr g.e j (hdr (g.lo + j))))
      { r with l := rw ++ r.l ++ heads }

/-- What a command comes to in the state at hand (R187 to R194). -/
def cpOut (s : State) (core : Nat) (x : CpCmd) : CpOut :=
  match x.opc.toNat with
  | 1 => cpyOut s core x
  | 2 => cpgOut s core x
  | 3 => cpsOut s core x
  | 4 => cptOut s core x
  | 5 => cpzOut s core x
  | 6 => collOut s core x
  | 8 => cpfOut s core x
  | 9 => cpcOut s core x
  | _ => cpStop 0

/-! ### The rows a command reads and writes -/

/-- The virtual row addresses that a command reads; those of a gather's records once its index list has
been read. -/
def cpReads (s : State) (core : Nat) (x : CpCmd) : List Nat :=
  let src := (cpSrcSegs s core x).map (fun g => x.adr 0 / 64 * 64 + 64 * g.i)
  match x.opc.toNat with
  | 1 => src
  | 2 => rowVas (x.adr 3 / 64 * 64) (4 * x.cn) ++ ((List.range x.cn).flatMap (fun i =>
      let y := cpIndex s core x i
      if y < x.cl then rowVas (x.adr 0 / 64 * 64 + y * x.recB) x.recB else []))
  | 3 => rowVas (x.adr 3 / 64 * 64) (4 * x.cn) ++ rowVas (x.adr 0 / 64 * 64) (x.cn * x.recB)
  | 4 => rowVas (cptSpan x).1 (cptSpan x).2.2
  | 5 => rowVas (x.adr 0) (wf (x.word 8) 0 32) ++ rowVas (x.adr 6) 256
  | 6 => src
  | 9 => src ++ rowVas (x.adr 5 / 64 * 64) (4 * x.cn) ++ rowVas (x.adr 9 / 64 * 64) (4 * cdiv x.cn x.grp)
  | _ => []

/-- The scale rows whose headers a command reads (R46, R49). -/
def cpHdrRows (s : State) (core : Nat) (x : CpCmd) : List Nat :=
  let src := cpSrcSegs s core x
  let dst := cpDstSegs s core x
  let heads := fun (l : List CpSeg) => l.flatMap (fun g => hdrRows g.e g.n)
  let both := heads (src.filter (·.converts dst)) ++ heads (dst.filter (·.converts src))
  let recs := fun (l : List (Nat × Option Nat × Bool)) => l.flatMap (fun r => match r.2.1 with
    | some pa =>
      let e := cpEnd s core x false r.1
      let d : CpEnd := { reg := bankReg s x.fmts pa, pa := pa }
      if r.2.2 || rawMove (rFmt e.reg) (rFmt d.reg) then [] else hdrRows e (512 / bW (rFmt e.reg)) ++ hdrRows d (512 / bW (rFmt d.reg))
    | none => [])
  match x.opc.toNat with
  | 1 => both
  | 2 => recs (cpgRecs s core x)
  | 3 => recs (cpsRecs s core x)
  | 5 => heads (dst.filter (fun g => !rawMove x.sym (rFmt g.e.reg)))
  | 6 => if wf x.prm 9 2 = 0 then both else heads src
  | 8 => heads dst
  | 9 => heads src ++ (if paPkg (cpDstEnd s core x).pa ≠ s.pkg.toNat ∨ x.prm.getLsbD 8 then [] else heads (dst.filter (fun g => !g.takes x)))
  | _ => []

/-- The physical rows that a command reads. -/
def cpReadPas (s : State) (core : Nat) (x : CpCmd) : List Nat :=
  ((cpReads s core x).filterMap (cpPa core x false)).map rowBase ++ cpHdrRows s core x

/-- The physical rows of other packages that a command reads and does not have yet. -/
def cpMissing (s : State) (core : Nat) (x : CpCmd) : List Nat :=
  (cpReadPas s core x).filter (fun pa => decide (paPkg pa ≠ s.pkg.toNat) && !x.got.any (fun g => g.1 == pa))

/-- The first row with an uncorrectable error that a command reads, those it adds to in this package included (R392). -/
def cpBad (s : State) (core : Nat) (x : CpCmd) (out : CpOut) : Option Nat :=
  (x.bads.head?).or ((cpReadPas s core x ++ (out.l.filter (fun w => w.add != 0)).map (·.pa)).find? (fun pa =>
    decide (paPkg pa = s.pkg.toNat) && poisoned s pa))

/-- Is the class of a command ordered between packages (R324)? The spec names neither class for `cpg`, `cps`, `cpz` and `cpf`, which take
the ordered one of `cpy` (DESIGN CHOICE, log 101). -/
def cpUnord (x : CpCmd) : Bool := !(x.opc == 1 || x.opc == 2 || x.opc == 3 || x.opc == 5 || x.opc == 8)

/-! ### Performing a write (R184, R192) -/

/-- One lane of a collective addition (R192). (DEDUCED, log 52) -/
def addLane (add a b : Nat) : Nat := if add = 1 then (fAdd fp32 0 false a b).1 else (a + b) % 2 ^ 32

/-- A row after a collective addition in the lanes of a mask. (DEDUCED, log 52) -/
def addRow (add : Nat) (old data : Row) : Row :=
  ofElems 32 ((List.range 16).map (fun k => addLane add (elem 32 old k) (elem 32 data k)))

/-- Perform one row's write: stores whole or in part, additions in one step (R192). (DEDUCED, log 52) -/
def rowWrite (s : State) (w : CpWr) : State :=
  let s1 := dropTag s w.pa
  let data := if w.add = 0 then w.data else addRow w.add (rowAt s1 w.pa) w.data
  if w.add ≠ 0 then writePart s1 w.pa data w.mask
  else if w.mask = bytesMask 64 then writeRow s1 w.pa data
  else writePart (noteFound s1 w.pa w.mask.toNat) w.pa data w.mask

/-- What compressed gradients come to at a destination of this package (R193): a GQ8 bank of their group size takes them
raw with their headers; any other format is decoded and encoded; sums are of FP32. (DESIGN CHOICE, log 14) -/
def gradWrites (s : State) (w : CpWr) : List CpWr :=
  let e : CpEnd := { reg := bankReg s (allFmts s) w.pa, pa := rowBase w.pa }
  let fd := rFmt e.reg
  let n := ((List.range 64).filter (fun i => w.mask.getLsbD i)).length
  let wd := if w.add ≠ 0 then 32 else bW fd
  let o := w.pa % 64
  let dec := fun (j : Nat) => (dequant (sgn 8 (elem 8 w.data j)) (w.hdrs.getD (j / w.grp) 0)).1
  let put := fun (v b : Nat) (add : Nat) =>
    ({ pa := rowBase w.pa, data := BitVec.ofNat 512 (v * 2 ^ (8 * o)), mask := bytesMask b <<< o, add := add } : CpWr)
  if w.add ≠ 0 then [put (joinN 32 ((List.range n).map dec)) (4 * n) w.add]
  else if fd = 6 ∧ rG e.reg = w.grp then
    put w.data.toNat n 0 :: (List.range w.hdrs.length).map (fun g => hdrWr e (o + g * w.grp) (w.hdrs.getD g 0))
  else
    let hdr := fun (j : Nat) =>
      let g := groupOf e.reg (paRow e.pa) (o * 8 / wd + j)
      if isGq fd then fld (rowAt s (e.scale (g / 16))).toNat (32 * (g % 16)) 32 else 0
    [put (joinN wd ((List.range n).map (fun j => (encodeE fd (hdr j) (.flt (dec j))).1))) (cdiv (n * wd) 8) 0]

/-- Perform a write at a home of this package. (DEDUCED, log 52) -/
def homeWrite (s : State) (w : CpWr) : State := if w.grp = 0 then rowWrite s w else (gradWrites s w).foldl rowWrite s

/-- The operand word of a packet that carries a write: its mask, or for compressed gradients their headers, count and group;
its addition; its issuer (R193, R403). (DESIGN CHOICE, log 14) -/
def wrOpd (w : CpWr) (ctx node core : Nat) : Nat :=
  let n := ((List.range 64).filter (fun i => w.mask.getLsbD i)).length
  let lo := if w.grp = 0 then w.mask.toNat
    else w.hdrs.getD 0 0 + 2 ^ 24 * w.hdrs.getD 1 0 + 2 ^ 48 * n + 2 ^ 56 * (w.grp / 64)
  lo + 2 ^ 64 * (w.add + (if w.grp = 0 then 0 else 128) + 256 * (ctx + 16 * (node % 2 ^ 32 + 2 ^ 32 * core)))

/-- Perform or send one write of a command; collective additions are logged in their order (R355).
(DESIGN CHOICE, logs 13 and 14) -/
def cpWrite (core : Nat) (x : CpCmd) (s : State) (w : CpWr) : State :=
  let n := nodeIds s core
  if paPkg w.pa = s.pkg.toNat then
    let s1 := if w.add = 0 then s
              else choose s n.1 n.2 2 w.pa (agentBits s.pkg core false) core false
    homeWrite (noteEngine s1 core w.pa) w
  else
    let full := decide (w.mask = bytesMask 64) && decide (w.grp = 0)
    let kind := if w.add ≠ 0 then 6 else if full then 1 else 2
    composePkt (noteEngine s core w.pa) kind (cpUnord x) w.pa (wrOpd w n.1 n.2 core) w.data core none (some x.num)

/-- Change the first command of the engine. -/
def modHead (s : State) (core : Nat) (g : CpCmd → CpCmd) : State :=
  modArch s core (fun a => { a with cp := a.cp.modifyHead g })

/-! ### Publishing (R194, R322) -/

/-- The range that a command publishes, if it publishes: `pub`, `ap`, and a successful offload. (DEDUCED, log 50) -/
def pubSpan (s : State) (core : Nat) (x : CpCmd) : Option (Nat × Nat) :=
  let off := x.opc == 4 && !x.prm.getLsbD 10
  if x.opc == 7 then some (x.adr 1, x.cn * 64)
  else if x.hp || (x.opc == 4 && x.sts != 0) then none
  else if x.prm.getLsbD 20 || off then
    some (match x.opc.toNat with
      | 4 => (cptSpan x).2
      | 2 => (x.adr 1, x.cn * x.recB)
      | 3 => (x.adr 1, x.cl * x.recB)
      | _ => (x.adr 1, segBytes (cpDstSegs s core x)))
  else none

/-- The shadowed entries of the core's table whose regions meet a range (R194). -/
def pubEntries (a : Arch) (r : Nat × Nat) : List TEntry :=
  (a.tab.filter (fun x => x.2.shp && x.2.w0.getLsbD 63 && decide (0 < r.2) &&
    (let b := wf x.2.w0 16 32 * 65536
     decide (b < r.1 + r.2) && decide (r.1 < b + 2 ^ x.2.lsz)))).map (·.2)

/-- The shadowed entries that a command publishes: those of its range, or of the handle's buffer that it has written
(R194). (DEDUCED, log 50) -/
def pubEnts (s : State) (core : Nat) (x : CpCmd) : List TEntry :=
  if x.hp then
    let h := handleOf (tget 0 (archOf s core).h x.hn)
    let row := fun (i : Nat) => sliceRow s.pkg h.peer (h.base + i)
    if !x.prm.getLsbD 20 || x.made == 0 then []
    else (((archOf s core).tab.filter (fun y => y.2.shp && (List.range h.size).any (fun i => (y.2.vaOf core (row i)).isSome))).map (·.2))
  else match pubSpan s core x with
    | none => []
    | some r => pubEntries (archOf s core) r

/-- Set the side of a region in a table. -/
def setSide (reg : Nat) (side : Bool) (a : Arch) : Arch :=
  { a with tab := a.tab.map (fun x =>
      if x.2.reg = reg ∧ x.2.shp then (x.1, { x.2 with w3 := setFld x.2.w3 6 1 side.toNat }) else x) }

/-- The tables of a context on a core, of its running task and of its saved images, take sides of regions. -/
def setSides (s : State) (ctx tab : Nat) (l : List (Nat × Bool)) : State :=
  let g := fun (a : Arch) => l.foldl (fun a x => setSide x.1 x.2 a) a
  let s1 := if ((archOf s tab).task.map (·.ctx)) = some ctx then modArch s tab g else s
  { s1 with hub := { s1.hub with saves := s1.hub.saves.map (fun v =>
      if v.core = tab ∧ v.ctx = ctx then { v with arch := g v.arch } else v) } }

/-- A region's shadow record takes a side (R418). -/
def recSide (ctx : Nat) (s : State) (x : Nat × Bool) : State :=
  let y := ctxOf s ctx
  let a := y.shtb.toNat + 32 * x.1 + 4
  if x.1 < y.shtn.toNat then
    let b := readN s.mem (canon a) 1
    writeRec s a 1 (b / 16 * 16 + x.2.toNat * 8 + b % 8)
  else s

/-- The cores of the package whose tables a publish of a context reaches at a scope, and 1024 for the other packages that
routes lead to (R322). -/
def flipTabs (s : State) (core ctx scp : Nat) : List Nat :=
  let l := ((s.cores.filter (fun c => (c.2.arch.task.map (·.ctx)) == some ctx)).map (·.1) ++
    (s.hub.saves.filter (fun v => v.ctx == ctx)).map (·.core)).eraseDups
  l.filter (inScope scp core) ++ (if 6 ≤ scp ∧ s.fab.rt.any (fun r => r.2.getLsbD 63) then [1024] else [])

/-- The publish of the engine's first command is performed (R194, R322): the new sides are the complements of the issuing
core's, and their broadcast begins. (DEDUCED, log 50) -/
def publish (s : State) (core : Nat) : State :=
  match (archOf s core).cp with
  | [] => s
  | x :: _ =>
    let l := (pubEnts s core x).map (fun e => (e.reg, !e.side))
    if x.phase = 2 ∧ !x.flip ∧ x.pub.isNone ∧ !l.isEmpty then
      let n := nodeIds s core
      let s1 := modNode s n.1 n.2 (fun y =>
        { y with pubs := y.pubs ++ (l.map (·.1)).filter (fun r => !y.pubs.contains r) })
      let f : Flip := { id := s.ids, core := core, ctx := n.1, sides := l, todo := flipTabs s core n.1 (wf x.prm 16 4), scp := wf x.prm 16 4 }
      let s2 := if f.todo.isEmpty then l.foldl (recSide n.1) s1 else { s1 with hub := { s1.hub with flips := s1.hub.flips ++ [f] } }
      modHead { s2 with ids := s.ids + 1 }
        core (fun x => { x with pub := some f.id, flip := f.todo.isEmpty })
    else s

/-- The broadcast of a core's publish reaches a table in its scope, which takes the new sides; with the last table the publish
has completed, and the shadow records take its sides (R322, R418). (DEDUCED, log 50) -/
def flipTable (s0 : State) (core tab : Nat) : State :=
  let s := publish s0 core
  match s.hub.flips.find? (fun f => f.core == core && f.todo.contains tab) with
  | none => s
  | some f =>
    let s1 := if tab < 1024 then setSides s f.ctx tab f.sides else s
    let left := f.todo.filter (· != tab)
    let s2 := { s1 with hub := { s1.hub with flips :=
      (s1.hub.flips.map (fun g => if g.id = f.id then { g with todo := left } else g)).filter (fun g => !g.todo.isEmpty) } }
    if left.isEmpty then
      modArch (f.sides.foldl (recSide f.ctx) s2) core (fun a => { a with cp := a.cp.map (fun x => if x.pub = some f.id then { x with flip := true } else x) })
    else s2

/-- A publish of another package reaches the tables of a core that map its region (R322), which the base of the region's first
copy names. (DEDUCED, log 50) -/
def flipFar (s : State) (base : Nat) (side : Bool) (tab : Nat) : State :=
  let hit := fun (a : Arch) => ((a.tab.filter (fun x => x.2.shp && wf x.2.w1 0 56 == base)).map (fun x => (x.2.reg, side))).eraseDups
  let here := ((archOf s tab).task.map (fun t => (t.ctx, hit (archOf s tab)))).toList ++
    (s.hub.saves.filter (fun v => v.core == tab)).map (fun v => (v.ctx, hit v.arch))
  here.foldl (fun s x => x.2.foldl (recSide x.1) (setSides s x.1 tab x.2)) s

/-! ### Completion in order (R165, R184) -/

/-- May a command's accesses begin: the stores it follows are performed, the bundle's compare has passed,
and the banks it reaches are owned (R29, R163, R184)? (DEDUCED, log 43) -/
def cpReady (s : State) (core : Nat) (x : CpCmd) (out : CpOut) : Bool :=
  let a := archOf s core
  x.stg.isNone && x.wait.all (fun i => !a.reqs.any (fun r => r.id == i)) &&
    (cpReadPas s core x).all (fun pa => ownsBank s core pa && tierUp s pa) &&
    out.l.all (fun w => ownsBank s core w.pa && tierUp s w.pa)

/-- Does a collective addition wait at its unit for the log (R358)? -/
def cpHeld (s : State) (core : Nat) (w : CpWr) : Bool :=
  let n := nodeIds s core
  w.add != 0 && paPkg w.pa == s.pkg.toNat && !mayArrive s n.1 n.2 2 w.pa (agentBits s.pkg core false)

/-- Perform or send the writes of a command in order; those that the log holds at their units are left (R358). -/
def cpWrites (core : Nat) (x : CpCmd) : List CpWr → State → State × List CpWr
  | [], s => (s, [])
  | w :: t, s =>
    if cpHeld s core w then
      let r := cpWrites core x t (holdArrival s (nodeIds s core).1 (nodeIds s core).2 2 w.pa (agentBits s.pkg core false))
      (r.1, w :: r.2)
    else cpWrites core x t (cpWrite core x s w)

/-- Has a command an end in the second tier, source or destination (R411)? -/
def toTier (s : State) (x : CpCmd) (core : Nat) (out : CpOut) : Bool :=
  out.l.any (fun w => paSpace w.pa == 2) || (cpReadPas s core x).any (fun pa => paSpace pa == 2) || (x.opc == 4 && (cpPa core x true (x.adr 1)).any (fun p => paSpace p == 2))

/-- Ask another package for rows (R403). -/
def askRows (s : State) (core : Nat) (x : CpCmd) (l : List Nat) : State :=
  let new := l.eraseDups.filter (fun pa => !x.asked.contains pa)
  modHead (new.foldl (fun s pa => composePkt s 4 (cpUnord x) pa 0 0 core none none) s) core
    (fun x => { x with asked := x.asked ++ new })

/-- Execute the first command: its rows are read, converted and written or sent (R184). (DEDUCED, log 53) -/
def cpExecute (s : State) (core : Nat) (x : CpCmd) (out : CpOut) : State :=
  if x.hp then modHead s core (fun x => { x with phase := 2, sts := out.sts, nsat := out.c.sat, ninv := out.c.inv
                                                 ninx := out.c.inx })
  else
    let tier := toTier s x core out
    let full := tier && !Config.tierRoom s.fresh
    let s0 := if tier then { s with fresh := s.fresh + 1 } else s
    let r := if full then (s0, []) else cpWrites core x out.l s0
    let far := !full && out.l.any (fun w => paPkg w.pa != s.pkg.toNat)
    modHead r.1 core (fun x => { x with
      phase := if far || !r.2.isEmpty then 1 else 2, left := r.2, sts := if full then 6 else out.sts
      nsat := if full then 0 else out.c.sat, ninv := if full then 0 else out.c.inv
      ninx := if full then 0 else out.c.inx })

/-- What a completed `cpt` leaves behind: a fetched region is resident; a dropped source is dropped, and the
copy it left is remembered (R190, R298). (DESIGN CHOICE, log 15; DEDUCED, logs 50 and 51) -/
def cptEnd (s : State) (core : Nat) (x : CpCmd) : State :=
  match (archOf s core).task, lookupE x.tab (if x.prm.getLsbD 10 then x.adr 1 else x.adr 0) with
  | some t, some (_, e) =>
    if x.prm.getLsbD 10 then resident s t.ctx e.reg
    else if x.prm.getLsbD 9 && x.sts == 0 then
      modCtx (setRes s t.ctx e.reg 3) t.ctx (fun c => { c with
        left := (e.reg, (cpPa core x true (x.adr 1)).getD 0) :: c.left.filter (fun y => y.1 != e.reg) })
    else s
  | _, _ => s

/-- End the first command when its packets are acknowledged and its publish has been performed. (DEDUCED, log 53) -/
def cpFinish (s : State) (core : Nat) : State :=
  match (archOf s core).cp with
  | [] => s
  | x :: t =>
    if x.phase ≠ 2 ∨ (!x.flip ∧ (x.pub.isSome ∨ !(pubEnts s core x).isEmpty)) then s
    else
      let s1 := modArch s core (fun a => { a with cp := t })
      let s2 := if x.opc = 4 then cptEnd s1 core x else s1
      complete s2 core 1 x.opc.toNat x.cf x.ce x.num x.sts.toNat { sat := x.nsat, inv := x.ninv, inx := x.ninx }

/-- How many rows a command that produces into a handle produces. -/
def cpMake (out : CpOut) (x : CpCmd) : Bool := x.hp && decide (x.made < out.l.length)

/-- Move the first command on (R165, R184): it asks for the rows it lacks, executes, waits for its
acknowledgments, and completes. (DEDUCED, log 53) -/
def cpAdvance (s : State) (core : Nat) : State :=
  match (archOf s core).cp with
  | [] => s
  | x :: _ =>
    match x.phase with
    | 0 =>
      let out := cpOut s core x
      if !cpReady s core x out then s
      else if !(cpMissing s core x).isEmpty then askRows s core x (cpMissing s core x)
      else match cpBad s core x out with
        | some pa => notePend (modHead s core (fun x => { x with phase := 3 })) { core := core, side := false } 18
            x.slot.toNat 3 x.pc (BitVec.ofNat 64 pa)
        | none =>
          if cpMake out x then s else cpFinish (cpExecute s core x out) core
    | 1 =>
      if !x.left.isEmpty then
        let r := cpWrites core x x.left s
        modHead r.1 core (fun x => { x with left := r.2 })
      else if x.err || s.fab.retry.any (fun y => y.core == core && y.cmd == some x.num) then s
      else cpFinish (modHead s core (fun x => { x with phase := 2 })) core
    | 2 => cpFinish s core
    | _ => s

/-- Advance `PRD` of a handle by one row and send the update to the peer (R157, R189). -/
def stepPrd (s : State) (core hn : Nat) : State :=
  let w := tget 0 (archOf s core).h hn
  let x := handleOf w
  let v := (x.prd + 1) % (2 * x.size)
  let s1 := modArch s core (fun a => { a with h := tput a.h hn (setPtr w true v) })
  if x.peer = core then s1
  else { s1 with net := s1.net ++ [{ src := core, side := false, dst := x.peer, msg := .pointer hn true (BitVec.ofNat 13 v)
                                     wait := [], out := false, stg := none, ctx := (nodeIds s core).1
                                     node := (nodeIds s core).2 }] }

/-- A copy command that produces into a handle writes its next row when the free count allows (R189). -/
def cpProduce (s : State) (core : Nat) : State :=
  match (archOf s core).cp with
  | [] => s
  | x :: _ =>
    let out := cpOut s core x
    if x.phase ≠ 0 ∨ !x.hp ∨ !cpReady s core x out ∨ (handleOf (tget 0 (archOf s core).h x.hn)).free = 0 then s
    else if !(cpMissing s core x).isEmpty then askRows s core x (cpMissing s core x)
    else match cpBad s core x out with
      | some pa => notePend (modHead s core (fun x => { x with phase := 3 })) { core := core, side := false } 18
          x.slot.toNat 3 x.pc (BitVec.ofNat 64 pa)
      | none => match out.l[x.made]? with
        | none => s
        | some w => modHead (stepPrd (homeWrite (noteEngine s core w.pa) w) core x.hn) core
            (fun x => { x with made := x.made + 1 })

/-- The first poisoned row among those from address `pa` of `n` bits (R392). -/
def bitsBad (s : State) (pa n : Nat) : Option Nat :=
  let r := pa / 64
  ((List.range (cdiv (pa % 64 * 8 + n) 512)).find? (fun i => poisoned s (64 * (r + i)))).map (fun i => 64 * (r + i))

/-- The first poisoned row among those of the matrix and its headers that the next sixteen results read (R392). -/
def smvBad (s : State) (x : SmvCmd) : Option Nat :=
  let w := smvBits x.fmt.toNat
  let g := 32 * 2 ^ x.gs.toNat
  let e := 16 * x.made * x.k
  (bitsBad s (x.b + e * w / 8) (16 * x.k * w)).or (if x.fmt = 0 then none else bitsBad s (x.h + 4 * (e / g)) (32 * (16 * x.k / g)))

/-- Where the next row of an `smv` goes. -/
def smvPa (s : State) (core : Nat) (x : SmvCmd) : Nat := handleDst x.tab core (handlePa s core x.hd.toNat 0)

/-- Can an `smv` go on: the compare and the accesses before it are done, its vector is taken, and its handle and the bank of its next
row allow it (R163, R179, R184, R189)? (DEDUCED, log 43) -/
def smvReady (s : State) (core : Nat) (x : SmvCmd) : Bool :=
  let a := archOf s core
  x.stg.isNone && x.bank.isEmpty && !x.wait.any (fun i => a.reqs.any (fun r => r.id == i)) &&
    (x.ferr || (decide ((handleOf (tget 0 a.h x.hd.toNat)).free ≠ 0) && ownsBank s core (smvPa s core x)))

/-- The place of the `smv` that goes on next: the oldest that can, one into a handle after those before it into the same handle.
(DESIGN CHOICE, log 101) -/
def smvNext (s : State) (core : Nat) : Option Nat :=
  let l := (archOf s core).smv
  (List.range l.length).find? (fun i => match l[i]? with
    | some x => smvReady s core x && !(l.take i).any (fun y => y.hd == x.hd)
    | none => false)

/-- The `smv` at place `i` writes its next row of sixteen results, and completes with its last (R165, R179, R189). -/
def smvStep (s : State) (core i : Nat) : State :=
  match (archOf s core).smv[i]? with
  | none => s
  | some x =>
    let gone := fun (s : State) => modArch s core (fun a => { a with smv := a.smv.eraseIdx i })
    if x.ferr then complete (gone s) core 0 9 x.cf x.ce x.num 1 Cnt.zero
    else match x.bad.or (smvBad s x) with
      | some r => notePend (gone s) { core := core, side := false } 18 20 3 x.pc (BitVec.ofNat 64 r)
      | none =>
        let ys := (List.range 16).map (fun i => smvY s x (16 * x.made + i))
        let c := ys.foldl (fun c y => c.plus (cntOf y.2 false)) Cnt.zero
        let pa := smvPa s core x
        let s1 := stepPrd (homeWrite (noteEngine s core pa)
          { pa := pa, data := ofElems 32 (ys.map (·.1)), mask := bytesMask 64, add := 0 }) core x.hd.toNat
        let y := { x with made := x.made + 1, nsat := x.nsat + c.sat, ninv := x.ninv + c.inv, ninx := x.ninx + c.inx }
        if 16 * (x.made + 1) < x.n then modArch s1 core (fun a => { a with smv := a.smv.set i y })
        else complete (gone s1) core 0 9 x.cf x.ce x.num 0 { sat := y.nsat, inv := y.ninv, inx := y.ninx }

/-- One of the core's `smv` commands goes on, if any can (R179). -/
def smvProduce (s0 : State) (core : Nat) : State :=
  let s := captureSmv s0 core
  match smvNext s core with
  | none => s
  | some i => smvStep s core i

end Sys2Proof.Machine
end

