-- ==== Sys2Proof/Machine/Dispatcher.lean ====
section
/-!
DEFINITION. The dispatcher (R263 to R282, R450): node records and their checks, counters and readiness,
tiles, placement, launch start, task entry, departure and completion, bank hand-over.
-/
namespace Sys2Proof.Machine

/-! ### Node records (R263) -/

/-- A field of a node record. -/
def ndF (r : BitVec 1024) (o n : Nat) : Nat := recN r o n
/-- Dimension `i` of the tile space. -/
def ndDim (r : BitVec 1024) (i : Nat) : Nat := recN r (16 + 4 * i) 4
/-- Dimension count. -/
def ndNd (r : BitVec 1024) : Nat := recN r 32 1
/-- The dimension at a walk position. -/
def ndOrd (r : BitVec 1024) (p : Nat) : Nat := fld (recN r 33 1) (2 * p) 2
/-- A flag of `NFLG`. -/
def ndFlag (r : BitVec 1024) (b : Nat) : Bool := (recN r 37 1).testBit b
/-- Priority. -/
def ndPri (r : BitVec 1024) : Nat := recN r 35 1
/-- Demand class. -/
def ndDmd (r : BitVec 1024) : Nat := recN r 36 1
/-- Stand mask. -/
def ndStd (r : BitVec 1024) : Nat := recN r 40 16
/-- Wait `i`: counter and threshold. -/
def ndWait (r : BitVec 1024) (i : Nat) : Nat × Nat := (recN r (80 + 8 * i) 2, recN r (84 + 8 * i) 4)
/-- Increment `i`: counter and amount. -/
def ndInc (r : BitVec 1024) (i : Nat) : Nat × Nat := (recN r (112 + 4 * i) 2, recN r (114 + 4 * i) 2)
/-- Tiles of the tile space (R268). -/
def ndTiles (r : BitVec 1024) : Nat := ndDim r 0 * ndDim r 1 * ndDim r 2 * ndDim r 3

/-- The copses of a stand mask, as grove x 16 + copse. -/
def copsesOf (m : Nat) : List Nat := (List.range 128).filter (fun i => m.testBit i)
/-- The groves of a stand mask. -/
def grovesOf (m : Nat) : List Nat := (List.range 8).filter (fun g => fld m (16 * g) 16 != 0)

/-- The logical cores of a stand in order: crown cores, then root cores (R267). -/
def standCores (m : Nat) (roots : Bool) : List Nat :=
  (copsesOf m).flatMap (fun i => (List.range 4).map (fun j => i / 16 * 128 + i % 16 * 4 + j)) ++
  (if roots then (copsesOf m).map (fun i => i / 16 * 128 + 64 + i % 16) else [])

/-- A stand mask shifted by whole groves, when it stays on the package (R281). -/
def shiftStand (m : Nat) (k : Int) : Option Nat :=
  if 0 ≤ k then (if m * 2 ^ (16 * k.toNat) < 2 ^ 128 then some (m * 2 ^ (16 * k.toNat)) else none)
  else if m % 2 ^ (16 * (-k).toNat) = 0 then some (m / 2 ^ (16 * (-k).toNat)) else none

/-- The grove mask of a context's partition (R377, R378). -/
def partGroves (s : State) (ctx : Nat) : Nat := wf (tget 0 s.hub.part (recN (ctxOf s ctx).record 0 1)) 8 8

/-- Does a stand lie inside a context's partition? -/
def inPart (s : State) (ctx m : Nat) : Bool := (grovesOf m).all (fun g => (partGroves s ctx).testBit g)

/-- Is storage in the reach of a class from a core (R293): the slices of the core, its copse, its grove, its package; HBM of the
package where the partition of the context holds a share (R377)? -/
def inReach (s : State) (ctx core lcl pa : Nat) : Bool :=
  let copse := fun (c : Nat) => if isRoot c then c % 128 - 64 else c % 128 / 4
  let own := decide (paPkg pa = s.pkg.toNat)
  let sram := own && decide (paSpace pa = 0)
  match lcl with
  | 0 => sram && decide (paCore pa = core)
  | 1 => sram && decide (paCore pa / 128 = core / 128) && decide (copse (paCore pa) = copse core)
  | 2 => sram && decide (paCore pa / 128 = core / 128)
  | 3 => sram
  | 4 => own && decide (paSpace pa = 1) && decide (0 < wf (tget 0 s.hub.part (recN (ctxOf s ctx).record 0 1)) 0 8)
  | _ => true

/-- The bases of an entry as a core translates through it, in its own slice when the entry is per core (R287). -/
def TEntry.bases (core : Nat) (e : TEntry) : List Nat :=
  ([wf e.w1 0 56] ++ (if e.shp then [wf e.w2 0 56] else [])).map (fun b =>
    if e.per then b / 2 ^ 32 * 2 ^ 32 + core * 2 ^ 22 + b % 2 ^ 22 else b)

/-- Is the whole range of an entry in the reach of its class from a core (R293)? SRAM is met slice by slice. -/
def reaches (s : State) (ctx core : Nat) (e : TEntry) : Bool :=
  !e.w0.getLsbD 63 || (e.bases core).all (fun b =>
    if paSpace b = 0 then (List.range (cdiv (2 ^ e.lsz) (2 ^ 22))).all (fun i => inReach s ctx core e.lcl (b + i * 2 ^ 22))
    else inReach s ctx core e.lcl b)

/-- An entry of a template with its SRAM bases moved by `k` groves, those of per-core entries excepted (R416); none when a base
leaves the package. -/
def shiftEntry (k : Int) (e : TEntry) : Option TEntry :=
  let mv := fun (b : Word) => if e.per || paSpace b.toNat != 0 then some b
    else
      let g : Int := (wf b 29 3 : Int) + k
      if 0 ≤ g ∧ g < 8 then some (setFld b 29 3 g.toNat) else none
  match mv e.w1, (if e.shp then mv e.w2 else some e.w2) with
  | some a, some b => some { e with w1 := a, w2 := b }
  | _, _ => none

/-- The image a record names, if it is loaded for the context (R265). -/
def imageOf (s : State) (ctx : Nat) (r : BitVec 1024) : Option Image :=
  let i := recN r 120 8
  if fld i 60 4 = ctx ∧ fld i 32 28 = 0 ∧ fld i 0 32 ≠ 0 then
    ((ctxOf s ctx).imgs.find? (fun x => x.1 == fld i 0 32)).map (·.2)
  else none

/-- The template of logical core `k` of an image (R415). -/
def tmplOf (i : Image) (k : Nat) : Tbl TEntry := tget [] i.tmpl k

/-- Does a template shifted by `k` groves keep within reach of the cores of the stand it is then loaded on (R416)? -/
def shiftReaches (s : State) (ctx : Nat) (i : Image) (m : Nat) (roots : Bool) (k : Int) : Bool :=
  let cores := standCores m roots
  i.tmpl.all (fun t => match cores[t.1]? with
    | none => true
    | some c => t.2.all (fun e => !e.2.w0.getLsbD 63 || (match shiftEntry k e.2 with
      | some x => reaches s ctx c x
      | none => false)))

/-- The stand masks a record may take: `NSTD`, or every shift of a relocatable one that fits and keeps its reach (R281, R416). -/
def standMasks (s : State) (ctx : Nat) (r : BitVec 1024) : List Nat :=
  let fits := fun (k : Int) (m : Nat) => inPart s ctx m && (k == 0 || (match imageOf s ctx r with
    | some i => shiftReaches s ctx i m (ndFlag r 0) k
    | none => true))
  if ndFlag r 3 then
    (List.range 15).filterMap (fun (i : Nat) => (shiftStand (ndStd r) ((i : Int) - 7)).filter (fits ((i : Int) - 7)))
  else if inPart s ctx (ndStd r) then [ndStd r] else []

/-- Is an address a block header of an image with execute permission (R264, R266)? -/
def headerOk (i : Image) (va : Nat) : Bool :=
  i.blocks.contains (BitVec.ofNat 48 va) && decide (va < 2 ^ 48) &&
    (match lookupE (tmplOf i 0) va with
    | some (_, e) => e.px
    | none => false)

/-- May the argument image be read (R266)? (DEDUCED, log 57) -/
def argsOk (i : Image) (r : BitVec 1024) : Bool :=
  (List.range (recN r 64 1)).all (fun n => match lookupE (tmplOf i 0) ((recN r 56 8 + 64 * n) % 2 ^ 48) with
    | some (_, e) => e.pr
    | none => false)

/-- The checks whose refusal code is 0x01 (R264, R268). (DEDUCED, log 57) -/
def recBad1 (s : State) (ctx : Nat) (r : BitVec 1024) : Bool :=
  let nd := ndNd r
  let ords := (List.range nd).map (ndOrd r)
  let hnd := recN r 8 8
  decide (recN r 65 1 ≠ 0) || decide (recN r 70 2 ≠ 0) || decide (recN r 6 2 ≠ 0) || decide (recN r 37 1 / 16 ≠ 0) ||
  (List.range 4).any (fun i => decide (recN r (82 + 8 * i) 2 ≠ 0)) ||
  decide (nd < 1) || decide (4 < nd) || (List.range 4).any (fun i => decide (ndDim r i = 0)) ||
  (List.range 4).any (fun i => decide (nd ≤ i) && decide (ndDim r i ≠ 1)) ||
  ords.any (fun o => decide (nd ≤ o)) || decide (ords.eraseDups.length ≠ ords.length) ||
  (List.range 4).any (fun p => decide (nd ≤ p) && decide (ndOrd r p ≠ 0)) ||
  decide (1 < recN r 34 1) || decide (3 < ndPri r) || decide (7 < ndDmd r) || decide (128 < recN r 38 1 + recN r 39 1) ||
  decide (8 < recN r 64 1) ||
  (if recN r 66 2 = 0 then decide (recN r 68 2 ≠ 0) else decide (recN r 68 2 < 2) || decide (256 < recN r 68 2)) ||
  decide (ndStd r = 0) || decide (2 ^ 48 < ndTiles r) ||
  (match imageOf s ctx r with
  | none => true
  | some i => !headerOk i (recN r 0 8) || (hnd != 2 ^ 64 - 1 && !headerOk i hnd) || !argsOk i r)

/-- The check of a record: 0, or the lowest refusal code (R264, R433). (DEDUCED, log 57) -/
def recWhy (s : State) (ctx : Nat) (r : BitVec 1024) : Nat :=
  if recBad1 s ctx r then 1
  else
    let m := (standMasks s ctx r).filter (fun m => (grovesOf m).all (fun g => !s.hub.rfl.getLsbD (8 + g)))
    let badN := fun (n : Nat) => decide (4096 ≤ n) && decide (n ≠ 0xFFFF)
    if m.isEmpty then 2
    else if (List.range 4).any (fun i => badN (ndWait r i).1) || (List.range 2).any (fun i => badN (ndInc r i).1) then 3
    else 0

/-! ### Counters and readiness (R275, R276) -/

/-- Raise an event counter; it holds at its largest value (R275), and the waits on it are evaluated in the next hub tick (R276). -/
def raiseCtr (x : Ctx) (n amt : Nat) : Ctx :=
  let v := (tget 0 x.ctrs n).toNat + amt
  { x with ctrs := tput x.ctrs n (BitVec.ofNat 32 (if v < 2 ^ 32 then v else 2 ^ 32 - 1))
           rose := if x.rose.contains n then x.rose else x.rose ++ [n] }

/-- Does every wait of a record hold (R276)? -/
def waitsHold (x : Ctx) (r : BitVec 1024) : Bool :=
  (List.range 4).all (fun i => (ndWait r i).1 == 0xFFFF || decide ((ndWait r i).2 ≤ (tget 0 x.ctrs (ndWait r i).1).toNat))

/-- Does a record wait on one of some counters? -/
def waitsOn (r : BitVec 1024) (l : List Nat) : Bool := (List.range 4).any (fun i => l.contains (ndWait r i).1)

/-- Evaluate the nodes of a context that wait on counters which rose in the hub tick before (R276). -/
def wakeNodes (s : State) (ctx : Nat) : State :=
  if (ctxOf s ctx).rose.isEmpty then s
  else modCtx s ctx (fun x => { x with rose := [], nodes := x.nodes.map (fun n =>
    if n.2.st == .waiting && waitsOn n.2.record x.rose && waitsHold x n.2.record then
      (n.1, { n.2 with st := .ready, since := s.hub.htck.toNat }) else n) })

/-- The barrier group of a record, 0 for none (R274). -/
def ndGroup (r : BitVec 1024) : Nat := recN r 66 2

/-- A launch of a barrier group has been created (R274). -/
def countMade (r : BitVec 1024) (l : Tbl (Nat × Bool)) : Tbl (Nat × Bool) :=
  if ndGroup r = 0 then l else tmod (0, false) l (ndGroup r) (fun x => (x.1 + 1, x.2 || decide (recN r 68 2 ≤ x.1 + 1)))

/-- The node whose task launches a node from a core, 0 for a node of other origin (R277). -/
def parentOf (s : State) : NodeSrc → Nat
  | .core c _ => (nodeIds s c).2
  | _ => 0

/-- Accept a checked record as the context's next node (R276, R450): its number and the state. Its waits are evaluated at once.
(DEDUCED, log 55) -/
def acceptNode (s : State) (ctx : Nat) (r : BitVec 1024) (src : NodeSrc) (word : Option Word) : Nat × State :=
  let x := ctxOf s ctx
  let n := x.next + 1
  let dev := match src with
    | .core _ _ => true
    | .chain _ => true
    | _ => false
  let node : Node :=
    { record := r, src := src, st := if waitsHold x r then .ready else .waiting, stand := [], draw := 0, gone := [], begun := []
      restart := ndFlag r 1, undo := [], pubs := [], sides := [], back := none, reruns := 0, log0 := 0, log1 := 0
      since := if waitsHold x r then s.hub.htck.toNat else 0, word := word
      kill := none, depth := 0, born := s.hub.htck.toNat, late := [], parent := parentOf s src }
  (n, putCtx s ctx { x with next := n, nodes := tput x.nodes n node, made := countMade r x.made, intake := x.intake + dev.toNat })

/-! ### The `launch` instruction (R204) -/

/-- A launch ticket (R204). (DEDUCED, log 55) -/
def ticket (acc : Bool) (v : Nat) : Word := BitVec.ofNat 64 (if acc then 2 ^ 63 + v % 2 ^ 32 else v * 2 ^ 32)

/-- Are all earlier accesses of a stream performed (R204)? -/
def allDone (p : State) (k : Sid) : Bool := (archOf p k.core).reqs.all (fun r => r.side != k.side) && relDone p k 9

/-- `launch`: posts a device-side node; it holds until the stream's earlier accesses are performed, the context's intake has
room and no core above this one has been served in this hub tick, in protected mode until every earlier bundle has been
compared, then lands its ticket (R29, R198, R204, R450). Teardown wins (R384). (DEDUCED, log 37; DESIGN CHOICE, log 54) -/
def issueLaunch (h : Slot) (o : SmF) (p s : State) : SlotRes :=
  let core := p.focus.core
  let va := rs p o.sa
  match access p core (askSrc true) va, access p core (askSrc true) (va + 127) with
  | .error c, _ => .trap (mkTrap p h c 4 (BitVec.ofNat 64 (wf va 0 48)) 0)
  | _, .error c => .trap (mkTrap p h c 4 (BitVec.ofNat 64 (wf (va + 127) 0 48)) 0)
  | .ok (i, _, pa), .ok (j, _, _) =>
    if wf va 0 6 ≠ 0 then classViolation p h (BitVec.ofNat 64 (wf va 0 48))
    else
      let ctx := (nodeIds p core).1
      let x := ctxOf p ctx
      if x.state = 2 then .ok (modCtx s ctx (fun x => { x with tddev := x.tddev + 1 }))
      else if !allDone p p.focus || decide (64 ≤ x.intake) || missedTurn p (.intake ctx) core || !(coreOf p core).roll.isEmpty then
        .hold 9 false .plain
      else
        let r := BitVec.ofNat 1024 ((arrRow p core p.ids pa).toNat + 2 ^ 512 * (arrRow p core p.ids (pa + 64)).toNat)
        let s1 := takeTurn (countHots s core [i, j]) (.intake ctx) core
        let why := recWhy p ctx r
        if why ≠ 0 then .ok (emitS p s1 h 24 o.sd (ticket false why) 1 0)
        else
          let q := acceptNode s1 ctx r (.core core p.focus.side) none
          .ok (emitS p q.2 h 24 o.sd (ticket true q.1) 1 0)

/-- The step of `launch`. -/
def execLaunch (h : Slot) (o : SmF) (s : State) : Host.Outcome State Fault Refusal :=
  slotStep h (issueLaunch h o) s

/-! ### Admission and placement (R279 to R281) -/

/-- The target register of an island (R427). -/
def isltOf (s : State) (i : Nat) : Word := tget 15 s.can.islt i

/-- Units that a stand of a demand class places on an island (R280). -/
def unitsOn (m d i : Nat) : Nat :=
  d * 4 * ((List.range 2).filter (fun j => m.testBit (16 * (i / 8) + 2 * (i % 8) + j))).length

/-- The stand mask of the cores of a placed node. -/
def maskOfStand (l : List Nat) : Nat :=
  ((l.filter (fun c => !isRoot c)).map (fun c => c / 128 * 16 + c % 128 / 4)).eraseDups.foldl (fun m i => m + 2 ^ i) 0

/-- Units of the placed and incomplete nodes on an island (R280). -/
def unitsPlaced (s : State) (i : Nat) : Nat :=
  s.hub.ctxs.foldl (fun a c => c.2.nodes.foldl (fun a n =>
    if n.2.stand.isEmpty then a else a + unitsOn (maskOfStand n.2.stand) (ndDmd n.2.record) i) a) 0

/-- Does the dispatcher admit a stand: on every island, the units placed and its own stay within the budget (R280)? -/
def admits (s : State) (m d : Nat) : Bool :=
  (List.range 64).all (fun i => decide (unitsPlaced s i + unitsOn m d i ≤ wf (isltOf s i) 24 8))

/-- The hottest reading in a stand (R281). -/
def hottest (s : State) (m : Nat) : Int :=
  (s.health.temps.filter (fun t => m.testBit (t.1 / 64 * 16 + t.1 % 64 / 4))).foldl
    (fun a t => if a < t.2 then t.2 else a) (-32768)

/-- The stand mask with the lowest hottest reading, the lowest first on a tie. -/
def coolest (s : State) : List Nat → Option Nat
  | [] => none
  | m :: t => match coolest s t with
    | none => some m
    | some n => if hottest s m ≤ hottest s n then some m else some n

/-- The stand that a ready node would be placed on now: its groves ready, and admitted (R280, R281, R433). -/
def placeMask (s : State) (ctx : Nat) (n : Node) : Option Nat :=
  coolest s ((standMasks s ctx n.record).filter (fun m =>
    (grovesOf m).all (fun g => s.hub.rdy.getLsbD (8 + g)) && admits s m (ndDmd n.record)))

/-- Nodes by the order in which they became ready, those of one tick by number (R279). -/
def readyBefore (a b : Nat × Node) : Bool :=
  decide (a.2.since < b.2.since) || (a.2.since == b.2.since && decide (a.1 ≤ b.1))

/-- The first of a list in that order. -/
def earliest : List (Nat × Node) → Option (Nat × Node)
  | [] => none
  | x :: t => match earliest t with
    | none => some x
    | some y => if readyBefore x y then some x else some y

/-- The oldest ready admitted node of a context at a priority. -/
def candidate (s : State) (prio ctx : Nat) : Option (Nat × Node) :=
  if (ctxOf s ctx).state ≠ 1 then none
  else earliest ((ctxOf s ctx).nodes.filter (fun n =>
    n.2.st == .ready && ndPri n.2.record == prio && (placeMask s ctx n.2).isSome))

/-- Has a context a ready node of a priority, admitted or not? -/
def backlogged (x : Ctx) (prio : Nat) : Bool := x.nodes.any (fun n => n.2.st == .ready && ndPri n.2.record == prio)

/-- A context keeps no deficit at a priority at which it has no ready node (R279). -/
def dropDeficits (s : State) : State :=
  if s.hub.ctxs.all (fun c => c.2.defic.all (fun d => backlogged c.2 d.1)) then s
  else { s with hub := { s.hub with ctxs := s.hub.ctxs.map (fun c =>
    (c.1, { c.2 with defic := c.2.defic.filter (fun d => backlogged c.2 d.1) })) } }

/-- Commit a node to the cores of its stand (R278, R281), for which it waits from then on (R385). -/
def placeNode (s : State) (ctx n : Nat) (x : Node) (m : Nat) : State :=
  let cores := standCores m (ndFlag x.record 0)
  let own := recN x.record 72 4
  let s1 := modNode s ctx n (fun y => { y with st := .placed, stand := cores, waits := some s.hub.htck.toNat })
  let add := fun (h : Hub) (c : Nat) =>
    let h1 := { h with order := tmod [] h.order c (· ++ [(ctx, n)]) }
    ((List.range (nBanks c)).filter (fun b => own.testBit b)).foldl
      (fun h b => { h with banks := tmod [] h.banks (32 * c + b) (· ++ [(ctx, n)]) }) h1
  { s1 with hub := cores.foldl add s1.hub }

/-- Weighted deficit round-robin over the sixteen contexts of a priority, from its pointer (R279). (DEDUCED, log 56) -/
def drr (s : State) (prio : Nat) : Nat → State
  | 0 => s
  | f + 1 =>
    let c := tget 0 s.hub.rr prio % 16
    let s1 := { s with hub := { s.hub with rr := tput s.hub.rr prio ((c + 1) % 16) } }
    match candidate s prio c with
    | none => drr s1 prio f
    | some (n, x) =>
      let d := tget 0 (ctxOf s1 c).defic prio + 256 * recN (ctxOf s1 c).record 2 1
      let t := ndTiles x.record
      let cost := if t < 65536 then t else 65536
      if cost ≤ d then
        match placeMask s c x with
        | some m => dropDeficits (placeNode (modCtx s1 c (fun y => { y with defic := tput y.defic prio (d - cost) })) c n x m)
        | none => s1
      else drr (modCtx s1 c (fun y => { y with defic := tput y.defic prio d })) prio f

/-- Has a priority a ready node that is admitted? -/
def hasReady (s : State) (prio : Nat) : Bool := (List.range 16).any (fun c => (candidate s prio c).isSome)

/-- Node placement: a ready admitted node of the highest priority that has one is chosen (R279). (DEDUCED, log 56) -/
def execNodePlacement (prio : Nat) (s : State) : Host.Outcome State Fault Refusal :=
  .next (if s.hub.rdy.getLsbD 1 && hasReady s prio && (List.range prio).all (fun q => !hasReady s q) then
    drr s prio 4112 else s)

/-! ### Tiles (R268 to R271) -/

/-- First linear index and tile count of logical core `k` under fixed placement (R269). -/
def fixedTiles (t c k : Nat) : Nat × Nat :=
  let q := t / c
  let e := t % c
  (k * q + (if k < e then k else e), q + (if k < e then 1 else 0))

/-- The coordinates of a linear index, by dimension (R268). -/
def tileCoord (r : BitVec 1024) (l d : Nat) : Nat :=
  match (List.range (ndNd r)).find? (fun p => ndOrd r p == d) with
  | none => 0
  | some p => l / ((List.range p).foldl (fun a q => a * ndDim r (ndOrd r q)) 1) % ndDim r d

/-- The hotness of an entry is added to the shadow record of its region (R299, R416). -/
def addHot (ctx : Nat) (s : State) (e : Nat × TEntry) : State :=
  let x := ctxOf s ctx
  let hot := wf e.2.w0 0 16
  if hot = 0 ∨ x.shtn.toNat ≤ e.2.reg then s
  else
    let a := x.shtb.toNat + 32 * e.2.reg
    let v := readN s.mem (canon a) 4 + hot
    writeRec s a 4 (if v < 2 ^ 32 then v else 2 ^ 32 - 1)

/-- Discard the vertical entries of a node held for a core, with their record (R159). (DEDUCED, log 60) -/
def dropVert (s : State) (core ctx node : Nat) : State :=
  let l := ((archOf s core).queue 7).ents.filter (fun e => e.ctx == ctx && e.node == node)
  if l.isEmpty then s
  else
    let s1 := modArch s core (fun a => { a with q := tmod Queue.idle a.q 7 (fun q =>
      { q with ents := q.ents.filter (fun e => !(e.ctx == ctx && e.node == node)) }) })
    logCtx s1 ctx { kind := 24, trap := 0, sev := 0, out := 0, core := core, side := false, aux := l.length
                    node := node, addr := 0 }

/-- Is a message a vertical entry of a node on its way? -/
def isVert (ctx node : Nat) (m : NetMsg) : Bool := match m.msg with
  | .push q e => q == 7 && e.ctx == ctx && e.node == node
  | _ => false

/-- Discard every vertical entry of a node that ends, held for any core or on its way to one, with a record for each core
(R159). (DEDUCED, log 60) -/
def dropVerts (s : State) (ctx node : Nat) : State :=
  let dsts := ((s.net.filter (isVert ctx node)).map (·.dst)).eraseDups
  let s1 := { s with net := s.net.filter (fun m => !isVert ctx node m) }
  let note := fun (s2 : State) (c : Nat) => logCtx s2 ctx { kind := 24, trap := 0, sev := 0, out := 0, core := c, side := false
                                                            aux := (s.net.filter (fun m => isVert ctx node m && m.dst == c)).length
                                                            node := node, addr := 0 }
  (s.cores.map (·.1)).foldl (fun s c => dropVert s c ctx node) (dsts.foldl note s1)

/-- A core departs its launch: hotness is added to the shadow records, the vertical entries of the node that it holds are
dropped, the core is idle (R159, R272, R416). What its side stream still has to be performed is noted (R276).
(DEDUCED, logs 40 and 60) -/
def departCore (s : State) (core : Nat) : State :=
  match (archOf s core).task with
  | none => s
  | some t =>
    let s1 := (archOf s core).tab.foldl (addHot t.ctx) s
    let s2 := dropVert s1 core t.ctx t.node
    let s3 := modArch s2 core (fun a => { a with
      task := none, run := .idle, tab := [], preq := [], tok := Tokens.none
      main := { a.main with due := .nothing, frame := Frame.empty, pend := [] }
      side := { a.side with due := .nothing, pipe := Pipe.empty, frame := Frame.empty, pend := [] } })
    let s4 := { s3 with hub := { s3.hub with order := tmod [] s3.hub.order core (·.filter (· != (t.ctx, t.node))) } }
    let drop := fun (b : Nat × List (Nat × Nat)) =>
      if b.1 / 32 = core ∧ (archOf s core).rlsd.getLsbD (b.1 % 32) then (b.1, b.2.erase (t.ctx, t.node)) else b
    let s5 := { s4 with hub := { s4.hub with banks := s4.hub.banks.map drop } }
    modNode s5 t.ctx t.node (fun n => { n with
      gone := n.gone ++ [core], late := n.late ++ (archOf s core).reqs.map (fun r => (core, r.id)) })

/-- The draw of a core under drawn placement, or its next tile under fixed placement (R269, R270, R358). A draw that is held,
or that comes after a higher core's of the same hub tick, leaves the core without a tile until it is tried again. -/
def drawTile (s : State) (core : Nat) : State :=
  match (archOf s core).task with
  | none => s
  | some t =>
    match nodeOf s t.ctx t.node with
    | none => s
    | some n =>
      if recN n.record 34 1 = 0 then (if t.left = 0 then departCore s core else s)
      else if 0 < t.left then s
      else
        let agent := s.pkg.toNat * 2 ^ 24 + t.k % 1024 * 2 ^ 14
        if missedTurn s (.draw t.ctx t.node) t.k then s
        else if !mayArrive s t.ctx t.node 3 t.node agent then holdArrival s t.ctx t.node 3 t.node agent
        else
          let s1 := takeTurn (choose s t.ctx t.node 3 t.node agent core false) (.draw t.ctx t.node) t.k
          let s2 := modNode s1 t.ctx t.node (fun n => { n with draw := n.draw + 1 })
          if n.draw < ndTiles n.record then
            modArch s2 core (fun a => { a with task := some { t with next := n.draw, left := 1 } })
          else departCore s2 core

/-! ### Recompute (R298) -/

/-- Change the bases of a region in every table, template and saved image of a context, and in its shadow record
(R298, R418, R420). A base that is none stays as each table has it. -/
def setBases (s : State) (ctx reg : Nat) (b0 b1 : Option Nat) : State :=
  let rebase := fun (b : Option Nat) (w : Word) => (b.map (BitVec.ofNat 64)).getD w
  let e1 := fun (e : TEntry) =>
    if e.reg = reg then { e with w1 := rebase b0 e.w1, w2 := if e.shp then rebase b1 e.w2 else e.w2 } else e
  let tb := fun (t : Tbl TEntry) => t.map (fun x => (x.1, e1 x.2))
  let s1 := { s with
    cores := s.cores.map (fun c => if (c.2.arch.task.map (·.ctx)) = some ctx then
      (c.1, { c.2 with arch := { c.2.arch with tab := tb c.2.arch.tab } }) else c)
    hub := { s.hub with saves := s.hub.saves.map (fun v =>
      if v.ctx = ctx then { v with arch := { v.arch with tab := tb v.arch.tab } } else v) } }
  let s2 := modCtx s1 ctx (fun x => { x with imgs := x.imgs.map (fun i =>
    (i.1, { i.2 with tmpl := i.2.tmpl.map (fun t => (t.1, tb t.2)) })) })
  let x := ctxOf s2 ctx
  if reg < x.shtn.toNat then
    let a := x.shtb.toNat + 32 * reg
    let put := fun (s : State) (at_ : Nat) (b : Option Nat) => match b with
      | some v => writeRec s at_ 7 v
      | none => s
    put (put s2 (a + 11) b0) (a + 18) b1
  else s2

/-- An entry of the context's templates that maps a region. (DEDUCED, log 79) -/
def regionEntry (x : Ctx) (reg : Nat) : Option TEntry :=
  x.imgs.findSome? (fun i => i.2.tmpl.findSome? (fun t => (t.2.find? (fun e => e.2.reg == reg)).map (·.2)))

/-- The first of `k` places of a region, from place `i` on, that no retired range meets (R420); the last when all do.
(DESIGN CHOICE, log 18) -/
def clearPlace (s : State) (base : Nat → Nat) (slots size : Nat) : Nat → Nat → Nat
  | 0, i => base (i % slots)
  | k + 1, i => if meetsRetired s (base (i % slots)) size then clearPlace s base slots size k (i + 1) else base (i % slots)

/-- A base that the dispatcher allocates in HBM for a region in place of an old one, clear of the retired ranges (R420): in the
old base's view, and in the stack view in its stack. SRAM keeps its place, which a relocated stand has shifted (R416).
(DESIGN CHOICE, log 18) -/
def newBase (s : State) (old lsz n : Nat) : Option Nat :=
  if paSpace old ≠ 1 then none
  else
    let slots := (if fld old 45 1 = 1 then 768 else 48) * 2 ^ 30 / 2 ^ lsz
    let low := if fld old 45 1 = 1 then 2 ^ 45 else fld old 36 4 * 2 ^ 36
    some (clearPlace s (fun i => s.pkg.toNat * 2 ^ 48 + 2 ^ 46 + low + i * 2 ^ lsz) slots (2 ^ lsz) slots (Config.backing n))

/-- The current side of a region of a context: that of its shadow record (R418), else that of a table that maps it. -/
def sideNow (s : State) (ctx : Nat) (e : TEntry) : Bool :=
  let x := ctxOf s ctx
  if e.reg < x.shtn.toNat then fld (readN s.mem (canon (x.shtb.toNat + 32 * e.reg + 4)) 1) 3 1 == 1
  else (((s.cores.filter (fun c => (c.2.arch.task.map (·.ctx)) == some ctx)).findSome? (fun c =>
    (c.2.arch.tab.find? (fun t => t.2.reg == e.reg)).map (·.2.side)))).getD e.side

/-- New backing for a dropped region (R298). -/
def newBacking (s : State) (ctx reg : Nat) (e : TEntry) : State :=
  setBases { s with fresh := s.fresh + 2 } ctx reg (newBase s (wf e.w1 0 56) e.lsz s.fresh)
    (if e.shp then newBase s (wf e.w2 0 56) e.lsz (s.fresh + 1) else none)

/-- The registered producer of a region in a context's images (R256). -/
def producerOf (x : Ctx) (reg : Nat) : Option (BitVec 1024) :=
  x.imgs.findSome? (fun i => (i.2.prods.find? (fun p => p.1 == reg)).map (·.2))

/-- Kill a consuming node as for an unmapped trap (R298). -/
def killConsumer (s : State) (ctx node : Nat) : State :=
  let s1 := logCtx s ctx { kind := 9, trap := 13, sev := 3, out := 3, core := 0, side := false, aux := 13, node := node, addr := 0 }
  modNode ((coresOf s1 ctx node).foldl stopCore s1) ctx node (fun n =>
    { n with kill := match n.kill with
        | none => some (13, true)
        | some x => some x })

/-- Copy rows back from the second tier. -/
def copyBack (src dst : Nat) (s : State) (i : Nat) : State := writeRow s (dst + 64 * i) (rowAt s (src + 64 * i))

/-- Launch the producer of a dropped region at the consumer's priority (R298, R359). -/
def launchProducer (s : State) (ctx reg node : Nat) (e : TEntry) (r : BitVec 1024) : State :=
  match nodeOf s ctx node with
  | none => s
  | some n =>
    if 8 < n.depth + 1 || recWhy s ctx r != 0 then killConsumer s ctx node
    else
      let r' := setFld r (8 * 35) 8 (ndPri n.record)
      let s1 := setRes (newBacking s ctx reg e) ctx reg 2
      let s2 := match (ctxOf s ctx).ranges.find? (fun y => y.1 == reg) with
        | some (_, _, _, false) => logCtx s1 ctx { kind := 12, trap := 0, sev := 0, out := 0, core := 0, side := false, aux := 0
                                                   node := node, addr := 0 }
        | _ => s1
      let q := acceptNode s2 ctx r' (.producer reg) none
      modNode q.2 ctx q.1 (fun y => { y with depth := n.depth + 1 })

/-- The dispatcher takes up a dropped region that a task has met: its producer runs, or its second-tier copy is
fetched, or the consumer is killed (R298). A region already taken up is shared. -/
def takeDrop (ctx : Nat) (s : State) (d : Nat × Nat) : State :=
  let x := ctxOf s ctx
  let gone := fun (a : Arch) => a.tab.any (fun e => e.2.reg == d.1 && e.2.res == 3)
  let gone0 := decide (d.1 < x.shtn.toNat) && decide (fld (readN s.mem (canon (x.shtb.toNat + 32 * d.1 + 4)) 1) 1 2 = 3)
  if x.nodes.any (fun n => n.2.src == .producer d.1) || !(gone0 || s.cores.any (fun c =>
      (c.2.arch.task.map (·.ctx)) == some ctx && gone c.2.arch) || s.hub.saves.any (fun v => v.ctx == ctx && gone v.arch)) then s
  else match regionEntry x d.1 with
    | none => killConsumer s ctx d.2
    | some e => match producerOf x d.1, x.left.find? (fun y => y.1 == d.1) with
      | some r, _ => launchProducer s ctx d.1 d.2 e r
      | none, some y =>
        let s1 := newBacking s ctx d.1 e
        let two := e.shp && sideNow s ctx e
        let old := if two then wf e.w2 0 56 else wf e.w1 0 56
        let b := (newBase s old e.lsz (if two then s.fresh + 1 else s.fresh)).getD old
        let s2 := (List.range (2 ^ e.lsz / 64)).foldl (copyBack y.2 b) s1
        modCtx (setRes s2 ctx d.1 2) ctx (fun x => { x with left := x.left.filter (fun z => z.1 != d.1) })
      | none, none => killConsumer s ctx d.2

/-- Take up the dropped regions met in a context. -/
def takeDrops (s : State) (ctx : Nat) : State :=
  let l := (ctxOf s ctx).drops
  if l.isEmpty then s else l.foldl (takeDrop ctx) (modCtx s ctx (fun x => { x with drops := [] }))

/-! ### Launch start (R272, R273, R416) -/

/-- The stacks of the package that storage from a base lies on: one, or all of them in the interleaved view (R290). -/
def stacksAt (s : State) (b : Nat) : List Nat :=
  if paPkg b ≠ s.pkg.toNat ∨ paSpace b ≠ 1 then [] else if fld b 45 1 = 1 then List.range 16 else [fld b 36 4]

/-- Does a region lie on stacks that have all trained (R433)? (DEDUCED, log 82) -/
def stacksUp (s : State) (rdy : Word) (e : TEntry) : Bool :=
  e.mj || ((stacksAt s (wf e.w1 0 56)) ++ (if e.shp then stacksAt s (wf e.w2 0 56) else [])).all (fun k => rdy.getLsbD (16 + k))

/-- A template entry as the launch loads it: residency and side from the shadow record, absent on a stack that has not trained
(R433), hotness zero, SRAM bases moved with a relocated stand (R416). (DEDUCED, logs 82 and 84) -/
def loadEntry (s : State) (x : Ctx) (k : Int) (e : TEntry) : TEntry :=
  let m := (shiftEntry k e).getD e
  let rec0 := readN s.mem (canon (x.shtb.toNat + 32 * e.reg + 4)) 1
  let w3 := if e.reg < x.shtn.toNat then setFld (setFld e.w3 8 2 (fld rec0 1 2)) 6 1 (fld rec0 3 1) else e.w3
  { m with w0 := setFld e.w0 0 16 0, w3 := if stacksUp s s.hub.rdy e then w3 else setFld w3 8 2 1 }

/-- Groves by which a placed stand was shifted. -/
def standShift (n : Node) : Int :=
  ((grovesOf (maskOfStand n.stand)).head?.getD 0 : Int) - ((grovesOf (ndStd n.record)).head?.getD 0 : Int)

/-- A producer's own table maps the region it makes resident (R298). -/
def asProducer (n : Node) (e : TEntry) : TEntry := match n.src with
  | .producer reg => if e.reg = reg then { e with w3 := setFld e.w3 8 2 0 } else e
  | _ => e

/-- The table a core loads at a launch start. (DEDUCED, log 84) -/
def loadTable (s : State) (ctx : Nat) (n : Node) (k : Nat) : Tbl TEntry :=
  match imageOf s ctx n.record with
  | none => []
  | some i => (tmplOf i k).map (fun e => (e.1, asProducer n (loadEntry s (ctxOf s ctx) (standShift n) e.2)))

/-- The entries that map the entry block, the handler and the argument image (R266). -/
def startRegions (s : State) (ctx : Nat) (n : Node) : List TEntry :=
  let t := loadTable s ctx n 0
  ([recN n.record 0 8] ++ (if recN n.record 8 8 = 2 ^ 64 - 1 then [] else [recN n.record 8 8]) ++
    (List.range (recN n.record 64 1)).map (fun i => recN n.record 56 8 + 64 * i)).filterMap
    (fun va => (lookupE t (va % 2 ^ 48)).map (·.2))

/-- Are their regions resident? -/
def startReady (s : State) (ctx : Nat) (n : Node) : Bool := (startRegions s ctx n).all (fun e => e.res == 0)

/-- Write the argument rows of a core (R273, R344). -/
def writeArgs (s : State) (core ctx : Nat) (n : Node) : State :=
  let t := loadTable s ctx n 0
  let top := sliceRow s.pkg core ((nBanks core - 1) * 2048 + 2040)
  let row := fun (s : State) (i : Nat) =>
    let r : Row := if i < recN n.record 64 1 then
        (match lookupE t ((recN n.record 56 8 + 64 * i) % 2 ^ 48) with
        | some (_, e) => rowAt s (entryPa core e false ((recN n.record 56 8 + 64 * i) % 2 ^ 48))
        | none => 0)
      else 0
    let r' : Row := match i, n.word with
      | 0, some w => (r >>> 64 <<< 64) ||| w.setWidth 512
      | _, _ => r
    writeRow s (top + 64 * i) r'
  (List.range 8).foldl row s

/-- Race tags of a slice become invalid (R316). -/
def clearTags (s : State) (core : Nat) : State :=
  { s with tags := s.tags.map (fun t =>
      if t.1 * 64 / 2 ^ 22 = s.pkg.toNat * 2 ^ 26 + core then (t.1, t.2 &&& ~~~8) else t) }

/-- The core at a launch start (R9): everything at its launch-start value, the format registers those that the launch template
gives (R48, R208, R260), but for the clearing state, its vertical queue, and the side stream's requests that are not performed. -/
def startArch (a : Arch) (t : Task) (tab : Tbl TEntry) (decl : Nat) (bfmt : Tbl (BitVec 32)) : Arch :=
  let q7 : Queue := { Queue.idle with ents := (a.queue 7).ents }
  { Arch.idle with
    main := { Stream.idle with blk := { Block.none with pt := a.clr.pt }
                               pipe := { Pipe.empty with merged := mergedPt a.clr.pt } }
    side := { Stream.idle with blk := { Block.none with pt := a.clr.pt } }
    q := if q7.ents.isEmpty then [] else [(7, q7)]
    bfmt := bfmt.foldl (fun t x => tput t x.1 x.2) [], reqs := a.reqs, clr := a.clr, vcode := a.vcode, regCyc := a.regCyc, regTgt := a.regTgt, evdrop := 0
    decl := BitVec.ofNat 32 decl, tab := tab, task := some t, run := .running }

/-- Does a placed node of priority 0 wait for a core (R385)? -/
def waitsFor (s : State) (core : Nat) (e : Nat × Nat) : Bool := match nodeOf s e.1 e.2 with
  | some n => ndPri n.record == 0 && n.st == .placed && n.stand.contains core && !n.begun.contains core
  | none => false

/-- Is a saved launch kept out of a core for a launch placed after it: preempted for it, or for another of priority 0, while
this one waits for the core too (R385)? (DESIGN CHOICE, log 10) -/
def yieldsTo (s : State) (core : Nat) (e b : Nat × Nat) : Bool := s.hub.saves.any (fun v =>
  v.core == core && v.ctx == b.1 && v.node == b.2 && v.causes.any (fun c => match c with
    | .priority x n => (x == e.1 && n == e.2) || waitsFor s core e
    | _ => false))

/-- The launch a core may start now: the first placed on it that has not begun there, when every earlier one
has departed or is preempted for it (R281, R385). -/
def nextLaunch (s : State) (core : Nat) : Option (Nat × Nat) :=
  let l := tget [] s.hub.order core
  let waits := fun (e : Nat × Nat) => match nodeOf s e.1 e.2 with
    | some n => !n.begun.contains core && n.st == .placed && n.kill.isNone
    | none => false
  match l.find? waits with
  | none => none
  | some e =>
    if (l.takeWhile (· != e)).all (yieldsTo s core e) then some e else none

/-- Is a core's island gated (R430)? A root core is on its grove's rail. -/
def gated (s : State) (core : Nat) : Bool :=
  !isRoot core && (isltOf s (railOf core)).getLsbD 7

/-- The sides of the shadowed regions that the tables of a node map (R360). -/
def startSides (s : State) (ctx : Nat) (n : Node) : List (Nat × Bool) :=
  match imageOf s ctx n.record with
  | none => []
  | some i => (i.tmpl.flatMap (fun t => ((t.2.map (fun e => loadEntry s (ctxOf s ctx) 0 e.2)).filter (·.shp)).map
      (fun e => (e.reg, e.side)))).eraseDups

/-- A table loaded while a publish is being broadcast at a scope that holds its core joins the tables that the broadcast has still to
reach (R322). (DEDUCED, log 50) -/
def joinFlips (s : State) (core ctx : Nat) : State :=
  if s.hub.flips.all (fun f => !(f.ctx == ctx && inScope f.scp f.core core && !f.todo.contains core)) then s
  else { s with hub := { s.hub with flips := s.hub.flips.map (fun f =>
    if f.ctx == ctx && inScope f.scp f.core core && !f.todo.contains core then { f with todo := f.todo ++ [core] } else f) } }

/-- Launch start on a core (R9, R272, R273, R416). -/
def startLaunch (s : State) (core ctx node : Nat) (n : Node) : State :=
  let k := (n.stand.findIdx? (· == core)).getD 0
  let c := n.stand.length
  let hnd := recN n.record 8 8
  let f := fixedTiles (ndTiles n.record) c k
  let fixed := recN n.record 34 1 == 0
  let t : Task := { ctx := ctx, node := node, alb := recN n.record 38 1
                    aln := if isRoot core then 0 else recN n.record 39 1
                    hnd := if hnd = 2 ^ 64 - 1 then none else some (BitVec.ofNat 48 hnd)
                    ent := BitVec.ofNat 48 (recN n.record 0 8), k := k, c := c
                    next := if fixed then f.1 else 0, left := if fixed then f.2 else 0, live := false }
  let tab := loadTable s ctx n k
  let s1 := modNode s ctx node (fun n => { n with
    begun := n.begun ++ [core], sides := if n.begun.isEmpty && n.reruns == 0 then startSides s ctx n else n.sides
    log0 := if n.begun.isEmpty && n.reruns == 0 && (ctxOf s ctx).logm == 1 then (ctxOf s ctx).logpos else n.log0 })
  let a := startArch (archOf s1 core) t tab (recN n.record 72 4 % 2 ^ nBanks core)
    (((imageOf s ctx n.record).map (·.bfmt)).getD [])
  let cf := recN (ctxOf s ctx).record 1 1
  let split := cf.testBit 0
  let a1 := if split then
      { a with side := { a.side with pc := BitVec.ofNat 48 (recN (ctxOf s ctx).record 8 8), due := .header } }
    else a
  let s2 := putCore s1 core { coreOf s1 core with arch := a1, split := split, roll := [], seq := 0 }
  let s3 := if tab.any (fun e => e.2.rck) then clearTags s2 core else s2
  drawTile (writeArgs (joinFlips s3 core ctx) core ctx n) core

/-- A launch start that is held for its regions is resolved as a D trap is (R266, R296, R298): a page request for each that is
absent, a producer for each that is dropped. -/
def askRegions (s : State) (ctx node : Nat) (n : Node) : State :=
  let l := (startRegions s ctx n).filter (fun e => e.res == 1 || e.res == 3)
  modCtx s ctx (fun c => l.foldl (fun c e =>
    if e.res = 1 then { c with pages := if c.pages.contains e.reg then c.pages else c.pages ++ [e.reg] }
    else { c with drops := if c.drops.contains (e.reg, node) then c.drops else c.drops ++ [(e.reg, node)] }) c)

/-- Launch start: the core is free, its island is not gated, and the regions the start reads are resident. -/
def execLaunchStart (core : Nat) (s : State) : Host.Outcome State Fault Refusal :=
  .next (match nextLaunch s core with
    | none => s
    | some (ctx, node) => match nodeOf s ctx node with
      | none => s
      | some n =>
        if (ctxOf s ctx).state ≠ 1 || (archOf s core).task.isSome || (archOf s core).run != .idle && (archOf s core).run != .saved ||
            gated s core || !s.hub.rdy.getLsbD (8 + core / 128) then s
        else if !startReady s ctx n then takeDrops (askRegions s ctx node n) ctx
        else startLaunch s core ctx node n)

/-- The address of the first argument row: entry 255 maps rows 1,024 on of the top bank (R271, R273). -/
def argVa (a : Arch) : Word :=
  match a.tab.find? (fun e => e.1 == 255) with
  | some e => BitVec.ofNat 64 (wf e.2.w0 16 32 * 65536 + (2040 - 1024) * 64)
  | none => 0

/-- The scalar registers of a task at its entry (R271). -/
def entryRegs (a : Arch) (r : BitVec 1024) (t : Task) : Tbl Word :=
  let v := fun (n : Nat) => BitVec.ofNat 64 n
  [(1, v (tileCoord r t.next 0)), (2, v (tileCoord r t.next 1)), (3, v (tileCoord r t.next 2)),
   (4, v (tileCoord r t.next 3)), (5, v t.next), (6, argVa a), (7, v t.k), (8, v t.c)]

/-- A cluster at a task entry: its understory stays (R9). -/
def taskCluster (x : Cluster) : Cluster := { Cluster.idle with und := x.und }

/-- A task enters its kernel's entry block with nothing in flight (R9, R271, R272). The banks that an earlier task of the launch
released stay released: the spec speaks only of the task that releases one (R133, R163). (DEDUCED, log 40) -/
def enterTask (s : State) (core : Nat) : State :=
  match (archOf s core).task with
  | none => s
  | some t => match nodeOf s t.ctx t.node with
    | none => s
    | some n =>
      if t.live ∨ t.left = 0 then s
      else modArch s core (fun a => { a with
        task := some { t with live := true }, fpc := 0
        cl := a.cl.map (fun c => (c.1, taskCluster c.2))
        main := { Stream.idle with s := entryRegs a n.record t, pc := t.ent, due := .header, blk := a.main.blk
                                   pipe := { Pipe.empty with merged := a.main.pipe.merged }, ccnt := a.main.ccnt
                                   frame := { Frame.empty with snsel := a.main.frame.snsel } } })

/-- Task entry; a draw that replay held is tried again first (R358). -/
def execTaskEntry (core : Nat) (s : State) : Host.Outcome State Fault Refusal :=
  .next (if (archOf s core).run != .running then s
    else match (archOf s core).task with
      | some t => if t.live then s else enterTask (drawTile s core) core
      | none => s)

/-- A task retires at its `done` (R106, R272): the next tile is known, drawn, or the core departs. -/
def retireTask (s : State) (core : Nat) : State :=
  match (archOf s core).task with
  | none => s
  | some t =>
    let s1 := modArch s core (fun a => { a with
      task := some { t with live := false, next := t.next + 1, left := t.left - 1 }
      main := { a.main with due := .nothing, frame := { Frame.empty with snsel := a.main.frame.snsel } } })
    drawTile s1 core

/-! ### Completion (R165, R276, R277, R382) -/

/-- Write a host submission's completion record, and raise the vector with `QINT` (R382). -/
def hostRecord (s : State) (ctx q sub node sts why : Nat) : State :=
  let x := ctxOf s ctx
  let lq := tget LQueue.reset x.qs q
  let a := recN x.record 64 8 + 16 * (64 * q + sub % 64)
  let s1 := writeRec s a 16 (sub % 2 ^ 32 * 2 ^ 96 + node % 2 ^ 32 * 2 ^ 64 + sts * 2 ^ 56 + why * 2 ^ 48)
  modCtx s1 ctx (fun y => { y with qs := tput y.qs q { lq with busy := lq.busy.filter (· != sub) }
                                   vector := y.vector || lq.int })

/-- Report the end of a node (R277, R382): 0 completed, 1 killed, 2 ended by teardown. -/
def reportNode (s : State) (ctx node : Nat) (n : Node) (how : Nat) : State :=
  match n.src with
  | .host q sub => hostRecord s ctx q sub node (match how with
    | 0 => 1
    | 1 => 3
    | _ => 4) 0
  | .core core side =>
    if ndFlag n.record 2 then
      { s with net := s.net ++ [{ src := core, side := side, dst := core, wait := [], out := false, stg := none, toCtx := ctx, toNode := n.parent
                                  msg := .event { hdr := evHdr 3 0 node, pay := BitVec.ofNat 64 how } }] }
    else s
  | _ => s

/-- What a node that ends or stops holds goes: its places on its cores, its banks, its barriers, its saved cores, whose tables
are unloaded (R299), and its vertical entries. -/
def leaveStand (s : State) (ctx node : Nat) : State :=
  let e := (ctx, node)
  let mine := fun (v : Save) => v.ctx == ctx && v.node == node
  let s0 := dropVerts ((s.hub.saves.filter mine).foldl (fun s v => v.arch.tab.foldl (addHot ctx) s) s) ctx node
  { s0 with hub := { s0.hub with
    order := s0.hub.order.map (fun o => (o.1, o.2.filter (· != e)))
    banks := s0.hub.banks.map (fun o => (o.1, o.2.filter (· != e)))
    bars := s0.hub.bars.filter (fun b => !(b.ctx == ctx && b.node == node))
    saves := s0.hub.saves.filter (fun v => !mine v) } }

/-- The count of a barrier group whose launches have all been created and ended goes, so that its number may be used again
(R274). -/
def endGroup (g : Nat) (x : Ctx) : Ctx :=
  if (tget (0, false) x.made g).2 && x.nodes.all (fun n => ndGroup n.2.record != g) then { x with made := tdel x.made g } else x

/-- Forget a node, and free its intake entry. -/
def forgetNode (s : State) (ctx node : Nat) (n : Node) : State :=
  let s1 := leaveStand s ctx node
  let dev := match n.src with
    | .core _ _ => true
    | .chain _ => true
    | _ => false
  modCtx s1 ctx (fun x => endGroup (ndGroup n.record)
    { x with nodes := x.nodes.filter (fun y => y.1 != node), intake := x.intake - dev.toNat })

/-- The regions for which a record is the registered producer (R256, R359). -/
def producedBy (s : State) (ctx : Nat) (r : BitVec 1024) : List Nat :=
  match imageOf s ctx r with
  | none => []
  | some i => (i.prods.filter (fun p => recN p.2 0 8 == recN r 0 8)).map (·.1)

/-- What a completed node leaves besides its increments: the log range of its tensors, or the residency of the
tensor it recomputed (R298, R359). -/
def producerDone (s : State) (ctx : Nat) (n : Node) (log1 : Nat) : State :=
  match n.src with
  | .producer reg => resident s ctx reg
  | _ =>
    let l := producedBy s ctx n.record
    if l.isEmpty then s
    else modCtx s ctx (fun x =>
      let new := l.map (fun r => (r, n.log0, log1, !x.logbad))
      { x with ranges := new ++ x.ranges.filter (fun y => !l.contains y.1) })

/-- Complete a node (R276, R277, R278): its increments in order, then its report, then its places. -/
def completeNode (s : State) (ctx node : Nat) (n : Node) : State :=
  let log1 := logEnd (ctxOf s ctx) n
  let s1 := modCtx s ctx (fun x => (List.range 2).foldl (fun x i =>
    if (ndInc n.record i).1 = 0xFFFF then x else raiseCtr x (ndInc n.record i).1 (ndInc n.record i).2) x)
  let s2 := producerDone s1 ctx n log1
  forgetNode (reportNode s2 ctx node n 0) ctx node n

/-- Does a chain entry's node wait for its entry to complete (R345)? -/
def isChainNode (n : Node) : Bool := match n.src with
  | .chain _ => true
  | _ => false

/-- Is a node complete: every core of its stand has departed and what its tasks asked for is performed (R276), and neither a trap
nor the teardown of its context has stopped it (R384, R393)? -/
def nodeDone (s : State) (ctx : Nat) (n : Node) : Bool :=
  (ctxOf s ctx).state == 1 && n.st == .placed && !n.stand.isEmpty && n.stand.all (fun c => n.gone.contains c) && n.kill.isNone &&
    n.late.all (fun x => !(archOf s x.1).reqs.any (fun r => r.id == x.2))

/-- Node completion (R276). The node of a chain entry completes with its entry, in CHAIN_ENTRY_COMPLETE. -/
def execNodeCompletion (ctx node : Nat) (s : State) : Host.Outcome State Fault Refusal :=
  .next (match nodeOf s ctx node with
    | none => s
    | some n =>
      if nodeDone s ctx n && !isChainNode n then completeNode s ctx node n else s)

/-- The slice rows that a matrix command may reach. -/
def mxTouches (x : MxCmd) : List Nat :=
  let pitch := match x.op with
    | .mst => x.dpt
    | .mlw => 8
    | .mscl => 1
    | _ => x.apt
  if x.op = .mzr then [] else (List.range x.rows).flatMap (fun i => (List.range 8).map (fun j => x.a + i * pitch + j))

/-- The slice rows that a transpose command may reach. -/
def txTouches (x : TxCmd) : List Nat :=
  (List.range x.nr).flatMap (fun i => (List.range 8).map (fun j => x.src + i * x.sp + j)) ++
  (if x.txw then [] else (List.range x.nc).flatMap (fun i => (List.range 8).map (fun j => x.dst + i * x.dp + j)))

/-- Does anything in flight on a core still reach a bank of its slice (R163)? (DEDUCED, log 40) -/
def bankBusy (s : State) (core bank : Nat) : Bool :=
  let a := archOf s core
  let here := fun (pa : Nat) => inSlice s core pa && decide (paBank pa = bank)
  let q := a.main.pipe
  a.reqs.any (fun r => here r.pa) || q.rep.isSome || q.nest.isSome ||
    q.mx.any (fun x => (mxTouches x).any (fun r => decide (r / 2048 = bank))) ||
    q.tx.any (fun x => (txTouches x).any (fun r => decide (r / 2048 = bank))) ||
    a.cp.any (fun x => (cpReadPas s core x).any here || (cpOut s core x).l.any (fun w => here w.pa)) ||
    a.smv.any (fun x => x.bank.any here || (List.range (cdiv x.n 16 - x.made)).any (fun i => here (handleDst x.tab core (handlePa s core x.hd.toNat i))))

/-- A released bank passes to the next launch that declared it, once nothing of the owner's reaches it any
more (R163, R278). (DEDUCED, log 40) -/
def execBankOwnershipPass (core bank : Nat) (s : State) : Host.Outcome State Fault Refusal :=
  let key := 32 * core + bank
  .next (match bankOwner s key with
    | none => s
    | some e =>
      if nodeIds s core = e ∧ (archOf s core).rlsd.getLsbD bank ∧ !bankBusy s core bank then
        { s with hub := { s.hub with banks := tput s.hub.banks key ((tget [] s.hub.banks key).erase e) } }
      else s)

end Sys2Proof.Machine
end

