-- ==== Sys2Proof/Machine/Transpose.lean ====
section
/-!
DEFINITION. The transpose engine (R195, R196): acceptance, the row read in each counted cycle, and the
writes and completion in the cycle that acceptance fixes.
-/
namespace Sys2Proof.Machine

/-- Is the TX port held in the coming counted cycle? -/
def txBusy (q : Pipe) : Bool := q.tx.any (fun x => decide (x.age < x.busy))

/-- A staging word of the TX set. -/
def txWord (p : State) (n : Nat) : Word := shWord p p.focus.core 2 n

/-- Source and destination pitch in rows. -/
def txPitch (w : Word) : Nat × Nat := (wf w 0 13, wf w 16 13)

/-- What a TX slot captures. (DESIGN CHOICE, log 48) -/
def txBase (p : State) (o : EnF) : TxCmd :=
  { txw := false, pc := p.iss.pc, cf := o.cf, ce := o.ce == 1, age := 0, busy := 0, done := 0, wl := o.wl.toNat, src := 0
    dst := 0, sp := (txPitch (txWord p 2)).1, dp := (txPitch (txWord p 2)).2, nr := 128, nc := 128, ew := 8
    fmts := (archOf p p.focus.core).bfmt, ferr := false, rm := capRm p p.focus, en := capEn p p.focus
    fz := p.iss.fz, num := nextNum p p.focus.core 2, buf := [] }

/-- Accept a TX command that reaches slice rows `own` (R195, R299): one that needs banks not yet owned waits for them in the engine, and
holds its port (R163, R278). (DEDUCED, log 43) -/
def txAccept (p s : State) (x : TxCmd) (own hots : List Nat) : State :=
  let core := p.focus.core
  let s1 := countHots (copySet p (countCmd s core 2) core 2) core hots
  modStrm s1 { core := core, side := false } (fun y =>
    { y with pipe := { y.pipe with tx := y.pipe.tx ++ [{ x with bank := notOwned s core own }] } })

/-- `txp`: transposes rows of the own slice (R195). -/
def issueTxp (h : Slot) (o : EnF) (p s : State) : SlotRes :=
  let core := p.focus.core
  let w2 := txWord p 2
  let m := mergedPt (ptNow p core)
  let nr := wf o.prm 14 7 + 1
  let nc := wf o.prm 7 7 + 1
  let eb := 2 ^ wf o.prm 5 2
  let x : TxCmd := { txBase p o with nr := nr, nc := nc, ew := 8 * eb, busy := nr, done := nr + (if m then 6 else 12) }
  if !passed p 5 && txBusy (archOf p core).main.pipe then .hold 5 true .plain
  else if badAddr (txWord p 0) || badAddr (txWord p 1) || decide (wf w2 29 35 ≠ 0) || decide (wf w2 13 3 ≠ 0) ||
      decide (x.sp = 0) || decide (x.dp = 0) || decide (x.sp * 64 < nc * eb) || decide (x.dp * 64 < nr * eb) then
    illegalAtIssue p h
  else match mxRange p h core (askSrc true) (wf (txWord p 0) 0 48) ((nr - 1) * x.sp * 64 + nc * eb) with
    | .error t => .trap t
    | .ok (a, l1) =>
      match mxRange p h core (askDst true) (wf (txWord p 1 + rs p o.sa) 0 48) ((nc - 1) * x.dp * 64 + nr * eb) with
      | .error t => .trap t
      | .ok (b, l2) =>
        let own := (List.range nr).flatMap (fun i => (List.range (cdiv (nc * eb) 64)).map (fun j => a + i * x.sp + j)) ++
          (List.range nc).flatMap (fun i => (List.range (cdiv (nr * eb) 64)).map (fun j => b + i * x.dp + j))
        .ok (txAccept p s { x with src := a, dst := b, ferr := own.any (fun r => rFmt (regOf p core r) == 8) } own (l1 ++ l2))

/-- The step of `txp`. -/
def execTxp (h : Slot) (o : EnF) (s : State) : Host.Outcome State Fault Refusal :=
  slotStep h (issueTxp h o) s

/-- Latch tag and bytes of a source row of `txw`, none for a format error (R196). -/
def txwForm (f : Nat) : Option (Nat × Nat) := match f with
  | 0 => some (2, 256)
  | 2 => some (2, 256)
  | 4 => some (4, 128)
  | 5 => some (5, 64)
  | _ => none

/-- `txw`: loads a latch transposed (R196). Its format is that of the bank of its first source row (DEDUCED, log 49). -/
def issueTxw (h : Slot) (o : EnF) (p s : State) : SlotRes :=
  let core := p.focus.core
  let q := (archOf p core).main.pipe
  let w2 := txWord p 2
  let m := mergedPt (ptNow p core)
  let x : TxCmd := { txBase p o with txw := true, busy := 128, done := if m then 134 else 140 }
  let va := wf (txWord p 0 + rs p o.sa) 0 48
  if !passed p 5 && (txBusy q || latchWr q x.wl || latchRd q x.wl || nestLatch q x.wl) then .hold 5 true .plain
  else if badAddr (txWord p 0) || decide (wf w2 29 35 ≠ 0) || decide (wf w2 13 3 ≠ 0) || decide (x.sp = 0) then
    illegalAtIssue p h
  else
    let f := txwForm (rFmt (regOf p core (paRow ((lookPa p core (askSrc true) va).getD 0))))
    let n := match f with
      | some f => f.2
      | none => 64
    match mxRange p h core (askSrc true) va (127 * x.sp * 64 + n) with
    | .error t => .trap t
    | .ok (a, l) =>
      let own := (List.range 128).flatMap (fun i => (List.range (n / 64)).map (fun j => a + i * x.sp + j))
      .ok (txAccept p s { x with src := a, ew := n / 16, ferr := f.isNone || own.any (fun r => rFmt (regOf p core r) == 8) } own l)

/-- The step of `txw`. -/
def execTxw (h : Slot) (o : EnF) (s : State) : Host.Outcome State Fault Refusal :=
  slotStep h (issueTxw h o) s

/-! ### The counted cycles of a command -/

/-- Change the TX command at place `n`. -/
def modTx (s : State) (core n : Nat) (g : TxCmd → TxCmd) : State :=
  modStrm s { core := core, side := false } (fun y => { y with pipe := { y.pipe with tx := y.pipe.tx.modify n g } })

/-- Read the source row of the open counted cycle of the command at place `n` (R195, R392). -/
def txRead (core mark : Nat) (s : State) (n : Nat) : State :=
  match (archOf s core).main.pipe.tx[n]? with
  | none => s
  | some x =>
    if x.ferr || decide (x.age = 0) || decide (x.nr < x.age) then s
    else
      let row := x.src + (x.age - 1) * x.sp
      let k := cdiv (x.nc * x.ew) 512
      match arrBad s core mark row k with
      | some pa => notePend (modTx s core n (fun y => { y with ferr := true })) { core := core, side := false } 18 22 3 x.pc
          (BitVec.ofNat 64 pa)
      | none => modTx s core n (fun y => { y with buf := y.buf ++ [BitVec.ofNat 4096 (arrRows s core mark row k)] })

/-- The row reads of a core in the open counted cycle. -/
def txReads (s : State) (core mark : Nat) : State :=
  (List.range (archOf s core).main.pipe.tx.length).foldl (txRead core mark) s

/-- Element `j` of source row `i`. -/
def TxCmd.el (x : TxCmd) (i j : Nat) : Nat := fld (x.buf.getD i 0).toNat (j * x.ew) x.ew

/-- The last effect of a command: destination rows (R195) or latch rows (R196). -/
def txWrite (s : State) (core mark : Nat) (x : TxCmd) : State :=
  if x.ferr then s
  else if x.txw then
    let tag := if x.ew = 16 then 2 else if x.ew = 8 then 4 else 5
    let put := fun (w : WLatch) => (List.range 128).foldl (fun (w : WLatch) k =>
      { w with rows := tput w.rows k (BitVec.ofNat 2048 ((tget 0 w.rows k).toNat / 2 ^ (128 * x.ew) * 2 ^ (128 * x.ew) +
          joinN x.ew ((List.range 128).map (fun n => x.el n k)))) }) { w with fmt := BitVec.ofNat 4 tag }
    modArch s core (fun a => { a with w := tmod WLatch.idle a.w x.wl put })
  else
    (List.range x.nc).foldl (fun s j =>
      arrWriteN s core mark (x.dst + j * x.dp) (joinN x.ew ((List.range x.nr).map (fun i => x.el i j)))
        (cdiv (x.nr * x.ew) 512) (x.nr * x.ew / 8)) s

/-- A TX command after a counted cycle: it ages once it owns the banks it needs (R163, R195, R278). (DEDUCED, log 43) -/
def TxCmd.tick (s : State) (core : Nat) (x : TxCmd) : TxCmd :=
  if x.age = 0 ∧ x.bank.any (fun a => !ownsBank s core a) then x else { x with age := x.age + 1, bank := [] }

/-- The completions of the engine in the open counted cycle; the other commands age (R195, R196). -/
def txCompletions (s : State) (core mark : Nat) : State :=
  let l := (archOf s core).main.pipe.tx
  let s1 := modStrm s { core := core, side := false } (fun y => { y with pipe := { y.pipe with
    tx := (l.filter (fun x => x.age != x.done)).map (·.tick s core) } })
  (l.filter (fun x => x.age == x.done)).foldl (fun s x =>
    complete (txWrite s core mark x) core 2 (if x.txw then 2 else 1) x.cf x.ce x.num (mxSts x.ferr) Cnt.zero) s1

end Sys2Proof.Machine
end

