-- ==== Sys2Proof/Machine/Issue.lean ====
section
/-!
DEFINITION. The issue of a bundle (R53 to R63, R81 to R84, R136): fetch, the structure and decode checks in
the order of R83, weights, destinations, votes, and the evaluation of all slots against the state before the
bundle.
-/
namespace Sys2Proof.Machine

/-! ### The slots of a bundle -/

/-- What an instruction of a slot does at issue: it reads the first state, the second collects its effects.
Events of the device stand in no slot. -/
def slotIssue : Instr → State → State → SlotRes
  | .nop _ => fun _ s => .ok s
  | .add h o => issueAdd h o
  | .sub h o => issueSub h o
  | .addi h o => issueAddi h o
  | .and h o => issueAnd h o
  | .or h o => issueOr h o
  | .xor h o => issueXor h o
  | .andi h o => issueAndi h o
  | .ori h o => issueOri h o
  | .xori h o => issueXori h o
  | .shl h o => issueShl h o
  | .shr h o => issueShr h o
  | .sra h o => issueSra h o
  | .shli h o => issueShli h o
  | .shri h o => issueShri h o
  | .srai h o => issueSrai h o
  | .mul h o => issueMul h o
  | .mulh h o => issueMulh h o
  | .mulhz h o => issueMulhz h o
  | .div h o => issueDiv h o
  | .divz h o => issueDivz h o
  | .rem h o => issueRem h o
  | .remz h o => issueRemz h o
  | .min h o => issueMin h o
  | .max h o => issueMax h o
  | .minz h o => issueMinz h o
  | .maxz h o => issueMaxz h o
  | .cmp h o => issueCmp h o
  | .cmpi h o => issueCmpi h o
  | .csel h o => issueCsel h o
  | .movi h o => issueMovi h o
  | .movs h o => issueMovs h o
  | .clz h o => issueClz h o
  | .popc h o => issuePopc h o
  | .bfx h o => issueBfx h o
  | .bfi h o => issueBfi h o
  | .fadd h o => issueFadd h o
  | .fsub h o => issueFsub h o
  | .fmul h o => issueFmul h o
  | .ffma h o => issueFfma h o
  | .fmin h o => issueFmin h o
  | .fmax h o => issueFmax h o
  | .fcmp h o => issueFcmp h o
  | .fcvt h o => issueFcvt h o
  | .fsgn h o => issueFsgn h o
  | .pset h o => issuePset h o
  | .pclr h o => issuePclr h o
  | .pand h o => issuePand h o
  | .por h o => issuePor h o
  | .pnot h o => issuePnot h o
  | .bra h o => issueBra h o
  | .brf h o => issueBrf h o
  | .call h o => issueCall h o
  | .ret h o => issueRet h o
  | .jmp h o => issueJmp h o
  | .loop h o => issueLoop h o
  | .loopi h o => issueLoopi h o
  | .lbrk h o => issueLbrk h o
  | .done h o => issueDone h o
  | .trap h o => issueTrap h o
  | .eret h o => issueEret h o
  | .yield h o => issueYield h o
  | .ld h o => issueLd h o
  | .st h o => issueSt h o
  | .ldx h o => issueLdx h o
  | .stx h o => issueStx h o
  | .stg h o => issueStg h o
  | .ldg h o => issueLdg h o
  | .aadd h o => issueAadd h o
  | .aand h o => issueAand h o
  | .aor h o => issueAor h o
  | .axor h o => issueAxor h o
  | .amin h o => issueAmin h o
  | .amax h o => issueAmax h o
  | .aminz h o => issueAminz h o
  | .amaxz h o => issueAmaxz h o
  | .axch h o => issueAxch h o
  | .acas h o => issueAcas h o
  | .afadd h o => issueAfadd h o
  | .mjld h o => issueMjld h o
  | .mjst h o => issueMjst h o
  | .fenceAcquire h o => issueFenceAcquire h o
  | .fenceRelease h o => issueFenceRelease h o
  | .fenceFull h o => issueFenceFull h o
  | .fenceEngineComplete h o => issueFenceEngineComplete h o
  | .fencePublishVisible h o => issueFencePublishVisible h o
  | .bar h o => issueBar h o
  | .evpop h o => issueEvpop h o
  | .evpost h o => issueEvpost h o
  | .launch h o => issueLaunch h o
  | .sysr h o => issueSysr h o
  | .sysw h o => issueSysw h o
  | .tq h o => issueTq h o
  | .chsigReady h o => issueChsigReady h o
  | .chsigReturn h o => issueChsigReturn h o
  | .brel h o => issueBrel h o
  | .vadd h o => issueVadd h o
  | .vsub h o => issueVsub h o
  | .vmul h o => issueVmul h o
  | .vmulh h o => issueVmulh h o
  | .vfma h o => issueVfma h o
  | .vfms h o => issueVfms h o
  | .vfnma h o => issueVfnma h o
  | .vmin h o => issueVmin h o
  | .vmax h o => issueVmax h o
  | .vabs h o => issueVabs h o
  | .vneg h o => issueVneg h o
  | .vand h o => issueVand h o
  | .vor h o => issueVor h o
  | .vxor h o => issueVxor h o
  | .vshl h o => issueVshl h o
  | .vshr h o => issueVshr h o
  | .vsra h o => issueVsra h o
  | .vcmp h o => issueVcmp h o
  | .vsel h o => issueVsel h o
  | .vclamp h o => issueVclamp h o
  | .vmov h o => issueVmov h o
  | .vbcs h o => issueVbcs h o
  | .vext h o => issueVext h o
  | .vins h o => issueVins h o
  | .vred h o => issueVred h o
  | .vshuf h o => issueVshuf h o
  | .vrmg h o => issueVrmg h o
  | .vcvt h o => issueVcvt h o
  | .vpack h o => issueVpack h o
  | .vunpk h o => issueVunpk h o
  | .vqnt h o => issueVqnt h o
  | .vdqnt h o => issueVdqnt h o
  | .vdot4 h o => issueVdot4 h o
  | .vexp2 h o => issueVexp2 h o
  | .vlog2 h o => issueVlog2 h o
  | .vrcp h o => issueVrcp h o
  | .vrsq h o => issueVrsq h o
  | .vsqrt h o => issueVsqrt h o
  | .vtanh h o => issueVtanh h o
  | .vmand h o => issueVmand h o
  | .vmor h o => issueVmor h o
  | .vmnot h o => issueVmnot h o
  | .vmpop h o => issueVmpop h o
  | .vrng h o => issueVrng h o
  | .vld h o => issueVld h o
  | .vst h o => issueVst h o
  | .vstm h o => issueVstm h o
  | .vldt h o => issueVldt h o
  | .vldh h o => issueVldh h o
  | .vsth h o => issueVsth h o
  | .vldx h o => issueVldx h o
  | .vstx h o => issueVstx h o
  | .vxfer h o => issueVxfer h o
  | .vqpush h o => issueVqpush h o
  | .vbld h o => issueVbld h o
  | .mlw h o => issueMlw h o
  | .mma h o => issueMma h o
  | .mmar h o => issueMmar h o
  | .mzr h o => issueMzr h o
  | .mst h o => issueMst h o
  | .mscl h o => issueMscl h o
  | .mnest h o => issueMnest h o
  | .mcop h o => issueMcop h o
  | .smv h o => issueSmv h o
  | .cpy h o => issueCpy h o
  | .cpg h o => issueCpg h o
  | .cps h o => issueCps h o
  | .cptOffload h o => issueCptOffload h o
  | .cptFetch h o => issueCptFetch h o
  | .cpz h o => issueCpz h o
  | .coll h o => issueColl h o
  | .pub h o => issuePub h o
  | .cpf h o => issueCpf h o
  | .cpc h o => issueCpc h o
  | .txp h o => issueTxp h o
  | .txw h o => issueTxw h o
  | .hdef h o => issueHdef h o
  | .hadv h o => issueHadv h o
  | .hqry h o => issueHqry h o
  | .qcfg h o => issueQcfg h o
  | .qspl h o => issueQspl h o
  | _ => fun _ s => .ok s

/-- The word of a slot instruction. -/
def wordOf (i : Instr) : Parcel := (encode i).getD 0

/-- A field of the operand part of a slot word. -/
def opF (i : Instr) (lo w : Nat) : Nat := wf (wordOf i) lo w

/-- The `SM` forms that always name s[sd] (R144, R145, R151, R202, R204, R206, R207). -/
def smWrites (opc : Nat) : Bool := [1, 3, 6, 18, 19, 22, 24, 25, 27].contains opc

/-- The destinations that a slot names (R58), as numbers: s registers, flags from 32, vector registers from
64, masks from 512, the scalar understory from 1024, cluster understories from 2048; a `sysw` to `FLG` names all
flags (R207). -/
def slotDsts (h : Slot) (i : Instr) : List Nat :=
  let opc := i.opcode.toNat
  let d := opF i 29 5
  let s := fun (n : Nat) => if n = 0 then [] else [n]
  let f := fun (n : Nat) => if n = 0 then [] else [32 + n]
  let c := h.cluster
  if opc = 0 then []
  else if h.isSc then
    if opc = 0x1B ∨ opc = 0x2A ∨ 0x2D ≤ opc then f (opF i 10 4)
    else if opc = 0x1C then f (opF i 16 4)
    else s d
  else if h.isSm then
    if opc = 4 then [1024 + opF i 10 9]
    else if opc = 22 then s d ++ s (opF i 19 5)
    else if opc = 26 then (if opF i 10 9 = 1 then (List.range 15).map (33 + ·) else [])
    else if smWrites opc || (decide (7 ≤ opc) && decide (opc ≤ 17) && decide (opF i 6 4 ≠ 0)) then s d
    else []
  else if h.isBr then (if opc = 3 then s d else [])
  else if h.isVa then
    if opc = 0x12 ∨ (0x28 ≤ opc ∧ opc ≤ 0x2A) then (if d = 0 then [] else [512 + 8 * c + d]) else [64 + 32 * c + d]
  else if h.isVl then
    if opc = 8 then [2048 + 32 * c + opF i 12 5]
    else if opc = 9 then [64 + 32 * opF i 0 3 + d]
    else if [1, 4, 5, 7, 11].contains opc then [64 + 32 * c + d]
    else []
  else []

/-- VA opcodes that weigh 1 whatever type they name (R81). -/
def vaLight (opc : Nat) : Bool :=
  [0x13, 0x15, 0x16, 0x17, 0x18, 0x1A, 0x1B, 0x1D, 0x1E, 0x28, 0x29, 0x2A, 0x2B, 0x2C].contains opc

/-- The weight of a slot (R81). -/
def slotWeight (h : Slot) (i : Instr) : Nat :=
  let opc := i.opcode.toNat
  let ft := opF i 4 4
  if opc = 0 then 0
  else if h.isVa then
    if vaLight opc then 1
    else if opc = 0x1C ∨ ft ≤ 2 ∨ ft = 11 ∨ ft = 12 then 2
    else 1
  else if h.isVl then 1
  else if h.isMx then 8
  else if h.isCp then 1
  else if h.isTx then 3
  else 0

/-- The illegal instructions that the state of the core or stream decides, predicates apart (group 2 of R83).
(DEDUCED, log 31) -/
def slotIllegal (p : State) : Instr → Bool
  | .loop _ o => loopIllegal p o.dsp
  | .loopi _ o => loopIllegal p o.dsp
  | .eret _ _ => !(strmOf p p.focus).frame.act
  | .vxfer _ o => isRoot p.focus.core && decide (4 ≤ o.xc.toNat)
  | .stg _ o => stgIllegal p o
  | .ldg _ o => stgIllegal p o
  | .bar _ _ => p.focus.side
  | .sysr _ o => sysAbsent p o.off.toNat
  | .sysw _ o => sysAbsent p o.off.toNat
  | .vqpush _ o => decide (o.xc = 2) && !isRoot p.focus.core && decide (o.off ≠ 0)
  | .hqry _ o => decide (o.cnt = 3) && decide ((if isRoot p.focus.core then 3 else 0) < o.qn.toNat)
  | _ => false

/-- May the `MX` slot of an `rp` bundle repeat (R62, R181)? -/
def mayRepeat (i : Instr) : Bool := decide (1 ≤ i.opcode.toNat) && decide (i.opcode.toNat ≤ 5)

/-- Has a repeated command more rows than fit one array cycle (R181)? The rate is that of the latch tag as it stands at decode,
whatever an `mlw` or `txw` in flight will make of it (DESIGN CHOICE, log 101); a source of `mlw` that does not translate is left to
the faults of its acceptance. -/
def repRows (p : State) (i : Instr) : Bool :=
  let core := p.focus.core
  let tooMany := fun (o : EnF) (rho : Nat) => decide (rho < wf o.prm 7 7 + 1)
  match i with
  | .mlw _ o =>
    let m := mxAsk .mlw o (shWord p core 0) (rs p o.sa) 0
    tooMany o (match access p core (askSrc true) (BitVec.ofNat 64 m.va) with
      | .ok (_, _, pa) => (mlwForm (rFmt (regOf p core (paRow pa)))).2.2
      | .error _ => 4)
  | .mma _ o => tooMany o (passForm (tget WLatch.idle (archOf p core).w o.wl.toNat).fmt.toNat).1
  | .mmar _ o => tooMany o 1
  | .mzr _ o => tooMany o 8
  | .mst _ o => tooMany o 1
  | _ => false

/-! ### Fetch (R53) -/

/-- A bundle as fetched: its header, its length, its slots in ascending position with what each word decodes
to, and the opcode field of the `BR` word. -/
structure Fetched where
  hdr   : BundleHdr
  len   : Nat
  slots : List (BitVec 5 × Except Reject Instr)
  brOp  : Nat

/-- Fetch the words of slots from an address. -/
def fetchSlots (s : State) (core : Nat) : List (BitVec 5) → BitVec 48 → Except (Nat × BitVec 48) (List (BitVec 5 × Parcel))
  | [], _ => .ok []
  | p :: t, va =>
    match fetchParcel s core va with
    | .error c => .error (c, va)
    | .ok w =>
      match fetchSlots s core t (va + 6) with
      | .error e => .error e
      | .ok l => .ok ((p, w) :: l)

/-- Fetch the bundle at an address: the trap code and the address of the faulting parcel otherwise. -/
def fetchBundle (s : State) (core : Nat) (va : BitVec 48) : Except (Nat × BitVec 48) Fetched :=
  match fetchParcel s core va with
  | .error c => .error (c, va)
  | .ok w =>
    let h := decodeHdr w
    match fetchSlots s core (presentSlots h.pm) (va + 6) with
    | .error e => .error e
    | .ok l => .ok { hdr := h, len := bundleLength h.pm, slots := l.map (fun x => (x.1, decodeSlot x.1 x.2))
                     brOp := match l.find? (fun x => x.1 == 3) with
                       | some x => wf x.2 34 8
                       | none => 0 }

/-- A trap of a bundle as a whole, or of one of its slots. (DEDUCED, log 24) -/
def bundleTrap (code slot grp : Nat) (pc : BitVec 48) (targ : Nat) : Trap :=
  { code := code, slot := BitVec.ofNat 5 slot, grp := grp, tpc := pc, tfa := pc, targ := BitVec.ofNat 64 targ, aux := 0
    swc := 0 }

/-! ### Group 1 of R83: header, block and structure -/

/-- The positions that a core and stream have (R29, R31, R55). -/
def absentPos (k : Sid) (p : BitVec 5) : Bool :=
  let n := p.toNat
  if k.side then decide (4 ≤ n)
  else isRoot k.core && ((decide (8 ≤ n) && decide (n ≤ 11)) || (decide (16 ≤ n) && decide (n ≤ 19)) || n == 20 || n == 22)

/-- Does a repeat started by an `rp` bundle still have iterations to run (R62)? -/
def repeating (x : Stream) : Bool := x.pipe.rep.isSome || x.contd == some 8

/-- Is the bundle illegal by its header or by the block and structure checks (R54, R55, R56, R62, R64 to R67)? -/
def badHeader (s : State) (k : Sid) (b : Fetched) : Bool :=
  let x := strmOf s k
  let h := b.hdr
  let mx := h.pm.getLsbD 20
  let next := x.pc.toNat + b.len
  decide (h.z ≠ 0) || (!h.we && (decide (h.wf ≠ 0) || h.wp)) || (h.we && decide (h.wf = 0) && h.wp) ||
  b.slots.any (fun y => absentPos k y.1) || (k.side && (decide (h.pop ≠ 0) || h.rp)) || (h.rp && !mx) ||
  (mx && repeating x) || (decide (h.pm = 0) && h.st) || (h.st != decide (next = x.blk.ext.toNat)) ||
  decide (x.blk.ext.toNat < next) || (h.pm.getLsbD 3 && decide (b.brOp = 3) && !h.st)

/-! ### Groups 2 and 3 of R83 -/

/-- The lowest slot with an illegal instruction (group 2). -/
def badSlot (p : State) (b : Fetched) : Option (BitVec 5) :=
  (b.slots.find? (fun y => match y.2 with
    | .error _ => true
    | .ok i => slotIllegal p i || (b.hdr.rp && decide (y.1 = 20) && (!mayRepeat i || repRows p i)))).map (·.1)

/-- The slot instructions of a bundle that has no decoding error. -/
def Fetched.instrs (b : Fetched) : List (Slot × Instr) :=
  b.slots.filterMap (fun y => match y.2 with
    | .ok i => i.slot?.map (fun h => (h, i))
    | .error _ => none)

/-- The weight of the slots of a bundle (R81). -/
def Fetched.weight (b : Fetched) : Nat := b.instrs.foldl (fun a x => a + slotWeight x.1 x.2) 0

/-- Is a list free of repeated numbers? -/
def noRepeat : List Nat → Bool
  | [] => true
  | x :: t => !t.contains x && noRepeat t

/-- Is a form counted against the outbound buffer at decode (R160)? -/
def outForm (h : Slot) (i : Instr) : Bool :=
  (h.isVl && decide (i.opcode = 10) && decide (opF i 0 3 = 1)) || (h.isSm && decide (i.opcode = 23))

/-- Is the bundle illegal by its destinations or its outbound forms (R58, R160)? -/
def badShape (b : Fetched) : Bool :=
  !noRepeat (b.instrs.flatMap (fun x => slotDsts x.1 x.2)) || decide (8 < (b.instrs.filter (fun x => outForm x.1 x.2)).length)

/-- The weight that a repeat continuation adds in the counted cycle about to open (R81). -/
def contWeight (x : Stream) : Nat := if repeating x then 8 else 0

/-- Is the bundle over its block's weight limit (R82, R224)? -/
def tooHeavy (s : State) (k : Sid) (b : Fetched) : Bool :=
  !k.side && decide (ptLimit (archOf s k.core).main.blk.pt.toNat < b.weight + contWeight (strmOf s k))

/-- Are its own slots over it, whatever a repeat adds in the cycle of its issue (R81, R82)? -/
def overweight (s : State) (k : Sid) (b : Fetched) : Bool :=
  !k.side && decide (ptLimit (archOf s k.core).main.blk.pt.toNat < b.weight)

/-- A number for a destination in flight, none for a discarded one. -/
def dstKey : Dst → Option Nat
  | .none => none
  | .s n => if n = 0 then none else some n
  | .f n => if n = 0 then none else some (32 + n)
  | .v c n => some (64 + 32 * c + n)
  | .m c n => if n = 0 then none else some (512 + 8 * c + n)

/-- The latency of a slot's result in the pipeline mode in force (R86, R113, R142), or the arrival it names (R134). -/
def slotLat (p : State) : Instr → Nat
  | .mul _ _ | .mulh _ _ | .mulhz _ _ => lat p p.focus 3 2
  | .div _ _ | .divz _ _ | .rem _ _ | .remz _ _ => lat p p.focus 18 9
  | .fadd _ _ | .fsub _ _ | .fmul _ _ | .ffma _ _ | .fmin _ _ | .fmax _ _ | .fcvt _ _ => lat p p.focus 4 2
  | .vadd _ o | .vsub _ o | .vmin _ o | .vmax _ o | .vabs _ o | .vneg _ o | .vcmp _ o | .vclamp _ o =>
    if etF o.ft.toNat then lat p p.focus 4 2 else 1
  | .vmul _ o => if etF o.ft.toNat then lat p p.focus 4 2 else lat p p.focus 3 2
  | .vmulh _ _ | .vdot4 _ _ | .vcvt _ _ | .vqnt _ _ | .vdqnt _ _ | .vrng _ _ => lat p p.focus 3 2
  | .vfma _ _ | .vfms _ _ | .vfnma _ _ => lat p p.focus 5 3
  | .vred _ _ => lat p p.focus 6 3
  | .vexp2 _ _ | .vlog2 _ _ | .vrcp _ _ | .vrsq _ _ | .vsqrt _ _ | .vtanh _ _ => lat p p.focus 12 6
  | .vxfer _ _ => lat p p.focus 3 2
  | .vld _ _ | .vldh _ _ => n0 (ptNow p p.focus.core)
  | .vldt _ o | .vbld _ o => o.arr.toNat
  | .ld _ o | .aadd _ o | .aand _ o | .aor _ o | .axor _ o | .amin _ o | .amax _ o | .aminz _ o | .amaxz _ o | .axch _ o
  | .acas _ o | .afadd _ o => o.arr.toNat
  | _ => 1

/-- The slots of a bundle that execute (R59). -/
def executing (p : State) (l : List (Slot × Instr)) : List (Slot × Instr) := l.filter (fun x => slotOn p x.1)

/-- Would a slot that executes write what an operation in flight writes in the same counted cycle, were the bundle to issue
in the one about to open (R18)? -/
def collide (p : State) (l : List (Slot × Instr)) : Bool :=
  (executing p l).any (fun y => (slotDsts y.1 y.2).any (fun d =>
    (strmOf p p.focus).pipe.ops.any (fun x => !x.fpx && dstKey x.dst == some d && x.rem == slotLat p y.2 + 1)))

/-- The scalar understory words that a bundle writes (R145). -/
def undWords (p : State) (l : List (Slot × Instr)) : List Nat := (executing p l).filterMap (fun x => match x.2 with
  | .stx _ o => some o.off.toNat
  | _ => none)

/-- Does the bundle of the other stream's open counted cycle write one of them (R18)? -/
def undClash (p : State) (l : List (Slot × Instr)) : Bool :=
  let y := strmOf p { p.focus with side := !p.focus.side }
  !y.cyc.isEmpty && (undWords p l).any (fun w => y.ust.contains w)

/-- Does the bundle pop a record in the counted cycle in which the side stream has popped one: the main stream gets the
older record of two (R202, R214)? -/
def popsAfter (p : State) (l : List (Slot × Instr)) : Bool :=
  let y := (archOf p p.focus.core).side
  !p.focus.side && !y.cyc.isEmpty && y.pipe.ops.any (fun x => x.slot == 2 && x.opc == 22 && x.rem == 0) &&
    (executing p l).any (fun x => match x.2 with
      | .evpop _ _ => true
      | _ => false)

/-! ### Evaluation of the slots (R57, R59, R83) -/

/-- What the slots of a bundle come to together: the state with the effects of those that issue, the first
hold at conditions 2 to 5 and whether one of them drains, the first trap, whether a race check waits ahead of it (R319),
the first hold at conditions 6 to 9, and the trap of a majority operation, which condition 9 finds (R136, R151). -/
structure Fold where
  s     : State
  low   : Option (Nat × Bool × Wait)
  drain : Bool
  trap  : Option Trap
  check : Bool
  high  : Option (Nat × Bool × Wait)
  last  : Option Trap

/-- The lower condition of two holds; the earlier slot's on a tie. (DEDUCED, log 24) -/
def lower (a : Option (Nat × Bool × Wait)) (c : Nat) (d : Bool) (w : Wait) : Option (Nat × Bool × Wait) :=
  match a with
  | none => some (c, d, w)
  | some x => if c < x.1 then some (c, d, w) else some x

/-- Add the result of one slot. -/
def Fold.add (f : Fold) : SlotRes → Fold
  | .ok s => { f with s := s }
  | .hold c d w =>
    if c ≤ 5 then { f with low := lower f.low c d w, drain := f.drain || d }
    else if w = .checks then { f with check := f.check || f.trap.isNone }
    else { f with high := lower f.high c d w }
  | .trap t => if t.code = 16 then { f with last := some (f.last.getD t) }
    else if f.check then f else { f with trap := some (f.trap.getD t) }

/-- Evaluate slots in ascending position. (DEDUCED, log 24) -/
def foldSlots (p : State) : Fold → List (Slot × Instr) → Fold
  | f, [] => f
  | f, (h, i) :: t => foldSlots p (f.add (runSlot h (slotIssue i) p f.s)) t

/-- Evaluate a bundle with the continuation of its counted cycle in the place of its `MX` slot (R180, R181): `p` is what its
slots read, `s` what their effects enter. -/
def foldBundle (p s : State) (l : List (Slot × Instr)) : Fold :=
  let f1 := foldSlots p { s := s, low := none, drain := false, trap := none, check := false, high := none, last := none } (l.filter (fun x => decide (x.1.pos.toNat ≤ 20)))
  let f2 := if p.focus.side || (strmOf p p.focus).contd.isSome then f1 else f1.add (contMx p f1.s p.focus.core)
  foldSlots p f2 (l.filter (fun x => decide (20 < x.1.pos.toNat)))

/-- The physical row that a store slot writes, if its address translates (R58). -/
def storeRow (p : State) (i : Instr) : Option Nat :=
  let through := fun (va : Word) => match access p p.focus.core askStore va with
    | .ok (_, _, pa) => some (canon (rowBase pa))
    | .error _ => none
  match i with
  | .st _ o => through (eaWord (rs p o.sa) o.off)
  | .vst _ o => through (eaRow (rs p o.sa) o.off)
  | .vstm _ o => through (eaRow (rs p o.sa) o.off)
  | .vsth _ o =>
    let x := handleReg p o.sa.toNat
    if handleBad p x o.off.toNat true then none
    else some (canon (sliceRow p.pkg (bufferCore p x true) (x.base + (x.prd + o.off.toNat) % x.size)))
  | _ => none

/-- Do two store slots of a bundle write one physical row (R58)? -/
def sameRow (p : State) (l : List (Slot × Instr)) : Bool :=
  !noRepeat ((executing p l).filterMap (fun x => storeRow p x.2))

/-- The row that a slot's access checks, if its address translates, and whether it writes (R316). -/
def checkedRow (p : State) (i : Instr) : Option (Nat × Bool) :=
  let at_ := fun (a : Ask) (va : Word) => match access p p.focus.core a va with
    | .ok (_, e, pa) => if raceLive p e pa then some (pa / 64, a.wr) else none
    | .error _ => none
  match i with
  | .ld _ o => at_ askLoad (eaWord (rs p o.sa) o.off)
  | .vld _ o => at_ askLoad (eaRow (rs p o.sa) o.off)
  | .vldt _ o => at_ askLoad (eaRow (rs p o.sa) o.off)
  | .vbld _ o => at_ askLoad (eaVWord (rs p o.sa) o.off)
  | .st _ o => at_ askStore (eaWord (rs p o.sa) o.off)
  | .vst _ o => at_ askStore (eaRow (rs p o.sa) o.off)
  | .vstm _ o => at_ askStore (eaRow (rs p o.sa) o.off)
  | _ => none

/-- The race tags once the checks of a bundle have returned: check and update are one step, and a bundle that a later
condition holds is not checked again (R136, R316). -/
def tagsAfter (p : State) (l : List (Slot × Instr)) : Tbl (BitVec 32) :=
  (executing p l).foldl (fun t x => match checkedRow p x.2 with
    | none => t
    | some (r, wr) => match meetTag (archOf p p.focus.core) p.focus.core wr (tagOf (tget 0 t r)) with
      | none => t
      | some y => tput t r y.bits) p.tags

/-- What the executing slots of a bundle ask of the outbound buffer together (R136, R160). -/
def outCount (p : State) (l : List (Slot × Instr)) : Nat :=
  ((executing p l).filter (fun x => match x.2 with
    | .vqpush _ o => decide (o.xc = 1) && decide ((rs p o.sa).toNat ≠ p.focus.core)
    | .evpost _ _ => true
    | _ => false)).length

/-- The vertical pushes of a bundle to each target (R160). -/
def vertCount (p : State) (l : List (Slot × Instr)) : Tbl Nat :=
  (executing p l).foldl (fun t x => match x.2 with
    | .vqpush _ o => if o.xc = 2 then tmod 0 t (vertTarget p.focus.core o.off.toNat) (· + 1) else t
    | _ => t) []

/-- The state that the slots of a bundle read: with what they share of its header and of one another.
(DEDUCED, log 23) -/
def atBundle (s : State) (k : Sid) (b : Fetched) : State :=
  let p := { s with focus := k, iss := { Issue.none with
    pc := (strmOf s k).pc, fz := b.hdr.fz, rp := b.hdr.rp, st := b.hdr.st, len := b.len } }
  { p with iss := { p.iss with outs := outCount p b.instrs, verts := vertCount p b.instrs } }

/-- The same state under the translations with which the bundle passed its faults, if a later condition has held it since
(R136). -/
def underTab (p : State) : State := match (strmOf p p.focus).tabAt with
  | none => p
  | some t => modArch p p.focus.core (fun a => { a with tab := t })

/-! ### The header wait and the queue heads (R59, R60) -/

/-- Is a flag named by `cf` of an `MX` or `TX` command of the stream that has not completed (R449)? -/
def flagPending (x : Stream) (f : BitVec 4) : Bool :=
  decide (f ≠ 0) && (x.pipe.mx.any (fun c => !c.sub && c.cf == f) || x.pipe.tx.any (fun c => c.cf == f) ||
    x.pipe.rep.any (fun r => r.o.cf == f) || x.pipe.nest.any (fun n => n.o.cf == f))

/-- The header wait, when it holds the bundle: whether in drain cycles (R59, R449). -/
def waitHold (x : Stream) (h : BundleHdr) : Option Bool :=
  if x.stage < 2 && h.we && !(x.flag h.wf != h.wp) then some (flagPending x h.wf) else none

/-- Does the bundle pop an empty queue (R60)? -/
def popsEmpty (s : State) (k : Sid) (h : BundleHdr) : Bool :=
  decide ((strmOf s k).stage < 3) && (List.range 8).any (fun q => h.pop.getLsbD q && ((archOf s k.core).qEnts q).isEmpty)

/-- Move the oldest ring entry into the storage of a queue (R162). -/
def refill (q : Queue) : Queue :=
  match q.ring with
  | some { base := b, size := n, quota := u, head := d, ents := e :: t } =>
    { q with ents := q.ents ++ [e], ring := some { base := b, size := n, quota := u, head := (d + 1) % n, ents := t } }
  | _ => q

/-- Pop the head of a queue (R60, R159, R162). -/
def popQueue (c : Nat) (s : State) (q : Nat) : State :=
  match (archOf s c).qEnts q with
  | [] => s
  | e :: _ =>
    modArch s c (fun a => { a with q := tmod Queue.idle a.q q (fun x => refill { x with ents := x.ents.erase e }) })

/-- The pops of a bundle at commit. -/
def popAll (s : State) (c : Nat) (h : BundleHdr) : State :=
  ((List.range 8).filter (fun q => h.pop.getLsbD q)).foldl (popQueue c) s

/-- Does an executing slot read the head of a queue: would it wait for it were it empty (R59)? -/
def readsHead (p : State) (l : List (Slot × Instr)) (q : Nat) : Bool :=
  let p0 := modStrm (modArch p p.focus.core (fun a => { a with q := tmod Queue.idle a.q q (fun x => { x with ents := [] }) }))
    p.focus (fun x => { x with stage := 0 })
  (executing p l).any (fun x => x.1.isVa && (match slotIssue x.2 p0 p0 with
    | .hold 3 _ _ => true
    | _ => false))

/-- A bundle that reads an entry pushed with release acts as an acquire: the pusher enters the acquire set
(R317, R323). (DEDUCED, log 62) -/
def acquireHeads (p s : State) (l : List (Slot × Instr)) : State :=
  let a := archOf p p.focus.core
  let ids := (List.range 8).filterMap (fun q => match (a.qEnts q).head? with
    | some e => if e.rel && readsHead p l q then some e.src else none
    | none => none)
  if ids.isEmpty then s else modArch s p.focus.core (fun a => addIds a ids)

/-! ### Votes (R63) -/

/-- The outcome of the votes of the executing slots that carry `vt`: those that two copies decided, and the
first that none did, from what the environment has found. -/
def votes (p : State) (l : List (Slot × Instr)) : List Nat × Option Nat :=
  let vs := ((executing p l).filter (·.1.vt)).map (·.1.pos.toNat)
  (vs.filter (fun n => p.upsets.contains (p.focus, .outvoted n)), vs.find? (fun n => p.upsets.contains (p.focus, .noMajority n)))

/-- The record of a corrected vote (R398). -/
def logVote (s : State) (n : Nat) : State :=
  let r := taskRec s s.focus 2 0 1 0 n 0
  logPkg s r.2

/-- What the environment has found in the storage of R389's fourth row as a bundle issues: a correction is recorded, and
changes nothing else; what cannot be corrected is consumed at the next boundary (R389, R392 reader class 4).
(DESIGN CHOICE, log 9) -/
def foundIn (k : Sid) (s : State) (u : Sid × Upset) : State :=
  if u.1 != k then s else match u.2 with
  | .corrected n => logPkg s (taskRec s k 1 0 1 0 n 0).2
  | .twoBit => modStrm s k (fun x => { x with pend := x.pend ++ [(BitVec.ofNat 64 (18 + 31 * 2 ^ 8 + 4 * 2 ^ 16), x.pc, 0)] })
  | _ => s

/-- Forget what the environment found at the bundle that issued. -/
def dropUpsets (s : State) (k : Sid) : State := { s with upsets := s.upsets.filter (fun u => u.1 != k) }

end Sys2Proof.Machine
end

