-- ==== Sys2Proof/Machine/Bundle.lean ====
section
/-!
DEFINITION. What a stream does at a bundle boundary (R53 to R68, R221 to R231, R449): pending traps and
preemptions, the issue and commit of a bundle, holds and drain cycles, block entry with its settle and its
clearing, and the drains of `done`, `yield` and `eret`.
-/
namespace Sys2Proof.Machine

/-! ### Write-back (R16, R17, R24, R41) -/

/-- Replace the bits of a mask. -/
def mergeBits (old new mask : Row) : Row := (old &&& ~~~mask) ||| (new &&& mask)

/-- Write the latch of an operation under its mask (R17). -/
def writeLatch (x : Cluster) (l : Latched) (v m : Row) : Cluster :=
  match l with
  | .none => x
  | .la => { x with la := mergeBits x.la v m }
  | .lm => { x with lm := mergeBits x.lm v m }

/-- Write the destination of an operation (R10, R16, R17). -/
def writeDst (s : State) (k : Sid) (x : Flight) : State :=
  let lmask := x.mask &&& ~~~x.hid
  let inCl := fun (c : Nat) (g : Cluster → Cluster) =>
    modArch s k.core (fun a => { a with cl := tmod Cluster.idle a.cl c g })
  match x.dst with
  | .none => s
  | .s n => modStrm s k (fun y => y.setReg n (x.val.setWidth 64))
  | .f n => modStrm s k (fun y => y.setFlag n (x.val.getLsbD 0))
  | .v c n => inCl c (fun y => writeLatch { y with v := tput y.v n (mergeBits (tget 0 y.v n) x.val x.mask) } x.latch x.val lmask)
  | .m c n =>
    let put := fun (y : Cluster) => (mergeBits ((y.maskReg n).setWidth 512) x.val x.mask).setWidth 16
    if n = 0 then s else inCl c (fun y => { y with m := tput y.m n (put y) })

/-- The flags of a result written ahead of a counted cycle, as a write of `FPC` in that cycle finds them (R24). -/
def noteRaised (k : Sid) (s : State) (x : Flight) : State :=
  modStrm s k (fun y => { y with raised := y.raised ||| flagsInFpc x.flags })

/-- An operation whose result falls due: its flags are raised, and it writes unless an exception it raised is
enabled, when it is kept for the snapshots and traps (R24, R41). -/
def retire (k : Sid) (s : State) (x : Flight) : State :=
  let s1 := orFpc s k.core x.flags
  if raisesTrap x.flags x.en then
    notePend (modStrm s1 k (fun y => { y with pipe := { y.pipe with ops := y.pipe.ops ++ [{ x with fpx := true }] } })) k 11
      x.slot.toNat 0 x.pc 0
  else writeDst s1 k x

/-! ### What falls due at a boundary (R26, R28, R41, R392) -/

/-- Is a result first readable by the bundle of the counted cycle about to open? -/
def Flight.due (x : Flight) : Bool := !x.fpx && x.rem == 1

/-- Has a stream a result due? -/
def Stream.anyDue (x : Stream) : Bool := x.pipe.ops.any Flight.due

/-- Has a stream a landing due? -/
def Stream.landsDue (x : Stream) : Bool := x.pipe.ops.any (fun y => y.due && y.landing)

/-- Lands it, at this boundary, data with an uncorrectable error? -/
def Stream.landsBad (x : Stream) : Bool := x.pipe.ops.any (fun y => y.due && y.landing && y.got && y.bad.isSome)

/-- Write the results due that are no landings, in issue order. -/
def writeDue (s : State) (k : Sid) : State :=
  let l := (strmOf s k).pipe.ops
  let now := fun (x : Flight) => x.due && !x.landing
  (l.filter now).foldl (fun s x => noteRaised k (retire k s x) x)
    (modStrm s k (fun y => { y with pipe := { y.pipe with ops := l.filter (fun x => !now x) } }))

/-- Land one access whose data has come: it writes, or consumes an uncorrectable error (R392, reader class 1). -/
def landOne (k : Sid) (s : State) (x : Flight) : State :=
  match x.bad with
  | some pa => notePend s k 18 x.slot.toNat 1 x.pc (BitVec.ofNat 64 pa)
  | none => writeDst s k x

/-- The landings due whose data has come are written and free their entries; the others are late and freeze the stream, so that
what a peer moves now moves in another core cycle than the next bundle (R20, R26). -/
def landDue (s : State) (k : Sid) : State :=
  let l := (strmOf s k).pipe.ops
  let now := fun (x : Flight) => x.due && x.landing && x.got
  let mark := fun (x : Flight) => if x.due && x.landing then { x with late := true } else x
  let s0 := if l.any (fun x => x.due && x.landing && !x.got) && !k.side then modArch s k.core (fun a => { a with moved := [] }) else s
  (l.filter now).foldl (landOne k) (modStrm s0 k (fun y =>
    { y with freed := y.freed ++ (l.filter now).map landSide
             pipe := { y.pipe with ops := (l.filter (fun x => !now x)).map mark } }))

/-! ### Counted cycles (R449) -/

/-- Has nothing of a pipe still to write or to complete? -/
def Pipe.idle (q : Pipe) : Bool := q.ops.isEmpty && q.mx.isEmpty && q.tx.isEmpty && q.rep.isNone && q.nest.isNone

/-- The parts of a counted cycle that have something to do; the regulator's step is left out of a settle (R222).
(DEDUCED, log 22) -/
def cycParts (c : Core) (side step : Bool) : List CycPart :=
  let q := (c.arch.stream side).pipe
  let arr := !side && !(q.mx.isEmpty && q.tx.isEmpty && q.nest.isNone)
  (if arr then [.rows] else []) ++ (if q.ops.isEmpty && (side || c.roll.isEmpty) then [] else [.writes]) ++
  (if arr then [.ends] else []) ++
  (if side || q.tx.isEmpty then [] else [.txEnds]) ++ (if step && !side then [.step] else [])

/-- An operation in flight as a counted cycle opens: one cycle nearer. -/
def Flight.near (x : Flight) : Flight := if x.fpx then x else { x with rem := x.rem - 1 }

/-- Open a counted cycle: `CCNT` counts it, what is in flight comes one cycle nearer, and the cycle's parts follow. `mark`
separates what issued before it. (DEDUCED, log 22) -/
def openCycle (s : State) (k : Sid) (mark : Nat) (step : Bool) : State :=
  let l := cycParts (coreOf s k.core) k.side step
  modArch s k.core (fun a =>
    let x := a.stream k.side
    { a.withStream k.side { x with ccnt := x.ccnt + 1, contd := none, mark := mark, cyc := l, freed := [], ust := [], raised := 0
                                   pipe := { x.pipe with ops := x.pipe.ops.map Flight.near } } with
      moved := if k.side then a.moved else [] })

/-- The state at a boundary as a continuation reads it. -/
def atBoundary (s : State) (k : Sid) : State :=
  { s with focus := k, iss := { Issue.none with pc := (strmOf s k).pc } }

/-- A counted cycle in which the stream issues nothing (R449): a repeat or nest goes on in it, and a trap of the
continuation is precise at the bundle that waits (R182). -/
def drainCycle (s : State) (k : Sid) (step : Bool) : State :=
  if k.side || (strmOf s k).contd.isSome then openCycle s k s.ids step
  else match contMx (atBoundary s k) s k.core with
    | .ok t => openCycle t k s.ids step
    | .trap t => takeTrap s k t
    | .hold _ _ _ => s

/-- Is the stream inside a counted cycle, or does a late broadcast row or a compare that is due hold the core at the one
about to open (R29, R178)? (DEDUCED, log 22) -/
def cycleHeld (s : State) (k : Sid) : Bool :=
  let c := coreOf s k.core
  let x := c.arch.stream k.side
  !x.cyc.isEmpty || (!k.side && (copLate s k.core || c.roll.any (fun r => decide (2 ≤ r.2.1))))

/-- Is the main stream in a settle (R67)? -/
def settling (a : Arch) : Bool := a.main.due == .header && a.main.stage == 1

/-- The restore code of a core (R231). (DEDUCED, log 33) -/
def restoreCode (s : State) (core : Nat) : Nat :=
  let a := archOf s core
  effCode (mergedPt a.clr.pt) a.clr.posn (envOf s core)

/-- After an `eret` or a restore the regulator reaches the restore code first (R231): one code in each of these
steps, upward after a clearing token. None when it stands there. (DEDUCED, log 33) -/
def regulatorBack (s : State) (core : Nat) : Option State :=
  let a := archOf s core
  let r := restoreCode s core
  if !a.main.resto then none
  else if a.vcode = r then
    some (modArch s core (fun a => { a with main := { a.main with resto := false }, tok := { a.tok with clrGot := false } }))
  else if a.vcode < r then
    (if a.tok.clrGot then some (modArch s core (fun a => { a with vcode := a.vcode + 1 }))
     else some (requestToken s core false))
  else some (modArch s core (fun a => { a with vcode := a.vcode - 1 }))

/-! ### Commit (R13, R57, R60, R66, R100) -/

/-- What a stream fetches at an address (R65, R66). -/
def dueAt (b : Block) (t : BitVec 48) (hdr : Bool) : Due :=
  if hdr || !(decide (b.hdr.toNat + 12 ≤ t.toNat) && decide (t.toNat < b.ext.toNat)) then .header else .bundle

/-- The loop hardware at the commit of the bundle at `pc` (R13): the stream with its counts, and the next
address when a level goes back. -/
def loopHw (x : Stream) (pc : BitVec 48) : Stream × Option (BitVec 48) :=
  let lv1 := fun (x : Stream) =>
    if x.lc1 ≠ 0 ∧ x.le1 = pc then ({ x with lc1 := x.lc1 - 1 }, if x.lc1 = 1 then none else some x.lb1) else (x, none)
  if x.lc0 ≠ 0 ∧ x.le0 = pc then
    if x.lc0 = 1 then lv1 { x with lc0 := 0 } else ({ x with lc0 := x.lc0 - 1 }, some x.lb0)
  else lv1 x

/-- The stream after the commit of its bundle: a taken transfer goes before the loop hardware (R14, R100), and
`done`, `yield` and `eret` wait for their drains. -/
def flow (x : Stream) (i : Issue) : Stream :=
  let y := { x with stage := 0, tabAt := none, lheld := false }
  let z := match i.jump with
    | some (t, h) => { y with pc := t, due := dueAt x.blk t h }
    | none =>
      let r := loopHw y i.pc
      let t := r.2.getD (i.pc + BitVec.ofNat 48 i.len)
      { r.1 with pc := t, due := dueAt x.blk t false }
  match i.ends.toNat with
  | 1 => { z with due := .done }
  | 2 => { z with due := .yield }
  | 3 => { z with due := .eret }
  | _ => z

/-- Let the outbound work of a bundle leave (R29). (DEDUCED, log 37) -/
def releaseStage (s : State) (core q : Nat) : State :=
  let go := fun (x : Option Nat) => if x = some q then none else x
  let s1 := modArch s core (fun a => { a with
    reqs := a.reqs.map (fun r => if r.side then r else { r with stg := go r.stg })
    cp := a.cp.map (fun c => { c with stg := go c.stg }), smv := a.smv.map (fun c => { c with stg := go c.stg }) })
  let s2 := modCtx s1 (nodeIds s core).1 (fun x => { x with sigs := x.sigs.map (fun g =>
    if g.core = core ∧ !g.side then { g with stg := go g.stg } else g) })
  { s2 with net := s2.net.map (fun m => if m.src = core ∧ !m.side then { m with stg := go m.stg } else m) }

/-- Does a bundle execute an operation whose result comes from outside the core before the bundle commits: a launch or a
majority operation (R151, R204)? In protected mode such a bundle is compared while it is held. (DEDUCED, log 37) -/
def answersFirst (p : State) (l : List (Slot × Instr)) : Bool := (executing p l).any (fun x => match x.2 with
  | .launch _ _ => true
  | .mjld _ _ => true
  | .mjst _ _ => true
  | _ => false)

/-- Enter the bundle in the rollback buffer of protected mode: the core as it stood before it (R29); a bundle that was
compared while it was held lets its outbound work go. (DEDUCED, log 37) -/
def enterRoll (p s : State) (k : Sid) (l : List (Slot × Instr)) : State :=
  let c := coreOf s k.core
  if c.split || k.side then s
  else if answersFirst p l then releaseStage (putCore s k.core { c with seq := c.seq + 1 }) k.core c.seq
  else putCore s k.core { c with roll := c.roll ++ [(c.seq, 0, p.iss.pc, archOf p k.core)], seq := c.seq + 1 }

/-- Commit a bundle whose slots have all issued into `s` (R57): pops, the acquire of released entries, the next
address, a software trap for the next boundary (R107), and the counted cycle. -/
def commit (p s : State) (k : Sid) (b : Fetched) (l : List (Slot × Instr)) : State :=
  let s1 := acquireHeads p (popAll s k.core b.hdr) l
  let s2 := enterRoll p s1 k l
  let s3 := modStrm s2 k (fun x => flow x s.iss)
  let s4 := match s.iss.soft with
    | none => s3
    | some (c, v) => modStrm s3 k (fun x =>
        { x with pend := x.pend ++ [(BitVec.ofNat 64 (12 + 3 * 2 ^ 8 + c.toNat * 2 ^ 32), p.iss.pc, v)] })
  modStrm (openCycle { s4 with iss := Issue.none } k p.ids true) k (fun x => { x with ust := undWords p l })

/-! ### Issue (R59, R83, R136, R224) -/

/-- Hold a bundle at a condition (R59): what it leaves behind, and a drain cycle where R449 makes the wait one. Held at a
condition after its faults it keeps its translations and the tags its race checks have set (R136, R316). `q` is what its
slots read. (DEDUCED, log 23) -/
def holdAt (s q : State) (k : Sid) (l : List (Slot × Instr)) (cond : Nat) (drain : Bool) (w : Wait) : State :=
  let s1 := modStrm s k (fun x => { x with stage := max x.stage (cond - 1) })
  let s2 := if decide (cond < 6) || (strmOf s k).tabAt.isSome then s1
    else { modStrm s1 k (fun x => { x with tabAt := some (archOf q k.core).tab }) with tags := tagsAfter q l }
  let s3 := applyWait s2 k w
  if drain then drainCycle s3 k true else s3

/-- Does the limiter hold the bundle (R224)? -/
def limiterHolds (s : State) (k : Sid) (b : Fetched) : Bool :=
  let a := archOf s k.core
  !k.side && a.clr.on && (a.main.lheld || decide (a.clr.lim < b.weight + contWeight a.main))

/-- The first hold of a bundle at conditions 2 to 5. -/
def lowHold (s : State) (k : Sid) (b : Fetched) (f : Fold) : Option (Nat × Bool × Wait) :=
  match waitHold (strmOf s k) b.hdr with
  | some d => some (2, d, .plain)
  | none => if popsEmpty s k b.hdr then some (3, false, .plain) else f.low

/-- What a bundle comes to at its boundary. -/
inductive BundleRes where
  | trap (t : Trap)
  /-- The limiter holds it (R224). -/
  | limit
  | hold (cond : Nat) (drain : Bool) (w : Wait)
  /-- It waits in a freeze: for its race checks, or behind the other stream's pop. -/
  | wait
  | go (f : Fold)

/-- A bundle that fetch, header and decode have passed meets its group 3, its limiter holds, its conditions and its faults
in order (R59, R83, R136, R224); a collision and the weight of a continuation count for the counted cycle in which it would
issue, when no wait that drains stands before it (R18, R81). `p` is the state before the bundle. -/
def bundleRes (s p : State) (k : Sid) (b : Fetched) : BundleRes :=
  let l := b.instrs
  let q := underTab p
  let f := foldBundle q p l
  let x := strmOf s k
  let lim := limiterHolds s k b
  let drains := f.drain || waitHold x b.hdr == some true || lim
  let ill := fun (grp : Nat) => BundleRes.trap (bundleTrap 2 31 grp x.pc 0)
  if overweight s k b || (!drains && (tooHeavy s k b || collide p l || undClash p l)) then ill 3
  else if lim then .limit
  else match lowHold s k b f with
    | some (c, d, w) => .hold c d w
    | none =>
      if x.tabAt.isNone && sameRow q l then ill 4
      else match f.trap, f.high, f.last with
        | some t, _, _ => .trap t
        | none, some (c, d, w), _ => if f.check then .wait else .hold c d w
        | none, none, some t => if f.check then .wait else .trap t
        | none, none, none => if f.check || popsAfter p l then .wait else match (votes p l).2 with
          | some n => .trap { bundleTrap 18 n 0 x.pc 0 with aux := 6 }
          | none => .go f

/-- Issue a bundle by what it comes to. -/
def issueBundle (s p : State) (k : Sid) (b : Fetched) : State :=
  let l := b.instrs
  match bundleRes s p k b with
  | .trap t => takeTrap (dropUpsets s k) k t
  | .limit => drainCycle (modStrm s k (fun x => { x with lheld := true })) k true
  | .hold c d w => holdAt s (underTab p) k l c d w
  | .wait => s
  | .go f => commit p (p.upsets.foldl (foundIn k) (dropUpsets ((votes p l).1.foldl logVote f.s) k)) k b l

/-- The bundle at the program counter: fetch, then the first two groups of R83 and the structure of the third, in order. -/
def decodeAt (s : State) (k : Sid) : Except Trap Fetched :=
  let x := strmOf s k
  match fetchBundle s k.core x.pc with
  | .error (c, va) => .error (bundleTrap c 31 0 x.pc va.toNat)
  | .ok b =>
    if badHeader s k b then .error (bundleTrap 2 31 1 x.pc 0)
    else match badSlot (atBundle s k b) b with
      | some n => .error (bundleTrap 1 n.toNat 2 x.pc 0)
      | none => if badShape b then .error (bundleTrap 2 31 3 x.pc 0) else .ok b

/-- The bundle at the program counter. -/
def bundleAt (s : State) (k : Sid) : State := match decodeAt s k with
  | .error t => takeTrap s k t
  | .ok b => issueBundle s (atBundle s k b) k b

/-- The trap that the bundle at the program counter meets. -/
def bundleTrapAt (s : State) (k : Sid) : Option Trap := match decodeAt s k with
  | .error t => some t
  | .ok b => match bundleRes s (atBundle s k b) k b with
    | .trap t => some t
    | _ => none

/-- May a stream act at a boundary now? -/
def mayAct (s : State) (k : Sid) : Bool :=
  let a := archOf s k.core
  a.run == .running && a.task.isSome && !cycleHeld s k && !(k.side && settling a)

/-- Is a stream of a running task at a bundle boundary? -/
def atBound (s : State) (k : Sid) : Bool :=
  let a := archOf s k.core
  a.run == .running && a.task.isSome && (a.stream k.side).cyc.isEmpty

/-- Is the bundle at the program counter held at its operation that answers before its commit, and not yet compared
(R29)? (DEDUCED, log 37) -/
def heldForCompare (s : State) (k : Sid) : Bool :=
  let x := strmOf s k
  !(coreOf s k.core).split && x.due == .bundle && x.mjok.isNone && mayAct s k &&
  match decodeAt s k with
  | .error _ => false
  | .ok b => answersFirst (atBundle s k b) b.instrs && (match bundleRes s (atBundle s k b) k b with
    | .hold c _ _ => decide (6 ≤ c)
    | .go _ => true
    | _ => false)

/-! ### Block entry (R64 to R68, R221 to R229) -/

/-- The header word of a block (R64). -/
def blockWord : Parcel := 0x1000000

/-- Is a descriptor within its ranges (R64)? -/
def descOk (d : BlockDesc) : Bool := decide (d.z = 0) && decide (1 ≤ d.plen.toNat) && decide (d.plen.toNat ≤ 102375)

/-- Read the block header at an address: its descriptor, or the trap code and the faulting address. -/
def blockAt (s : State) (core : Nat) (pc : BitVec 48) : Except (Nat × BitVec 48) BlockDesc :=
  match fetchParcel s core pc with
  | .error c => .error (c, pc)
  | .ok w =>
    if w ≠ blockWord then .error (2, 0)
    else match fetchParcel s core (pc + 6) with
      | .error c => .error (c, pc + 6)
      | .ok d => if descOk (decodeDesc d) then .ok (decodeDesc d) else .error (2, 0)

/-- Twice the clock of a code in a mode, in MHz (R216). -/
def clock2 (merged : Bool) (code : Nat) : Int :=
  let f := 1400 + 36 * ((code : Int) - 15)
  if merged then f else 2 * f

/-- The clearing that an entry into a point starts (R221, R223, R224, R226). -/
def newClearing (c : Clearing) (pt : BitVec 3) : Clearing :=
  let l := if c.on then min c.lim (ptLimit pt.toNat) else min (ptLimit c.pt.toNat) (ptLimit pt.toNat)
  { pt := pt, dep := c.posn, nom := ptCode pt.toNat, steps := 0, cyc := 0, lim := l }

/-- The block that a header at an address opens. -/
def blockOf (pc : BitVec 48) (d : BlockDesc) : Block :=
  { hdr := pc, ext := pc + 12 + BitVec.ofNat 48 (6 * d.plen.toNat), pt := d.pt, rrg := d.rrg }

/-- The stream in its new block: the loop levels are cleared unless an `eret` enters it (R104, R212). -/
def inBlock (x : Stream) (d : BlockDesc) : Stream :=
  let b := blockOf x.pc d
  let t := x.resume.getD (x.pc + 12)
  let y := { x with blk := b, pc := t, due := dueAt b t false, stage := 0, lheld := false, resume := none
                    pipe := { x.pipe with merged := mergedPt d.pt } }
  if x.resume.isSome then y else { y with lc0 := 0, lc1 := 0 }

/-- Is everything of the core visible, so that a settle ends (R67, R222)? -/
def settled (a : Arch) : Bool := a.main.pipe.idle && a.side.pipe.ops.isEmpty

/-- A counted cycle of a settle: the operations of both streams progress, the regulator does not move (R67, R222).
(DEDUCED, log 35) -/
def settleCycle (s : State) (core : Nat) : State :=
  let m : Sid := { core := core, side := false }
  let d : Sid := { core := core, side := true }
  let s1 := drainCycle (modStrm s m (fun x => { x with stage := 1 })) m false
  if (strmOf s1 d).pipe.ops.isEmpty || !(strmOf s1 d).cyc.isEmpty then s1 else openCycle s1 d s.ids false

/-- The trap that an entry into the block at the program counter meets (R64 to R67). -/
def entryTrap (s : State) (k : Sid) : Option Trap :=
  let x := strmOf s k
  match blockAt s k.core x.pc with
  | .error (c, va) => some (if c = 2 then bundleTrap 2 31 1 x.pc 0 else bundleTrap c 31 0 x.pc va.toNat)
  | .ok d => if !k.side && mergedPt x.blk.pt != mergedPt d.pt && !d.stl then some (bundleTrap 2 31 1 x.pc 0) else none

/-- Enter the block at the program counter: its checks, its settle, the header delay of an upward entry, its
clearing (R221). The side stream ignores point and settle (R68). -/
def entryAt (s : State) (k : Sid) : State :=
  let a := archOf s k.core
  let x := a.stream k.side
  match entryTrap s k, blockAt s k.core x.pc with
  | some t, _ => takeTrap s k t
  | none, .error _ => s
  | none, .ok d =>
    if k.side then modStrm s k (fun x => inBlock x d)
    else if d.stl && decide (x.stage < 2) && !settled a then
      (if a.side.cyc.isEmpty && a.side.anyDue then modStrm s k (fun x => { x with stage := 1 }) else settleCycle s k.core)
    else if decide (clock2 (mergedPt x.blk.pt) a.clr.posn < clock2 (mergedPt d.pt) (ptCode d.pt.toNat)) && !a.tok.clrGot then
      requestToken (modStrm s k (fun x => { x with stage := 2 })) k.core false
    else modArch s k.core (fun a => { a with
      clr := newClearing a.clr d.pt, tok := { a.tok with clrGot := false }, main := inBlock a.main d })

/-! ### What is taken at a boundary (R41, R210, R385, R396) -/

/-- The trap of a pending entry. (DEDUCED, log 34) -/
def pendTrap (pc : BitVec 48) (t : BitVec 64 × BitVec 48 × Word) : Trap :=
  let code := wf t.1 0 8
  { code := code, slot := BitVec.ofNat 5 (wf t.1 8 8), grp := 0, tpc := pc, tfa := if code = 10 then pc else t.2.1, targ := t.2.2
    aux := BitVec.ofNat 16 (wf t.1 16 16), swc := BitVec.ofNat 16 (wf t.1 32 16) }

/-- Does a trap for the handler or for containment meet a preemption at this boundary: it is taken first (R210, R396)? The
results due are looked at as the coming cycle writes them; a late landing stops the stream short of it. -/
def trapMeets (s : State) (k : Sid) : Bool :=
  let x := strmOf s k
  if x.pipe.ops.any (fun y => y.due && y.landing && !y.got) then false
  else
    let v := writeDue (landDue s k) k
    let met := fun (t : Option Trap) => t.any (fun t => takerOf t.code != .dispatcher)
    !(strmOf v k).pend.isEmpty || (match x.due with
      | .bundle => met (bundleTrapAt { v with focus := k } k)
      | .header => met (entryTrap v k)
      | _ => false)

/-- Has a stream a `yield` to drain before a preemption is taken (R109)? -/
def yielding (x : Stream) : Bool := x.due == .yield && !x.pipe.idle

/-- May a core be saved now: both streams at a boundary with no trap to be taken first and no `yield` that drains, its
requests performed, its compares passed, and of its `CP` and `smv` commands only those to shadowed destinations outstanding
(R109, R210, R385)? (DEDUCED, log 63) -/
def saveReady (s : State) (core : Nat) : Bool :=
  let c := coreOf s core
  let a := c.arch
  let free := fun (side : Bool) => let k : Sid := { core := core, side := side }
    !trapMeets s k && !yielding (a.stream side)
  a.main.cyc.isEmpty && a.side.cyc.isEmpty && a.reqs.isEmpty && a.smv.isEmpty && c.roll.isEmpty && free false && free true &&
    a.cp.all (fun x => decide (x.phase = 0) && !x.hp && (cpOut s core x).l.all (fun w => onShadow s core w.pa))

/-- Save a core for the preemptions asked of it when it may be. (DEDUCED, log 63) -/
def trySave (s : State) (core : Nat) : State :=
  if !(archOf s core).preq.isEmpty && saveReady s core then saveCore s core else s

/-- What the boundary before the next bundle takes: containment first, then one trap, the others waiting for the return
from it, then a preemption. An FP trap of a row stage waits for the results of its cycle, of which the frame names the
earliest-issued (R41, R176); any trap of the handler's waits for a landing that consumes an error, whose containment takes its
place (R396). None when the stream goes on. (DEDUCED, log 34) -/
def boundary (s : State) (k : Sid) : Option State :=
  let x := strmOf s k
  let take := fun (t : BitVec 64 × BitVec 48 × Word) =>
    some (takeTrap (modStrm s k (fun y => { y with pend := y.pend.erase t })) k (pendTrap x.pc t))
  match x.pend.find? (fun t => takerOf (wf t.1 0 8) != .handler), x.pend with
  | some t, _ => take t
  | none, t :: _ => if (wf t.1 0 8 = 11 ∧ x.anyDue) ∨ x.landsBad then none else take t
  | none, [] =>
    if (archOf s k.core).preq.isEmpty || yielding x || trapMeets s k then none else some (trySave s k.core)

/-! ### The drains of `done`, `yield` and `eret` (R106, R109, R212) -/

/-- Return from the frame once the handler's operations have written back (R212). (DEDUCED, log 41) -/
def eretAt (s : State) (k : Sid) : State :=
  let f := (strmOf s k).frame
  match blockAt s k.core f.tblk with
  | .error _ => returnFrame s k f.blk true
  | .ok d =>
    if !k.side && decide (d.pt ≠ f.clr.pt) then returnFrame s k f.blk true
    else returnFrame s k (blockOf f.tblk d) false

/-- Has a `done` nothing left to wait for in its second stage (R106)? -/
def doneFree (s : State) (k : Sid) : Bool :=
  let c := coreOf s k.core
  c.arch.reqs.all (fun r => r.side != k.side) && (k.side || (c.arch.cp.isEmpty && c.arch.smv.isEmpty && c.roll.isEmpty))

/-- End a stream at its `done`: the main stream's task retires, a side stream stops (R106). -/
def doneAt (s : State) (k : Sid) : State :=
  if !doneFree s k then s
  else if k.side then modStrm s k (fun x => { x with due := .nothing, frame := Frame.empty })
  else retireTask s k.core

/-- One drain cycle, or what follows when nothing of the stream is in flight. -/
def drainOr (s : State) (k : Sid) (g : State → State) : State :=
  if (strmOf s k).pipe.idle then g s else drainCycle s k true

/-! ### One step of a stream -/

/-- What a stream does next at its boundary: what the boundary takes, the regulator's way back, or what is due. -/
def streamAct (s0 : State) (k : Sid) : State :=
  let s := { s0 with focus := k }
  if !mayAct s k then s
  else match boundary s k with
    | some t => t
    | none => if (strmOf s k).anyDue then s else match (if k.side then none else regulatorBack s k.core) with
      | some t => t
      | none => match (strmOf s k).due with
        | .nothing => s
        | .bundle => bundleAt s k
        | .header => entryAt s k
        | .done => drainOr s k (fun s => doneAt s k)
        | .yield => drainOr s k (fun s => modStrm s k (fun x => { x with due := dueAt x.blk x.pc false }))
        | .eret => drainOr s k (fun s => eretAt s k)

/-- Does the step of a main stream freeze it: no counted cycle opens and it stands where it stood? -/
def froze (s t : State) (k : Sid) : Bool :=
  let x := strmOf s k
  let y := strmOf t k
  !k.side && x.cyc.isEmpty && y.cyc.isEmpty && x.pc == y.pc && x.due == y.due && !x.anyDue

/-- After a freeze the bundle issues in another core cycle than that in which peers have moved pointers (R20).
(DEDUCED, log 97) -/
def frozenOver (s t : State) (k : Sid) : State :=
  if froze s t k then modArch t k.core (fun a => { a with moved := [] }) else t

/-- One step of a stream; a vector that an `smv` could not take yet is taken first (R163, R179), and a dropped region the step
meets goes to the dispatcher (R298). -/
def streamStep (s0 : State) (k : Sid) : State :=
  let s := captureSmv s0 k.core
  takeDrops (frozenOver s (streamAct s k) k) (nodeIds s k.core).1

/-- Is the header at the program counter that of an empty bundle (R56)? -/
def emptyAt (s : State) (k : Sid) : Bool :=
  (strmOf s k).due == .bundle && (match fetchParcel s k.core (strmOf s k).pc with
    | .ok w => decide (wf w 0 25 = 0)
    | .error _ => false)

/-- What the environment reports reaches the state: an error that arises in a row stands there until something meets it
(R389). (DESIGN CHOICE, log 9) -/
def upset (k : Sid) (s : State) (u : Upset) : State := match u with
  | .row pa => if paPkg pa = s.pkg.toNat ∧ storageOk s pa then { s with flaws := canon pa / 64 :: s.flaws } else s
  | _ => { s with upsets := s.upsets ++ [(k, u)] }

/-- BUNDLE: a stream issues the bundle at its program counter, or a `done`, `yield` or `eret` drains (R57); the environment
says what the bundle finds in spoilt copies and storage (R63, R389). (DESIGN CHOICE, log 9) -/
def execBundle (x : Found) (s : State) : Host.Outcome State Fault Refusal :=
  .next (if (strmOf s x.k).due = .header ∨ emptyAt s x.k then s
    else streamStep (x.ups.foldl (upset x.k) s) x.k)

/-- EMPTY_BUNDLE: a header without slots issues (R56). -/
def execEmptyBundle (k : Sid) (s : State) : Host.Outcome State Fault Refusal :=
  .next (if emptyAt s k then streamStep s k else s)

/-- BLOCK_ENTRY: a stream enters the block at its program counter (R221). -/
def execBlockEntry (k : Sid) (s : State) : Host.Outcome State Fault Refusal :=
  .next (if (strmOf s k).due = .header then streamStep s k else s)

end Sys2Proof.Machine
end

