-- ==== Sys2Proof/Machine/Cycle.lean ====
section
/-!
DEFINITION. The parts of a counted cycle after its bundle (R24, R26, R41, R57, R167, R223, R227): row stages,
write-backs, landings, completions and the regulator's step; continuations as events of their own (R180, R181);
the compare of protected mode (R29); token grants (R229, R230); barrier completion (R200, R314, R317).
-/
namespace Sys2Proof.Machine

/-! ### The open counted cycle -/

/-- The stream of a core whose open counted cycle stands at a part, the main stream first. -/
def atPart (s : State) (core : Nat) (part : CycPart) : Option Sid :=
  let a := archOf s core
  if a.main.cyc.head? = some part then some { core := core, side := false }
  else if a.side.cyc.head? = some part then some { core := core, side := true }
  else none

/-- Leave the part at which the open counted cycle of a stream stands. -/
def nextPart (s : State) (k : Sid) : State := modStrm s k (fun x => { x with cyc := x.cyc.drop 1 })

/-- ROW_STAGE: the array and the transpose engine read and write the rows of the open counted cycle (R167,
R169, R195). -/
def execRowStage (core : Nat) (s : State) : Host.Outcome State Fault Refusal :=
  .next (match atPart s core .rows with
    | none => s
    | some k =>
      let mark := (strmOf s k).mark
      nextPart (txReads (mxStages s core mark) core mark) k)

/-- An earlier-issued operation whose latch `y` has written in the core cycle in which its own result falls due: what `y` wrote
stands (R17). -/
def hideLatch (y x : Flight) : Flight :=
  let cl := fun (d : Dst) => match d with
    | .v c _ => some c
    | _ => none
  if y.latch == .none || x.rem != 1 || x.latch != y.latch || cl x.dst != cl y.dst then x else { x with hid := x.hid ||| y.mask }

/-- The results that a bundle writes at its commit, at the end of the open counted cycle, in issue order; one that raises an
enabled exception is left for the boundary (R17, R41, R57). -/
def commitWrites (s : State) (k : Sid) : State :=
  let l := (strmOf s k).pipe.ops
  let now := fun (x : Flight) => !x.landing && !x.fpx && x.rem == 0 && !raisesTrap x.flags x.en
  let left := fun (x : Flight) => if x.rem == 0 then { x with rem := 1 } else x
  (l.filter now).foldl (retire k) (modStrm s k (fun y => { y with pipe := { y.pipe with ops := (l.filter (fun x => !now x)).map (fun x => left ((l.filter now).foldl (fun x y => hideLatch y x) x)) } }))

/-- The stream of a core at a boundary that takes nothing, with results due in the counted cycle about to open of which
`g` holds; the main stream first. -/
def dueStream (s : State) (core : Nat) (g : Stream → Bool) : Option Sid :=
  let ok := fun (k : Sid) => atBound s k && g (strmOf s k) && (boundary s k).isNone
  let m : Sid := { core := core, side := false }
  let d : Sid := { core := core, side := true }
  if ok m then some m else if ok d then some d else none

/-- WRITE_BACK: at the end of an open counted cycle the results of latency 1 are written, and the compare of protected
mode comes one cycle nearer; at a boundary, once the landings of the coming cycle have come, the results first readable
in it (R28, R29, R57). -/
def execWriteBack (core : Nat) (s : State) : Host.Outcome State Fault Refusal :=
  .next (match atPart s core .writes with
    | some k =>
      let s1 := commitWrites s k
      let s2 := if k.side then s1
        else putCore s1 core { coreOf s1 core with roll := (coreOf s1 core).roll.map (fun r => (r.1, r.2.1 + 1, r.2.2)) }
      nextPart s2 k
    | none => match dueStream s core (fun x => x.anyDue && !x.landsDue) with
      | some k => writeDue s k
      | none => s)

/-! ### Landing (R26) -/

/-- LANDING: timed accesses write in the counted cycle they named; one whose data has not come is late and holds the stream
until it comes (R26). -/
def execLanding (core : Nat) (s : State) : Host.Outcome State Fault Refusal :=
  .next (match dueStream s core Stream.landsDue with
    | some k => landDue s k
    | none => s)

/-! ### Engine completion (R165) -/

/-- ENGINE_COMPLETION: the completions of the array (0) and of the transpose engine (2) in the open counted
cycle; the copy engine (1) advances its first command in its own clock (R184). -/
def execEngineCompletion (core : Nat) (eng : BitVec 2) (s : State) : Host.Outcome State Fault Refusal :=
  .next (match eng.toNat with
    | 0 => (match atPart s core .ends with
      | some k => nextPart (mxCompletions s core) k
      | none => s)
    | 1 => cpAdvance s core
    | 2 => (match atPart s core .txEnds with
      | some k => nextPart (txCompletions s core (strmOf s k).mark) k
      | none => s)
    | _ => s)

/-- HANDLE_ROW_PRODUCED: `smv` (0) or the copy engine (1) writes the next row of the buffer it produces into (R189). -/
def execHandleRowProduced (core : Nat) (eng : BitVec 2) (s : State) : Host.Outcome State Fault Refusal :=
  .next (match eng.toNat with
    | 0 => smvProduce s core
    | 1 => cpProduce s core
    | _ => s)

/-! ### The regulator (R223, R227) -/

/-- One code towards a target. -/
def stepTo (v t : Nat) : Nat := if v < t then v + 1 else if t < v then v - 1 else v

/-- The regulator and the clearing at the end of a counted cycle. -/
def regulate (s : State) (core : Nat) (a : Arch) : Arch :=
  let eff := fun (n : Nat) => effCode (mergedPt a.clr.pt) n (envOf s core)
  if a.clr.on then
    if a.clr.cyc + 1 < 4 then { a with clr := { a.clr with cyc := a.clr.cyc + 1 } }
    else
      let c := { a.clr with cyc := 0, steps := a.clr.steps + 1 }
      { a with clr := c, vcode := stepTo a.vcode (eff c.posn), regCyc := 0, regTgt := eff c.posn }
  else
    let t := eff a.clr.nom
    let n := if a.regTgt = t then a.regCyc + 1 else 1
    if n < 4 then { a with regTgt := t, regCyc := n }
    else { a with regTgt := t, regCyc := 0, vcode := stepTo a.vcode t }

/-- REGULATOR_STEP: the end of a counted cycle for the clearing and the regulator. -/
def execRegulatorStep (core : Nat) (s : State) : Host.Outcome State Fault Refusal :=
  .next (match atPart s core .step with
    | none => s
    | some k => nextPart (modArch s core (regulate s core)) k)

/-! ### Continuations as events (R180 to R182) -/

/-- Issue the continuation of the counted cycle about to open ahead of its bundle. -/
def continueMx (s : State) (core : Nat) (w : Nat) : State :=
  let k : Sid := { core := core, side := false }
  if !mayAct s k || (boundary s k).isSome || (strmOf s k).contd.isSome || (archOf s core).main.resto then s
  else match contMx (atBoundary s k) s core with
    | .ok t => modStrm t k (fun x => { x with contd := some w })
    | .trap t => takeTrap s k t
    | .hold _ _ _ => s

/-- REPEAT_ITERATION: an iteration of a running repeat issues for the counted cycle about to open (R181).
(DEDUCED, log 45) -/
def execRepeatIteration (core : Nat) (s : State) : Host.Outcome State Fault Refusal :=
  .next (if (archOf s core).main.pipe.rep.isSome then continueMx s core 8 else s)

/-- NEST_COMMAND: a running nest issues its next internal command for the counted cycle about to open (R180).
(DEDUCED, log 42) -/
def execNestCommand (core : Nat) (s : State) : Host.Outcome State Fault Refusal :=
  .next (if (archOf s core).main.pipe.nest.isSome && (archOf s core).main.pipe.rep.isNone then continueMx s core 0 else s)

/-! ### Protected mode (R29) -/

/-- A queue with the entries of `old` back at its head that have been popped since, those that the core has pushed to itself
since taken out, and its configuration as it stood (R29). -/
def unpop (core : Nat) (old q : Queue) : Queue :=
  let held := fun (r : Option Ring) => (r.map (fun r => r.ents.map (·.id))).getD []
  let mine := fun (e : QEnt) => e.src == core && !(old.ents.map (·.id) ++ held old.ring).contains e.id
  let ring := match q.ring, old.ring with
    | some r, some o => some { o with head := r.head, ents := r.ents.filter (fun e => !mine e) }
    | none, some o => some o
    | _, none => none
  let left := q.ents.filter (fun e => !mine e)
  { q with ents := old.ents.filter (fun e => !(left.map (·.id) ++ held ring).contains e.id) ++ left, cfg := old.cfg, ring := ring }

/-- An event queue with the records popped since `old` back at its head. -/
def unpopEv : List EvRec → List EvRec → List EvRec
  | [], now => now
  | e :: t, now => if (e :: t).isPrefixOf now then now else e :: unpopEv t now

/-- Roll back the bundles from `q` on: what R29 lists and every other register that their slots write as it stood before,
their pops and local pushes undone, their outbound work discarded. Their `MX` and `TX` commands leave the pipe with the
stream: no row of one has been staged, since none is before the compare (R167, R195). (DEDUCED, log 37) -/
def rollBack (s : State) (core q : Nat) (old : Arch) : State :=
  let keep := fun (x : Option Nat) => match x with
    | some n => decide (n < q)
    | none => true
  let s1 := modArch s core (fun a => { a with
    main := old.main, cl := old.cl, fpc := old.fpc, und := old.und, shd := old.shd, cur := old.cur, hqv := old.hqv
    bfmt := old.bfmt, h := old.h, nacc := old.nacc, rlsd := old.rlsd, evq := unpopEv old.evq a.evq
    q := (List.range 8).foldl (fun t n => tmod Queue.idle t n (unpop core (old.queue n))) a.q
    reqs := a.reqs.filter (fun r => r.side || keep r.stg), cp := a.cp.filter (fun c => keep c.stg)
    smv := a.smv.filter (fun c => keep c.stg) })
  let s2 := modCtx s1 (nodeIds s core).1 (fun x => { x with sigs := x.sigs.filter (fun g => g.core != core || keep g.stg) })
  { s2 with net := s2.net.filter (fun m => m.src != core || m.side || keep m.stg) }

/-- The signatures of the oldest bundle that awaits its compare differ, or those of a bundle that is held for its compare:
the trap goes to containment (R29, R209). (DEDUCED, log 37) -/
def mismatch (s : State) (core : Nat) (slot : BitVec 5) : State :=
  let k : Sid := { core := core, side := false }
  match (coreOf s core).roll with
  | (q, _, pc, old) :: _ => takeTrap (rollBack (putCore s core { coreOf s core with roll := [] }) core q old) k (bundleTrap 17 slot.toNat 0 pc 0)
  | [] => if heldForCompare s k then takeTrap s k (bundleTrap 17 slot.toNat 0 (strmOf s k).pc 0) else s

/-- LOCKSTEP_COMPARE: the signatures of the oldest bundle that awaits its compare agree, and its outbound work
leaves; or they differ (R29). (DESIGN CHOICE, log 9; DEDUCED, log 36) -/
def execLockstepCompare (core : Nat) (agree : Bool) (slot : BitVec 5) (s : State) : Host.Outcome State Fault Refusal :=
  .next (if !agree then mismatch s core slot
    else match (coreOf s core).roll with
      | [] => s
      | (q, _, _, _) :: t => releaseStage (putCore s core { coreOf s core with roll := t }) core q)

/-! ### Token grants (R229, R230) -/

/-- The interval of a kind of token on a rail, in hub ticks (R427). -/
def interval (s : State) (rail : Nat) (start : Bool) : Nat :=
  let r := if rail < 64 then tget 15 s.can.islt rail else tget 15 s.can.rrt (rail - 64)
  if start then wf r 48 16 else wf r 32 16

/-- Does the arbiter of a rail grant a kind of token now? -/
def mayGrant (s : State) (rail : Nat) (start : Bool) : Bool :=
  let n := interval s rail start
  n == 0 || (tget [] s.hub.tokAt (2 * rail + start.toNat)).all (fun g => decide (g.2 + n ≤ s.hub.htck.toNat))

/-- Is a request still wanted by its core? -/
def wanted (s : State) (x : Nat × Bool × Nat × Nat) : Bool :=
  let k := (archOf s x.2.2.1).tok
  if x.2.1 then k.stReq else k.clrReq

/-- The request that a rail's arbiter grants next. -/
def nextToken (s : State) (rail : Nat) (start : Bool) : Option (Nat × Bool × Nat × Nat) :=
  s.hub.tokq.find? (fun x => x.1 == rail && x.2.1 == start && wanted s x && decide (x.2.2.2 ≤ s.hub.htck.toNat))

/-- Grant the first request of a kind on a rail (R229). -/
def grant (s : State) (rail : Nat) (start : Bool) : State :=
  match nextToken s rail start with
  | none => s
  | some x =>
    if !mayGrant s rail start then s
    else
      let c := x.2.2.1
      let s1 := modArch (takeTurn s (.token rail start) c) c (fun a => { a with tok := if start then { a.tok with stReq := false, stGot := true }
                                                      else { a.tok with clrReq := false, clrGot := true } })
      { s1 with hub := { s1.hub with
        tokq := s1.hub.tokq.filter (fun y => !(y.2.1 == start && y.2.2.1 == c))
        tokAt := tmod [] s1.hub.tokAt (2 * rail + start.toNat) (fun l => ((c, s1.hub.htck.toNat) :: l).take 16) } }

/-- Grant what the arbiter of a rail may grant of a kind in this hub tick, at most `n` requests. -/
def grantMany (rail : Nat) (start : Bool) : Nat → State → State
  | 0, s => s
  | n + 1, s => if (nextToken s rail start).isSome && mayGrant s rail start then grantMany rail start n (grant s rail start) else s

/-- Every request that may be granted in a hub tick is granted before the tick ends (R229, R230). -/
def grantAll (s : State) : State :=
  (s.hub.tokq.map (fun x => (x.1, x.2.1))).eraseDups.foldl (fun s x => grantMany x.1 x.2 s.hub.tokq.length s) s

/-- CLEARING_TOKEN_GRANT (R229). -/
def execClearingTokenGrant (rail : Nat) (s : State) : Host.Outcome State Fault Refusal := .next (grant s rail false)

/-- START_TOKEN_GRANT (R230). -/
def execStartTokenGrant (rail : Nat) (s : State) : Host.Outcome State Fault Refusal := .next (grant s rail true)

/-! ### Barriers (R200, R274, R314, R317, R319) -/

/-- The barrier group of a node, 0 for none. -/
def groupOfNode (n : Node) : Nat := recN n.record 66 2

/-- The cores that take part in a barrier of a node: those of the stand in its instance. -/
def barCores (b : Barrier) (n : Node) : List Nat :=
  n.stand.filter (fun c => match b.scp with
    | 2 => c / 128 * 16 + (if isRoot c then c % 128 - 64 else c % 128 / 4) == b.inst
    | 3 => c / 128 == b.inst
    | _ => true)

/-- The barriers that complete together with one: at CHAIN and POD those of every launch of its group. -/
def barGroupOf (s : State) (b : Barrier) : List Barrier :=
  match nodeOf s b.ctx b.node with
  | none => []
  | some n =>
    if b.scp < 6 then [b]
    else s.hub.bars.filter (fun y => y.ctx == b.ctx && y.scp == b.scp && y.id == b.id &&
      (match nodeOf s y.ctx y.node with
      | some m => groupOfNode m == groupOfNode n
      | none => false))

/-- Have all the participants of a node's barrier arrived or departed? -/
def barFull (s : State) (b : Barrier) : Bool :=
  match nodeOf s b.ctx b.node with
  | none => false
  | some n => !n.stand.isEmpty && (barCores b n).all (fun c => b.arr.contains c || n.gone.contains c)

/-- The launches of a barrier group here that hold no arrival yet. (DEDUCED, log 39) -/
def groupQuiet (s : State) (b : Barrier) : Bool :=
  match nodeOf s b.ctx b.node with
  | none => false
  | some n => b.scp < 6 || (ctxOf s b.ctx).nodes.all (fun m => groupOfNode m.2 != groupOfNode n ||
      (barGroupOf s b).any (fun y => y.node == m.1) || (!m.2.stand.isEmpty && m.2.stand.all (fun c => m.2.gone.contains c)))

/-- Have all launches of a barrier's group been created: those of the package and those of others (R274)? (DEDUCED, log 39) -/
def groupMade (s : State) (b : Barrier) : Bool :=
  match nodeOf s b.ctx b.node with
  | none => false
  | some n => b.scp < 6 || (let m := tget (0, false) (ctxOf s b.ctx).made (groupOfNode n)
                            m.2 || decide (recN n.record 68 2 ≤ m.1 + Config.groupFar s.fresh))

/-- A barrier group that completes a barrier is known to have all its launches (R274). -/
def noteGroup (s : State) (b : Barrier) : State :=
  match nodeOf s b.ctx b.node with
  | none => s
  | some n => if b.scp < 6 then s
    else modCtx { s with fresh := s.fresh + 1 } b.ctx (fun x => { x with made := tmod (0, false) x.made (groupOfNode n) (fun y => (y.1, true)) })

/-- One participant is released: its phase number rises, its acquire set empties, and a sweep begins at a multiple
of 64 (R317, R319). (DEDUCED, log 39) -/
def endPhase (scp id : Nat) (a : Arch) : Arch :=
  let p := a.phn + 1
  { a with phn := p, aset := some [], sweep := a.sweep || p.toNat % 64 == 0
           arrv := a.arrv.map (fun x => if x.1 = scp ∧ x.2.1 = id then (scp, id, true) else x) }

/-- Must a completion wait for the sweep of a participant (R319)? -/
def sweepHolds (a : Arch) : Bool := a.sweep && (a.phn + 1).toNat % 64 == 0

/-- The state of a core for a node: running, or saved. -/
def nodeArch (s : State) (c ctx node : Nat) : Arch :=
  match s.hub.saves.find? (fun v => v.core == c && v.ctx == ctx && v.node == node) with
  | some v => v.arch
  | none => archOf s c

/-- Change it. -/
def modNodeArch (s : State) (c ctx node : Nat) (g : Arch → Arch) : State :=
  if s.hub.saves.any (fun v => v.core == c && v.ctx == ctx && v.node == node) then
    { s with hub := { s.hub with saves := s.hub.saves.map (fun v =>
        if v.core == c && v.ctx == ctx && v.node == node then { v with arch := g v.arch } else v) } }
  else modArch s c g

/-- Complete one barrier instance. -/
def endBar (s : State) (b : Barrier) : State :=
  let s1 := b.arr.foldl (fun s c => modNodeArch s c b.ctx b.node (endPhase b.scp b.id)) s
  { s1 with hub := { s1.hub with bars := s1.hub.bars.filter (· != b) } }

/-- BARRIER_COMPLETION of instance `i` of the hub's list: every participant has arrived or departed; at CHAIN and
POD the event says that those of other packages have, too (R200). (DEDUCED, log 39) -/
def execBarrierCompletion (i : Nat) (s : State) : Host.Outcome State Fault Refusal :=
  .next (match s.hub.bars[i]? with
    | none => s
    | some b =>
      let l := barGroupOf s b
      if l.all (barFull s) && groupQuiet s b && groupMade s b &&
          !l.any (fun y => y.arr.any (fun c => sweepHolds (nodeArch s c y.ctx y.node))) then
        l.foldl endBar (noteGroup s b)
      else s)

/-- Set `V` := 0 on a tag 64 or more phases behind (R319). -/
def sweepTag (phn : BitVec 8) (t : BitVec 32) : BitVec 32 :=
  if 64 ≤ (phn - t.extractLsb' 4 8).toNat then t &&& ~~~8 else t

/-- RACE_TAG_SWEEP: the sweep of a core's banks ends (R319). -/
def execRaceTagSweep (core : Nat) (s : State) : Host.Outcome State Fault Refusal :=
  let a := archOf s core
  .next (if !a.sweep then s
    else modArch { s with tags := s.tags.map (fun t =>
        if t.1 * 64 / 2 ^ 22 = s.pkg.toNat * 2 ^ 26 + core then (t.1, sweepTag a.phn t.2) else t) } core
      (fun a => { a with sweep := false }))

end Sys2Proof.Machine
end

