-- ==== Sys2Proof/Machine/Access.lean ====
section
/-!
DEFINITION. Accesses at their homes (R146 to R149, R307 to R312, R317, R391, R392): loads, stores and atomics of
the package, what they return to the landings that await them, packets to other packages, and the arrival of
messages at queues, handles and event queues (R157, R159, R201). Publishes, residency changes, replay timeouts.
-/
namespace Sys2Proof.Machine

/-! ### Requests -/

/-- Drop a request that is performed. -/
def dropReq (s : State) (core id : Nat) : State :=
  modArch s core (fun a => { a with reqs := a.reqs.filter (fun r => r.id != id) })

/-- May a request be performed or sent now: those before it are performed, and its bundle's compare has passed
(R29, R308 to R310)? -/
def reqReady (a : Arch) (r : Req) : Bool :=
  r.stg.isNone && !r.sent && r.wait.all (fun i => !a.reqs.any (fun x => x.id == i))

/-- The data of an access as its landing writes it (R139, R144, R148). -/
def shapeData (sh : Shape) (r : Row) : Row :=
  let w := r.toNat % 2 ^ 64
  match sh with
  | .row => r
  | .bcast => BitVec.ofNat 512 (joinN 64 (List.replicate 8 w))
  | .word => BitVec.ofNat 512 w
  | .half hi => BitVec.ofNat 512 (fld w (if hi then 32 else 0) 32)

/-- Give a landing that awaits a request its data, or the poisoned row it found. -/
def fillFlight (id : Nat) (r : Row) (bad : Option Nat) (x : Flight) : Flight :=
  if x.landing && x.req == id then { x with got := true, val := shapeData x.shape r, bad := bad } else x

/-- The same in everything a stream holds in flight, the held snapshots included (R210). -/
def fillStream (id : Nat) (r : Row) (bad : Option Nat) (x : Stream) : Stream :=
  { x with pipe := { x.pipe with ops := x.pipe.ops.map (fillFlight id r bad) }
           frame := { x.frame with held := { x.frame.held with ops := x.frame.held.ops.map (fillFlight id r bad) } } }

/-- Return the value of an access to its core. -/
def returnData (s : State) (core id : Nat) (r : Row) (bad : Option Nat) : State :=
  modArch s core (fun a => { a with main := fillStream id r bad a.main, side := fillStream id r bad a.side })

/-- The releaser ids that an access returns (R317): those of its word, or of the words of its row. (DEDUCED, log 67) -/
def relIds (s : State) (r : Req) : List Nat :=
  let k := canon r.pa / 8
  let ks := if r.len = 64 then (List.range 8).map (fun i => canon (rowBase r.pa) / 8 + i) else [k]
  (ks.filterMap (fun k => (s.rels.find? (fun x => x.1 == k)).map (·.2))).eraseDups

/-- Take the returned releaser ids: an acquire enters them into the acquire set, a plain load collects them
(R317). (DEDUCED, log 67) -/
def takeIds (a : Arch) (r : Req) (ids : List Nat) : Arch :=
  if r.acq then addIds a ids
  else if r.op != .load then a
  else { a with pids := ids.foldl (fun l i => if l.contains i then l else l ++ [i]) a.pids }

/-- The stream of a request. -/
def reqSid (core : Nat) (r : Req) : Sid := { core := core, side := r.side }

/-- The packet of a request to another package, in the ordered class (R324, R403): reads carry nothing, stores
their bytes, atomics their operands and, in the payload, opcode, stream, node and context of the issuer.
(DEDUCED, log 93) -/
def sendReq (s : State) (core : Nat) (r : Req) : State :=
  let b := storeBytes r
  let s1 := match r.op with
    | .load => composePkt s 4 false r.pa 0 0 core (some r.id) none
    | .store => composePkt s (if b.2 = BitVec.ofNat 64 (2 ^ 64 - 1) then 1 else 2) false r.pa b.2.toNat b.1 core (some r.id) none
    | .atom opc => composePkt s 3 false r.pa (r.data.toNat % 2 ^ 64 + r.cmp.toNat * 2 ^ 64)
        (BitVec.ofNat 512 (opc.toNat + r.side.toNat * 2 ^ 8 + core * 2 ^ 16 + r.node % 2 ^ 32 * 2 ^ 32 + r.ctx * 2 ^ 64)) core
        (some r.id) none
  modArch s1 core (fun a => { a with reqs := a.reqs.map (fun x => if x.id = r.id then { x with sent := true } else x) })

/-! ### Loads and stores at home (R139, R140, R307) -/

/-- A load reads its value at its home (R307): the row or the word, or the error it finds (R392). -/
def performLoad (s : State) (core : Nat) (r : Req) : State :=
  let d := if r.len = 64 then rowAt s r.pa else (wordAt s r.pa).setWidth 512
  let bad := if poisoned s r.pa then some (rowBase r.pa) else none
  let s1 := returnData (meetError s r.pa) core r.id d bad
  modArch (dropReq s1 core r.id) core (fun a => takeIds a r (relIds s r))

/-- A store is performed at its home (R307): it may consume the row's error (R392), and it leaves its releaser's
id (R317). -/
def performStore (s : State) (core : Nat) (r : Req) : State :=
  let b := storeBytes r
  let s1 := applyStore s r
  let s2 := if r.sig then setRels s1 r.pa b.2.toNat core else s1
  let s3 := if poisoned s r.pa && partMask r.pa b.2.toNat && !r.eng then
      notePend s2 (reqSid core r) 18 r.slot.toNat 2 r.pc (BitVec.ofNat 64 (rowBase r.pa))
    else s2
  dropReq s3 core r.id

/-- A load or store at position `i` of a core's requests: performed at home, or sent to another package.
(DEDUCED, logs 92 and 93) -/
def accessAt (s : State) (core : Nat) (r : Req) : Host.Outcome State Fault Refusal :=
  if paPkg r.pa ≠ s.pkg.toNat then .next (sendReq s core r)
  else if !storageOk s r.pa then .fault (.noStorage r.pa)
  else if !tierUp s r.pa then .next s
  else .next (match r.op with
    | .load => performLoad s core r
    | _ => performStore s core r)

/-- ACCESS_PERFORMED: a load or store of a core takes effect at its home (R307). -/
def execAccessPerformed (core i : Nat) (s : State) : Host.Outcome State Fault Refusal :=
  match (archOf s core).reqs[i]? with
  | none => .next s
  | some r => match r.op with
    | .atom _ => .next s
    | _ => if reqReady (archOf s core) r then accessAt s core r else .next s

/-! ### Atomics at their unit (R146 to R148) -/

/-- The new word of an atomic (R147, R148): `x` the old word, `b` the operand, `c` the expected value, `hi` the
half that `afadd` acts on. -/
def atomVal (opc : Nat) (hi : Bool) (x b c : Word) : Word :=
  match opc with
  | 7 => x + b
  | 8 => x &&& b
  | 9 => x ||| b
  | 10 => x ^^^ b
  | 11 => if x.toInt ≤ b.toInt then x else b
  | 12 => if x.toInt ≤ b.toInt then b else x
  | 13 => if x.toNat ≤ b.toNat then x else b
  | 14 => if x.toNat ≤ b.toNat then b else x
  | 15 => b
  | 16 => if x = c then b else x
  | 17 =>
    let lo := if hi then 32 else 0
    setFld x lo 32 (fAdd fp32 0 false (wf x lo 32) (wf b 0 32)).1
  | _ => x

/-- Entries of the undo logs of a context's nodes (R394). -/
def undoUsed (x : Ctx) : Nat := x.nodes.foldl (fun a n => a + n.2.undo.length) 0

/-- The entry of an atomic in the undo log's ring in the save area (R394). (DEDUCED, log 69) -/
def writeUndo (s : State) (ctx : Nat) (u : Undo) : State :=
  let base := recN (ctxOf s ctx).record 56 8 + 0xAA000000
  writeRec { s with fresh := s.fresh + 1 } (base + 16 * (Config.undoPlace s.fresh % 2 ^ 22)) 16
    (Config.undoEntry u.pa u.opc.toNat u.b u.old u.new).toNat

/-- Record an atomic of a restartable node for undo; a full log ends the restartable state (R394). (DEDUCED, log 69) -/
def noteUndo (s : State) (r : Req) (opc : BitVec 8) (old new : Word) : State :=
  match nodeOf s r.ctx r.node with
  | none => s
  | some n =>
    if !n.restart || nodeOwns s n r.pa then s
    else if 2 ^ 22 ≤ undoUsed (ctxOf s r.ctx) then modNode s r.ctx r.node (fun n => { n with restart := false })
    else
      let u : Undo := { pa := r.pa, opc := opc, b := r.data.setWidth 64, old := old, new := new }
      modNode (writeUndo s r.ctx u) r.ctx r.node (fun n => { n with undo := n.undo ++ [u] })

/-- Write the word of an atomic: a release leaves its id, another carries the word's id on (R317). (DEDUCED, log 66) -/
def atomWrite (s : State) (core pa : Nat) (sig : Bool) (w : Word) : State :=
  let s1 := { writeWord s pa w with rels := s.rels }
  if sig then setRels s1 pa (255 * 2 ^ (pa % 64 / 8 * 8)) core else s1

/-- An atomic in one step at the unit of its word (R146). -/
def performAtom (s : State) (core : Nat) (r : Req) (opc : BitVec 8) : State :=
  let x := wordAt s r.pa
  let y := atomVal opc.toNat (decide (fld r.pa 2 1 = 1)) x (r.data.setWidth 64) r.cmp
  let s1 := noteUndo (atomWrite s core r.pa r.sig y) r opc x y
  modArch (dropReq (returnData s1 core r.id (x.setWidth 512) none) core r.id) core (fun a => takeIds a r (relIds s r))

/-- An atomic that meets a poisoned row is not performed (R392). (DEDUCED, log 68) -/
def atomBad (s : State) (core : Nat) (r : Req) : State :=
  let s1 := if awaited ((archOf s core).stream r.side) r.id then
      returnData (meetError s r.pa) core r.id 0 (some (rowBase r.pa))
    else notePend s (reqSid core r) 18 r.slot.toNat 2 r.pc (BitVec.ofNat 64 (rowBase r.pa))
  dropReq s1 core r.id

/-- An atomic of a core at its unit: held when the order log of the node that issued it says so (R355, R358), else performed.
(DEDUCED, log 68) -/
def atomAt (s : State) (core : Nat) (r : Req) (opc : BitVec 8) : Host.Outcome State Fault Refusal :=
  let unit := r.pa / 8 * 8
  let agent := agentBits s.pkg core r.side
  if paPkg r.pa ≠ s.pkg.toNat then .next (sendReq s core r)
  else if !storageOk s r.pa then .fault (.noStorage r.pa)
  else if poisoned s r.pa then .next (atomBad s core r)
  else if opc ≠ 17 then .next (performAtom s core r opc)
  else if !mayArrive s r.ctx r.node 1 unit agent then .next (holdArrival s r.ctx r.node 1 unit agent)
  else .next (performAtom (choose s r.ctx r.node 1 unit agent core r.side) core r opc)

/-- ATOMIC_AT_UNIT: an atomic of a core is executed at the unit of its word (R146). -/
def execAtomicAtUnit (core i : Nat) (s : State) : Host.Outcome State Fault Refusal :=
  match (archOf s core).reqs[i]? with
  | none => .next s
  | some r => match r.op with
    | .atom opc => if reqReady (archOf s core) r then atomAt s core r opc else .next s
    | _ => .next s

/-! ### Messages (R157, R159, R160, R201, R386) -/

/-- The channel of a message: its kind and the number of its queue or handle. -/
def chanOf : Msg → Nat × Nat
  | .push q _ => (0, q)
  | .pointer h _ _ => (1, h)
  | .event _ => (2, 0)

/-- Does a core's state hold the handle that a peer's pointer update is for: one whose image names the peer?
(DEDUCED, log 70) -/
def knowsPeer (a : Arch) (src : Nat) : Msg → Bool
  | .pointer h _ _ => let x := handleOf (tget 0 a.h h); x.vld && x.peer == src
  | _ => false

/-- The saved image of a core's launch among its images. (DEDUCED, log 70) -/
def saveOf (l : List Save) (ctx node : Nat) : Option Save := l.find? (fun v => v.ctx == ctx && v.node == node)

/-- The saved image that a message is bound for (R386): that of the launch it names, or of its sender's own node; that whose
handle names the sender of a pointer update, when the handle of the launch that runs does not; or the first, while its target core
runs nothing. (DEDUCED, log 70) -/
def saveFor (s : State) (m : NetMsg) : Option Save :=
  let l := s.hub.saves.filter (fun v => v.core == m.dst)
  let run := fun (c n : Nat) => (archOf s m.dst).task.any (fun t => t.ctx == c && t.node == n)
  let peer := l.find? (fun v => knowsPeer v.arch m.src m.msg)
  if m.toNode ≠ 0 ∧ ((saveOf l m.toCtx m.toNode).isSome ∨ run m.toCtx m.toNode) then saveOf l m.toCtx m.toNode
  else (saveOf l m.ctx m.node).or
    (if (archOf s m.dst).task.isNone then peer.or l.head?
    else if run m.ctx m.node || knowsPeer (archOf s m.dst) m.src m.msg then none
    else peer)

/-- Change the saved image of a core for a node. -/
def modSave (s : State) (v : Save) (g : Save → Save) : State :=
  { s with hub := { s.hub with saves := s.hub.saves.map (fun x =>
      if x.core == v.core && x.ctx == v.ctx && x.node == v.node then g x else x) } }

/-- May the message at a position arrive: what it follows is performed, and earlier ones of its sender on its
channel have arrived (R157, R159)? -/
def msgReady (s : State) (i : Nat) (m : NetMsg) : Bool :=
  m.stg.isNone && m.wait.all (fun w => !(archOf s m.src).reqs.any (fun r => r.id == w)) &&
    !(s.net.take i).any (fun x => x.src == m.src && x.dst == m.dst && chanOf x.msg == chanOf m.msg)

/-- Remove the message at a position. -/
def takeMsg (s : State) (i : Nat) : State := { s with net := s.net.eraseIdx i }

/-- An entry for a queue of a saved core goes to the ring of the image (R162, R386). (DEDUCED, log 70) -/
def spillSaved (s : State) (v : Save) (src q : Nat) (e : QEnt) (r : Ring) : State :=
  let put := fun (g : Queue → Queue) (a : Arch) => { a with q := tmod Queue.idle a.q q g }
  if r.quota ≤ r.ents.length then
    let trap : BitVec 64 × BitVec 48 × Word := (BitVec.ofNat 64 (10 + 31 * 2 ^ 8 + q * 2 ^ 16), v.arch.main.pc, BitVec.ofNat 64 src)
    let full := fun (a : Arch) => put (fun y => { y with qov := true }) { a with main := { a.main with pend := a.main.pend ++ [trap] } }
    let s1 := modSave s v (fun x => { x with arch := full x.arch })
    logCtx s1 v.ctx { kind := 8, trap := 10, sev := 3, out := 0, core := v.core, side := false, aux := q + src % 1024 * 8
                      node := v.node, addr := 0 }
  else
    let pa := r.base + 64 * ((r.head + r.ents.length) % r.size)
    let s1 := noteNodeWrite (writeRow (queueChoice s (v.ctx, v.node) (v.arch.queue q) v.core q src) pa e.data) e.ctx e.node pa
    modSave s1 v (fun x => { x with arch := put (fun y => { y.noteProd src with ring := some { r with ents := r.ents ++ [e] } }) x.arch })

/-- A message for a saved core (R386): entries spill or wait, pointer updates and event records are held, at most
sixteen, to be applied at restore. (DEDUCED, log 70) -/
def heldMsg (s : State) (i : Nat) (m : NetMsg) (v : Save) : State :=
  match m.msg with
  | .push q e =>
    let x := v.arch.queue q
    (match x.ring with
    | some r =>
      if !(x.cfg.getLsbD 1 && x.cfg.getLsbD 0) then s
      else if queueHeld s (v.ctx, v.node) x v.core q m.src then holdQueue s (v.ctx, v.node) v.core q m.src
      else spillSaved (takeMsg s i) v m.src q e r
    | none => s)
  | _ => if (s.hub.saves.filter (fun w => w.core == v.core)).foldl (fun a w => a + w.holds.length) 0 < 16 then modSave (takeMsg s i) v (fun x => { x with holds := x.holds ++ [m] }) else s

/-- An entry arrives at its queue (R159 to R162): it waits while the queue does not take it or the order log holds
it (for a vertical entry that of the node it is for, R355), and is discarded beyond the quota. -/
def queueAt (s : State) (i : Nat) (m : NetMsg) (q : Nat) (e : QEnt) : State :=
  if (if m.src = m.dst then queueShut ((archOf s m.dst).queue q) (queueCap q) else queueFull s m.dst q) then s
  else if queueHeld s (arrivalNode s m.dst q e) ((archOf s m.dst).queue q) m.dst q m.src then
    holdQueue s (arrivalNode s m.dst q e) m.dst q m.src
  else match arrive (takeMsg s i) m.dst q e with
    | some t => t
    | none => quotaFault (takeMsg s i) m.dst q m.src

/-- Apply a pointer update or an event record to a core (R153, R201). -/
def applyMsg (a : Arch) : Msg → Arch
  | .push _ _ => a
  | .pointer h prd v => { a with h := tput a.h h (setPtr (tget 0 a.h h) prd v.toNat) }
  | .event r => pushEvent a r

/-- A message that may arrive is delivered: vertical entries whatever the core does, others to the core or to its
saved image; a pointer moves between two counted cycles of the core, so that R20 finds it. (DEDUCED, log 97) -/
def deliver (s : State) (i : Nat) (m : NetMsg) : State :=
  if !msgReady s i m then s
  else match (if chanOf m.msg = (0, 7) then none else saveFor s m) with
    | some v => heldMsg s i m v
    | none => match m.msg with
      | .push q e => queueAt s i m q e
      | x => if (chanOf x).1 = 1 ∧ !(archOf s m.dst).main.cyc.isEmpty then s else modArch (takeMsg s i) m.dst (fun a => applyMsg a x)

/-- QUEUE_ARRIVAL: the entry at position `i` of the messages arrives (R159). -/
def execQueueArrival (i : Nat) (s : State) : Host.Outcome State Fault Refusal :=
  .next (match s.net[i]? with
    | none => s
    | some m => if (chanOf m.msg).1 = 0 then deliver s i m else s)

/-- A pointer that a peer moves while its core stands at a boundary moves in the cycle about to open (R20).
(DEDUCED, log 97) -/
def noteMove (s t : State) (m : NetMsg) : State :=
  match m.msg with
  | .pointer h prd _ =>
    if decide (t.net.length < s.net.length) && (saveFor s m).isNone && (archOf t m.dst).main.cyc.isEmpty then
      modArch t m.dst (fun a => { a with moved := a.moved ++ [(h, prd)] })
    else t
  | _ => t

/-- HANDLE_POINTER_UPDATE: a peer's pointer replaces that of the handle of the same number (R157). -/
def execHandlePointerUpdate (i : Nat) (s : State) : Host.Outcome State Fault Refusal :=
  .next (match s.net[i]? with
    | none => s
    | some m => if (chanOf m.msg).1 = 1 then noteMove s (deliver s i m) m else s)

/-- EVENT_RECORD_ARRIVAL: a record enters the core's event queue, or is counted as dropped (R201). -/
def execEventRecordArrival (i : Nat) (s : State) : Host.Outcome State Fault Refusal :=
  .next (match s.net[i]? with
    | none => s
    | some m => if (chanOf m.msg).1 = 2 then deliver s i m else s)

/-! ### Publishes, residency, replay (R297, R322, R358) -/

/-- PUBLISH_FLIP: the broadcast of a publish reaches a table (R322); the first that the publish of a core's first copy command
reaches performs it. -/
def execPublishFlip (f : FlipAt) (s : State) : Host.Outcome State Fault Refusal :=
  .next (match f with
    | .table core tab => flipTable s core tab
    | .arrive base side tab => flipFar s base side tab)

/-- Have the stacks under a region of a context trained (R433)? (DEDUCED, log 82) -/
def regionUp (s : State) (ctx region : Nat) : Bool :=
  let ok := fun (e : TEntry) => e.reg != region || stacksUp s s.hub.rdy e
  s.cores.all (fun c => (c.2.arch.task.map (·.ctx)) != some ctx || c.2.arch.tab.all (fun x => ok x.2)) &&
    (ctxOf s ctx).imgs.all (fun i => i.2.tmpl.all (fun t => t.2.all (fun e => ok e.2)))

/-- RESIDENCY_CHANGE: the driver or the dispatcher changes a region's residency in every table that maps it; one
that becomes resident lets its suspended tasks resume (R296, R297); on a stack that has not trained or has failed it stays absent
(R433). (DEDUCED, log 82) -/
def execResidencyChange (ctx region : Nat) (res : BitVec 2) (s : State) : Host.Outcome State Fault Refusal :=
  .next (if res = 0 ∧ !regionUp s ctx region then s
    else if res = 0 then modCtx (resident s ctx region) ctx (fun x => { x with pages := x.pages.filter (· != region) })
    else setRes s ctx region res.toNat)

/-- Replay timeout of a context, in hub ticks (R358, R378). -/
def replayLimit (x : Ctx) : Nat := recN x.record 4 4

/-- REPLAY_TIMEOUT: an arrival held longer than the timeout is a divergence (R358). (DEDUCED, log 25) -/
def execReplayTimeout (ctx unit : Nat) (s : State) : Host.Outcome State Fault Refusal :=
  let x := ctxOf s ctx
  .next (match x.held.find? (fun h => h.1 == unit && decide (h.2.2.1 + replayLimit x ≤ s.hub.htck.toNat)) with
    | none => s
    | some h => divergence s ctx h)

end Sys2Proof.Machine
end

