-- ==== Sys2Proof/Machine/Contexts.lean ====
section
/-!
DEFINITION. Contexts as the host drives them (R378 to R388): creation, launch queues and their completion records,
control-block copies, teardown, preemption, restore and event counter writes.
-/
namespace Sys2Proof.Machine

/-! ### Creation (R378, R379) -/

/-- Is a number a power of two from 2^lo to 2^hi? -/
def pow2In (lo hi x : Nat) : Bool := (List.range (hi + 1 - lo)).any (fun i => x == 2 ^ (lo + i))

/-- Is an address one of HBM of the package that exists, with an alignment? -/
def hbmAt (s : State) (a align : Nat) : Bool :=
  decide (a < 2 ^ 56) && decide (paPkg a = s.pkg.toNat) && decide (paSpace a = 1) && storageOk s a && decide (a % align = 0)

/-- Does a context record meet R378? -/
def ctxRecOk (s : State) (r : BitVec 1024) : Bool :=
  decide (recN r 0 1 < 8) && decide (recN r 1 1 < 8) && decide (1 ≤ recN r 2 1) && decide (recN r 3 1 < 3) &&
  hbmAt s (recN r 24 8) 64 && pow2In 10 32 (recN r 32 8) && hbmAt s (recN r 40 8) 1 && pow2In 6 20 (recN r 48 4) &&
  decide (recN r 52 4 = 0) && hbmAt s (recN r 56 8) (2 ^ 22) && hbmAt s (recN r 64 8) 64 &&
  decide (1 ≤ recN r 72 1) && decide (recN r 72 1 ≤ 16) && decide (recN r 73 55 = 0)

/-- Is a partition defined (R377)? -/
def partDefined (s : State) (p : Nat) : Bool := (tget 0 s.hub.part p).getLsbD 63

/-- Contexts that hold a chain context. -/
def chainHolders (s : State) : Nat := (s.hub.ctxs.filter (fun c => c.2.state != 0 && c.2.chain.isSome)).length

/-- A write discarded by the hub for a queue (R379, R380). -/
def logDiscard (s : State) (ctx q : Nat) : State :=
  logCtx s ctx { kind := 13, trap := 0, sev := 0, out := 0, core := 0, side := false, aux := q, node := 0, addr := 0 }

/-- CONTEXT_CREATE: `CR` := 1 creates the context from the record that its page holds (R378, R379). A halted package must be
reset first (R395); the span of a replay, and the number that its next node takes, come with the capture (R362).
(DEDUCED, logs 58, 89 and 90) -/
def execContextCreate (ctx : Nat) (v : Word) (s : State) : Host.Outcome State Fault Refusal :=
  let x := ctxOf s ctx
  let record := x.record
  let chain := (recN record 1 1).testBit 2
  let replay := decide (recN record 3 1 = 2)
  let span := Config.replaySpan s.fresh
  .next (if 16 ≤ ctx ∨ !v.getLsbD 0 then s
    else if s.hub.halted || x.state ≠ 0 || !ctxRecOk s record || !partDefined s (recN record 0 1) || (chain && decide (4 ≤ chainHolders s)) then
      logPkg s { kind := 13, trap := 0, sev := 0, out := 0, core := 0, side := false, aux := 255, node := 0, addr := 0 }
    else putCtx (if replay then { s with fresh := s.fresh + 1 } else s) ctx { Ctx.free with
      logs := if replay then span.1 else 0, loge := if replay then span.2 else 0, next := if replay then Config.replayNode s.fresh else 0
      state := 1, record := record, tdq := x.tdq, tddev := x.tddev, shtb := x.shtb, shtn := x.shtn, logm := BitVec.ofNat 8 (recN record 3 1)
      chain := if chain then some Chain.fresh else none })

/-! ### Launch queues (R380 to R383) -/

/-- Launch queue of a context. -/
def queueOf (s : State) (ctx q : Nat) : LQueue := tget LQueue.reset (ctxOf s ctx).qs q
/-- Change it. -/
def modQueue (s : State) (ctx q : Nat) (g : LQueue → LQueue) : State :=
  modCtx s ctx (fun x => { x with qs := tput x.qs q (g (tget LQueue.reset x.qs q)) })

/-- INTAKE_WRITE: the host writes the intake row of a queue; the last write of a hub tick counts (R380). -/
def execIntakeWrite (ctx q : Nat) (row : Row) (s : State) : Host.Outcome State Fault Refusal :=
  .next (modQueue s ctx q (fun y => { y with want := some row }))

/-- Does the dispatcher discard a write of an intake row (R380)? -/
def intakeBad (x : Ctx) (q : Nat) (lq : LQueue) (row : Row) : Bool :=
  row.toNat / 128 != 0 || !lq.en || x.state != 1 || decide (recN x.record 72 1 ≤ q) ||
    decide (64 < (row.extractLsb' 0 7 - lq.head).toNat)

/-- The intake write of a queue that counts in this hub tick moves its tail, or is discarded and logged (R380). -/
def takeIntake (ctx : Nat) (s : State) (q : Nat) : State :=
  let lq := queueOf s ctx q
  match lq.want with
  | none => s
  | some row =>
    let s1 := modQueue s ctx q (fun y => { y with want := none })
    if intakeBad (ctxOf s ctx) q lq row then logDiscard s1 ctx q else modQueue s1 ctx q (fun y => { y with tail := row.extractLsb' 0 7 })

/-- The same for every queue of a context at the end of a hub tick. -/
def takeIntakes (s : State) (ctx : Nat) : State := ((ctxOf s ctx).qs.map (·.1)).foldl (takeIntake ctx) s

/-- The 128 bytes of a slot of a queue. -/
def slotAt (s : State) (lq : LQueue) (n : Nat) : BitVec 1024 :=
  BitVec.ofNat 1024 (readN s.mem (canon (lq.base.toNat + 128 * (n % 64))) 128)

/-- Take the next slot off a queue: its submission is busy until its completion record (R381). -/
def takeSlot (s : State) (ctx q : Nat) : State :=
  modQueue s ctx q (fun y => { y with head := y.head + 1, subs := y.subs + 1, busy := y.busy ++ [y.subs] })

/-- SLOT_CONSUME: the dispatcher consumes the next submitted slot of a queue: a node, a refusal, or a copy to be
performed (R381, R383). -/
def execSlotConsume (ctx q : Nat) (s : State) : Host.Outcome State Fault Refusal :=
  let lq := queueOf s ctx q
  let n := lq.subs
  let r := slotAt s lq n
  .next (if !s.hub.rdy.getLsbD 1 || (ctxOf s ctx).state ≠ 1 || lq.head = lq.tail || (decide (64 ≤ n) && lq.busy.contains (n - 64))
    then s
    else
      let s1 := takeSlot s ctx q
      if lq.kind then modQueue s1 ctx q (fun y => { y with copies := y.copies ++ [(n, r)] })
      else
        let why := recWhy s1 ctx r
        if why ≠ 0 then hostRecord s1 ctx q n 0 2 why else (acceptNode s1 ctx r (.host q n) none).2)

/-- Does an address lie in a context's partition and name storage (R383)? -/
def inPartition (s : State) (ctx pa : Nat) : Bool :=
  decide (pa < 2 ^ 56) && decide (paPkg pa = s.pkg.toNat) && storageOk s pa &&
    (decide (paSpace pa ≠ 0) || (partGroves s ctx).testBit (paCore pa / 128))

/-- May a copy control block be performed (R383)? (DEDUCED, log 74) -/
def copyOk (s : State) (ctx : Nat) (r : BitVec 1024) : Bool :=
  let n := recN r 16 8
  decide (n % 64 = 0) && decide (64 ≤ n) && decide (n ≤ 2 ^ 40) && (List.range (n / 64)).all (fun i =>
    [recN r 0 8, recN r 8 8].all (fun a => inPartition s ctx (a + 64 * i) && inPartition s ctx (a + 64 * i + 63)))

/-- The 64 bytes from an address, and whether a row they lie in is poisoned. -/
def chunkAt (s : State) (a : Nat) : Nat × Bool :=
  let k := a % 64
  if k = 0 then ((rowAt s a).toNat, poisoned s a)
  else ((rowAt s a).toNat / 2 ^ (8 * k) + (rowAt s (a + 63)).toNat % 2 ^ (8 * k) * 2 ^ (8 * (64 - k)), poisoned s a || poisoned s (a + 63))

/-- Write bytes of a row at its home: of a whole row, or those of a mask; poisoned bytes poison it (R391).
(DEDUCED, log 74) -/
def putChunk (s : State) (pa d mask : Nat) (bad : Bool) : State :=
  let s0 := dropTag s (rowBase pa)
  let s1 := if mask = 2 ^ 64 - 1 then writeRow s0 pa (BitVec.ofNat 512 d)
            else writePart (noteFound s0 pa mask) pa (BitVec.ofNat 512 d) (BitVec.ofNat 64 mask)
  if bad then poisonRow s1 (rowBase pa) else s1

/-- Copy 64 bytes, a poison mark of their source with them (R383, R391). (DEDUCED, log 74) -/
def copyRow (src dst : Nat) (s : State) (i : Nat) : State :=
  let c := chunkAt s (src + 64 * i)
  let a := dst + 64 * i
  let k := a % 64
  if k = 0 then putChunk s a c.1 (2 ^ 64 - 1) c.2
  else putChunk (putChunk s a (c.1 * 2 ^ (8 * k) % 2 ^ 512) (2 ^ 64 - 2 ^ k) c.2) (a + 63) (c.1 / 2 ^ (8 * (64 - k))) (2 ^ k - 1) c.2

/-- The increment of a copy control block (R383). -/
def copyInc (s : State) (ctx : Nat) (r : BitVec 1024) : State :=
  let c := recN r 24 2
  if 4096 ≤ c then s else modCtx s ctx (fun x => raiseCtr x c (recN r 26 4))

/-- HUB_COPY_COMPLETE: the hub performs the oldest copy control block of a queue (R383). (DEDUCED, log 74) -/
def execHubCopyComplete (ctx q : Nat) (s : State) : Host.Outcome State Fault Refusal :=
  .next (match (queueOf s ctx q).copies with
    | [] => s
    | (n, r) :: t =>
      let s1 := modQueue s ctx q (fun y => { y with copies := t })
      if (ctxOf s ctx).state ≠ 1 then s
      else if !copyOk s ctx r then hostRecord s1 ctx q n 0 5 0
      else
        let s2 := (List.range (recN r 16 8 / 64)).foldl (copyRow (recN r 0 8) (recN r 8 8)) s1
        hostRecord (copyInc s2 ctx r) ctx q n 0 1 0)

/-! ### Teardown (R384, R395) -/

/-- Did a device-side launch reach the dispatcher in the present hub tick (R384)? -/
def launchedNow (s : State) (n : Node) : Bool := n.born == s.hub.htck.toNat && (match n.src with
  | .core _ _ => true
  | _ => false)

/-- A node that is not placed ends with the teardown (R384); a device-side launch of the teardown's own hub tick is discarded,
placed or not: no core is told of it. -/
def endWaiting (ctx : Nat) (s : State) (n : Nat × Node) : State :=
  let wait := n.2.st = .waiting ∨ n.2.st = .ready
  if launchedNow s n.2 then
    let s1 := modCtx s ctx (fun x => { x with tddev := x.tddev + 1 })
    if wait then forgetNode s1 ctx n.1 n.2 else modNode s1 ctx n.1 (fun n => { n with record := setFld n.record (8 * 37 + 2) 1 0 })
  else if wait then
    forgetNode (reportNode (modCtx s ctx (fun x => { x with tdq := x.tdq + 1 })) ctx n.1 n.2 2) ctx n.1 n.2
  else s

/-- One submitted slot that was not consumed ends with the teardown. -/
def endSlot (ctx q : Nat) (s : State) : State :=
  let n := (queueOf s ctx q).subs
  hostRecord (modCtx (takeSlot s ctx q) ctx (fun x => { x with tdq := x.tdq + 1 })) ctx q n 0 4 0

/-- The submitted slots of a queue end, then its copies that were not performed; an intake write of the same hub tick is discarded
as the tick ends (R380, R384). (DEDUCED, log 75) -/
def endQueue (ctx : Nat) (s : State) (q : Nat) : State :=
  let lq := queueOf s ctx q
  let s1 := (List.range (lq.tail - lq.head).toNat).foldl (fun s _ => endSlot ctx q s) s
  let s2 := lq.copies.foldl (fun s c => hostRecord s ctx q c.1 0 4 0) s1
  modQueue s2 ctx q (fun y => { y with copies := [] })

/-- The cores that run a task of a context. -/
def coresOfCtx (s : State) (ctx : Nat) : List Nat :=
  (s.cores.filter (fun x => (x.2.arch.task.map (·.ctx)) == some ctx)).map (·.1)

/-- Start the teardown of a context (R384). (DEDUCED, log 75) -/
def startTeardown (s : State) (ctx : Nat) : State :=
  let s1 := modCtx s ctx (fun x => { x with state := 2, tdq := 0, tddev := 0 })
  let s2 := (ctxOf s1 ctx).nodes.foldl (endWaiting ctx) s1
  let s3 := if (ctxOf s ctx).qs.isEmpty then s2 else ((ctxOf s ctx).qs.map (·.1)).foldl (endQueue ctx) s2
  let l := coresOfCtx s3 ctx
  let s3 := { s3 with hub := { s3.hub with flips := s3.hub.flips.filter (fun f => f.ctx != ctx) } }
  let own := fun (y : Pkt) => l.contains y.core && (y.req.isSome || y.cmd.isSome)
  let s4 := voidLost (discardUnsent (l.foldl stopCore s3) own) own
  modCtx s4 ctx (fun x => { x with chain := none, ctrs := [], sigs := [], logpos := 0, logack := 0, logbad := false, logm := 0
                                   logseq := [], replay := [], held := [], ranges := [], left := [], pages := [], drops := []
                                   made := [], logs := 0, loge := 0, rose := [] })

/-- TEARDOWN: `TD` := 1 (R384). -/
def execTeardown (ctx : Nat) (s : State) : Host.Outcome State Fault Refusal :=
  .next (if (ctxOf s ctx).state = 1 then startTeardown s ctx else s)

/-- A core that a context's end leaves idle. -/
def idleCore (s : State) (c : Nat) : State :=
  modArch s c (fun a => { a with
    task := none, run := .idle, tab := [], preq := [], tok := Tokens.none, cp := [], smv := [], reqs := []
    main := { a.main with due := .nothing, frame := Frame.empty, pend := [], cyc := [], pipe := Pipe.empty }
    side := { a.side with due := .nothing, frame := Frame.empty, pend := [], cyc := [], pipe := Pipe.empty } })

/-- A core leaves a node or context that ends: its table is unloaded (R299, R416) and it is free. -/
def freeCore (ctx : Nat) (s : State) (c : Nat) : State := idleCore ((archOf s c).tab.foldl (addHot ctx) s) c

/-- Have the accesses that a core issued all been performed, or left the package? -/
def drained (s : State) (c : Nat) : Bool :=
  (archOf s c).reqs.all (·.sent)

/-- Has a trap killed a node, not merely stopped it for a rerun (R393)? -/
def Node.killed (n : Node) : Bool := match n.kill with
  | none => false
  | some (_, fatal) => fatal || !n.restart || decide (2 ≤ n.reruns)

/-- A placed node ends with the teardown: 0x03 when a trap killed it, else 0x04 (R382, R384, R395). -/
def endPlaced (ctx : Nat) (s : State) (n : Nat × Node) : State :=
  forgetNode (reportNode s ctx n.1 n.2 (if n.2.killed then 1 else 2)) ctx n.1 n.2

/-- The bits of the system-atomic map that the regions of a context hold are cleared as the regions are freed, those of a
per-core region in every slice (R421). (DEDUCED, log 100) -/
def freeAtoms (s : State) (ctx : Nat) : State :=
  let es := (ctxOf s ctx).imgs.flatMap (fun i => i.2.tmpl.flatMap (fun t => (t.2.map (·.2)).filter (fun e => e.w0.getLsbD 63 && e.sya)))
  let gs := (es.flatMap (fun e => (if e.per then (List.range 1024).filter coreOkN else [0]).flatMap (fun c =>
    (e.bases c).flatMap (fun b => granules b (2 ^ e.lsz))))).eraseDups
  if gs.isEmpty then s else { s with hub := { s.hub with samap := s.hub.samap.filter (fun g => !gs.contains g) } }

/-- TEARDOWN_COMPLETE: no core runs a task of the context any more (R384). -/
def execTeardownComplete (ctx : Nat) (s : State) : Host.Outcome State Fault Refusal :=
  let l := coresOfCtx s ctx
  .next (if (ctxOf s ctx).state = 2 ∧ l.all (drained s) then
      let s1 := l.foldl (freeCore ctx) ((ctxOf s ctx).nodes.foldl (endPlaced ctx) s)
      modCtx (freeAtoms s1 ctx) ctx (fun x => { x with state := 0, nodes := [], imgs := [] })
    else s)

/-- Kill a context: a record in both rings, then its teardown (R395, R398). -/
def killContext (s : State) (ctx node : Nat) : State :=
  let e : ErrRec := { kind := 15, trap := 0, sev := 4, out := 4, core := 0, side := false, aux := node, node := node, addr := 0 }
  if (ctxOf s ctx).state = 1 then startTeardown (logPkg (logCtx s ctx e) e) ctx else s

/-! ### Preemption and restore (R385, R386) -/

/-- Add or withdraw a cause in the saved images of a node. -/
def modCauses (s : State) (ctx node : Nat) (g : List SaveCause → List SaveCause) : State :=
  { s with hub := { s.hub with saves := s.hub.saves.map (fun v =>
      if v.ctx == ctx && v.node == node then { v with causes := g v.causes } else v) } }

/-- PREEMPT_NODE: `PRS` = 1 names a node: its running cores are to be saved and its other launches wait (R385).
(DEDUCED, log 73) -/
def execPreemptNode (ctx node : Nat) (s : State) : Host.Outcome State Fault Refusal :=
  .next (match nodeOf s ctx node with
    | none => s
    | some n =>
      if n.st ≠ .placed then s
      else
        let s1 := modNode s ctx node (fun n => { n with st := .stopped })
        let s2 := (coresOf s1 ctx node).foldl (fun s c => askSave s c .prs) s1
        modCauses s2 ctx node (fun l => if l.contains .prs then l else l ++ [.prs]))

/-- RESUME_NODE: `PRS` = 0 withdraws the preemption (R385). (DEDUCED, log 73) -/
def execResumeNode (ctx node : Nat) (s : State) : Host.Outcome State Fault Refusal :=
  .next (match nodeOf s ctx node with
    | none => s
    | some n =>
      if n.st ≠ .stopped then s
      else
        let s1 := modNode s ctx node (fun n => { n with st := .placed })
        let s2 := (coresOf s1 ctx node).foldl (fun s c =>
          modArch s c (fun a => { a with preq := a.preq.filter (· != .prs) })) s1
        modCauses s2 ctx node (fun l => l.filter (· != .prs)))

/-- The priority of a node, 4 when it is gone. -/
def priOf (s : State) (ctx node : Nat) : Nat := match nodeOf s ctx node with
  | some n => ndPri n.record
  | none => 4

/-- PRIORITY_PREEMPTION: a node of priority 0 that has waited 100 µs takes the cores that launches of priority 2
or 3 hold (R385). (DESIGN CHOICE, log 10) -/
def execPriorityPreemption (ctx node : Nat) (s : State) : Host.Outcome State Fault Refusal :=
  .next (match nodeOf s ctx node with
    | none => s
    | some n =>
      if s.hub.htck.toNat < n.waits.getD s.hub.htck.toNat + 100000 then s
      else (n.stand.filter (fun c => waitsFor s c (ctx, node))).foldl (fun s c =>
        match (archOf s c).task with
        | some t => if 2 ≤ priOf s t.ctx t.node ∧ priOf s t.ctx t.node ≤ 3 then askSave s c (.priority ctx node) else s
        | none => s) s)

/-- Does a cause still keep an image saved (R385)? -/
def causeHolds (s : State) (v : Save) : SaveCause → Bool
  | .gate => gated s v.core
  | .priority c n =>
    let taken := (s.hub.saves.filter (fun w => w.ctx == v.ctx && w.node == v.node && w.causes.contains (.priority c n))).map (·.core)
    (match nodeOf s c n with
    | some x => taken.any (fun k => x.stand.contains k && !x.gone.contains k)
    | none => false) || taken.any (fun k => (tget [] s.hub.order k).any (waitsFor s k))
  | _ => true

/-- Remove the bytes of a core's slice and put those of an image in their place: banks that are not kept come back
zeroed (R386). (DESIGN CHOICE, log 71) -/
def restoreMem (s : State) (v : Save) : State :=
  let here := fun (pa : Nat) => decide (pa / 2 ^ 22 = s.pkg.toNat * 2 ^ 26 + v.core)
  { s with mem := v.mem.foldl (fun m x => cellPut m x.1 x.2) (s.mem.filter (fun x => !here x.1))
           tags := v.tags.foldl (fun t x => tput t x.1 x.2) (s.tags.filter (fun x => !here (64 * x.1)))
           poison := s.poison.filter (fun r => !here (64 * r)), flaws := s.flaws.filter (fun r => !here (64 * r)) }

/-- The core that an image restores (R231, R386): vertical entries are those that stand at the core, the formats of
banks that are not kept stay, `DISC` marks those banks, the regulator has its way to go, and the abandoned copy commands start
again through the table as it is now (R385). (DEDUCED, log 38) -/
def restoreArch (a : Arch) (v : Save) (keep : Nat) : Arch :=
  let b := v.holds.foldl (fun b m => applyMsg b m.msg) v.arch
  let kept := b.bfmt.filter (fun x => keep.testBit x.1)
  { b with
    q := tput (tdel b.q 7) 7 (a.queue 7), cp := b.cp.map (fun x => { x with tab := b.tab })
    bfmt := kept.foldl (fun t x => tput t x.1 x.2) (a.bfmt.filter (fun x => !keep.testBit x.1))
    disc := BitVec.ofNat 32 ((2 ^ 32 - 1 - keep % 2 ^ 32) % 2 ^ nBanks v.core)
    vcode := a.vcode, regCyc := 0, regTgt := a.vcode, tok := Tokens.none, run := .running, preq := []
    main := { b.main with resto := true } }

/-- The image that a core restores next: one of a live context that no cause holds, the first placed first. -/
def nextRestore (s : State) (core : Nat) : Option Save :=
  (tget [] s.hub.order core).findSome? (fun e => s.hub.saves.find? (fun v =>
    v.core == core && v.ctx == e.1 && v.node == e.2 && (ctxOf s v.ctx).state == 1 && !v.causes.any (causeHolds s v)))

/-- RESTORE: a free core takes a saved launch back, ahead of launches placed after it (R385, R386); an error in a
kept row is consumed (R392, reader class 5). (DESIGN CHOICE, log 71) -/
def execRestore (core : Nat) (s : State) : Host.Outcome State Fault Refusal :=
  .next (if (archOf s core).task.isSome || gated s core then s
    else match nextRestore s core with
      | none => s
      | some v =>
        let s1 := { restoreMem s v with hub := { s.hub with saves := s.hub.saves.filter (fun w =>
          !(w.core == v.core && w.ctx == v.ctx && w.node == v.node)) } }
        let s2 := putCore s1 core { coreOf s1 core with
          arch := restoreArch (archOf s1 core) v (keptBanks s v.ctx v.node), split := v.split }
        match v.bad.or (savedBad s v.ctx core) with
        | some pa => notePend s2 { core := core, side := false } 18 31 5 v.arch.main.pc (BitVec.ofNat 64 pa)
        | none => s2)

/-! ### Event counters (R379) -/

/-- EVENT_COUNTER_WRITE: `CNUM` raises a counter as a node increment does (R276, R379). -/
def execEventCounterWrite (ctx : Nat) (num : BitVec 16) (amt : BitVec 32) (s : State) : Host.Outcome State Fault Refusal :=
  .next (if 4096 ≤ num.toNat ∨ (ctxOf s ctx).state ≠ 1 then s
    else modCtx s ctx (fun x => raiseCtr x num.toNat amt.toNat))

end Sys2Proof.Machine
end

