-- ==== Sys2Proof/Machine/Chain.lean ====
section
/-!
DEFINITION. The chain sequencer (R339 to R350): the table and its check, walks, the start and the completion of an
entry, notifications and slots, the registers of a chain context.
-/
namespace Sys2Proof.Machine

/-! ### Fields (R340, R348) -/

/-- Entry `i` of the table. -/
def Chain.ent (c : Chain) (i : Nat) : BitVec 128 := tget 0 c.ents i
/-- `KIND` of an entry. -/
def enKind (e : BitVec 128) : Nat := wf e 0 2
/-- `SDL` of an entry, signed. -/
def enSdl (e : BitVec 128) : Int := sgn 8 (wf e 64 8)
/-- `CCNT`. -/
def Chain.ccnt (c : Chain) : Nat := wf c.w0 48 9
/-- `CBND`. -/
def Chain.cbnd (c : Chain) : Nat := wf c.w0 0 8
/-- `HUP`. -/
def Chain.hup (c : Chain) : Bool := c.w0.getLsbD 17
/-- `HDN`. -/
def Chain.hdn (c : Chain) : Bool := c.w0.getLsbD 16
/-- `GO`. -/
def Chain.go (c : Chain) : Bool := c.w8.getLsbD 0
/-- `RPT`. -/
def Chain.rpt (c : Chain) : Bool := c.w8.getLsbD 1
/-- `CPMAX`. -/
def Chain.cpmax (c : Chain) : Nat := wf c.w8 32 32
/-- Set `GO`. -/
def Chain.setGo (c : Chain) (b : Bool) : Chain := { c with w8 := setFld c.w8 0 1 b.toNat }

/-- Write `CERR` (R348, R350). (DEDUCED, log 78) -/
def Chain.err (c : Chain) (cause why ent : Nat) : Chain :=
  { c with cerr := BitVec.ofNat 64 (2 ^ 63 + why % 256 * 2 ^ 16 + cause * 2 ^ 12 + ent) }

/-- Write `CERR` and stop the walk (R350). -/
def Chain.halt (c : Chain) (cause why ent : Nat) : Chain := (c.err cause why ent).setGo false

/-- Change the chain context of a context that holds one. -/
def modChain (s : State) (ctx : Nat) (g : Chain → Chain) : State :=
  match (ctxOf s ctx).chain with
  | none => s
  | some c => modCtx s ctx (fun x => { x with chain := some (g c) })

/-! ### The table check (R341) -/

/-- Does an entry break a rule of its own? -/
def entBad (c : Chain) (e : BitVec 128) : Bool :=
  let k := enKind e
  let nd := wf e 88 2
  decide (wf e 104 24 ≠ 0) || decide (wf e 91 5 ≠ 0) || decide (wf e 2 6 ≠ 0) ||
  (match k with
    | 0 => decide (enSdl e < 0)
    | 1 => decide (0 < enSdl e)
    | _ => decide (enSdl e ≠ 0)) ||
  (k == 3 && decide (wf e 8 8 ≠ 0)) || (nd == 1 && !c.hdn) || (nd == 2 && !c.hup) ||
  (nd == 0 && (decide (wf e 80 8 ≠ 0) || decide (wf e 72 8 ≠ 0))) ||
  (decide (wf e 56 8 ≠ 0) && !c.hdn) || (decide (wf e 96 8 ≠ 0) && !c.hup)

/-- The sum of `SDL` over entries 0 to `i`. -/
def sdlSum (c : Chain) (i : Nat) : Int := (List.range (i + 1)).foldl (fun a j => a + enSdl (c.ent j)) 0

/-- The entry at which a table breaks R341, or none: the first entry that breaks a rule, 0 where `CCNT` or `CBND` does. The
spec says only "entry concerned" of `EENT`. (DEDUCED, log 78) -/
def tableBad (c : Chain) : Option Nat :=
  if c.ccnt = 0 ∨ 256 < c.ccnt ∨ c.cbnd = 0 then some 0
  else (List.range c.ccnt).find? (fun i =>
    entBad c (c.ent i) || (decide (0 < enSdl (c.ent i)) && decide ((c.cbnd : Int) < sdlSum c i)))

/-! ### Counters and slots (R342, R345, R347) -/

/-- Raise a ready counter; past its largest value it stays there and the walk stops (R342, R350). (DEDUCED, log 78) -/
def Chain.raise (c : Chain) (n amt ent : Nat) : Chain :=
  let old := (tget 0 c.rdy n).toNat
  let v := if old + amt < 2 ^ 32 then old + amt else 2 ^ 32 - 1
  let c1 := { c with rdy := tput c.rdy n (BitVec.ofNat 32 v), ups := tput c.ups n (tget 0 c.ups n + (v - old)) }
  if old + amt < 2 ^ 32 then c1 else c1.halt 3 0 ent

/-- Add slots to `DFREE` (R347, R350). -/
def Chain.addFree (c : Chain) (amt ent : Nat) : Chain :=
  let v := if c.dfree + amt < 65536 then c.dfree + amt else 65535
  let c1 := { c with dfree := v, dup := c.dup + (v - c.dfree) }
  if c.dfree + amt < 65536 then c1 else c1.halt 4 0 ent

/-- The address under which a ready counter (by number) or the slot count of a package's chain context is reached
from another package (log 17): its register in the context page. -/
def chainAddr (pkg ctx : Nat) (ctr : Option Nat) : Nat :=
  pkg * 2 ^ 48 + 3 * 2 ^ 46 + 0x108000 + 0x10000 * ctx + (match ctr with
    | some n => 0x400 + 8 * n
    | none => 0x18)

/-- Send an amount to a ready counter, or slots, of a package: applied at once to the own, else a packet of the
ordered class (R345). (DESIGN CHOICE, log 17) -/
def sendChain (s : State) (ctx pkg : Nat) (ctr : Option Nat) (amt : Nat) : State :=
  if amt = 0 then s
  else if pkg = s.pkg.toNat then
    modChain s ctx (fun c => match ctr with
      | some n => c.raise n amt c.cur
      | none => c.addFree amt c.cur)
  else composePkt s 2 false (chainAddr pkg ctx ctr) 255 (BitVec.ofNat 512 amt) 0 none none

/-- Upstream package. -/
def Chain.up (c : Chain) : Nat := wf c.w0 40 8
/-- Downstream package. -/
def Chain.down (c : Chain) : Nat := wf c.w0 32 8

/-- Send slots upstream; without an upstream package they are discarded (R347). -/
def sendSlots (s : State) (ctx : Nat) (c : Chain) (amt : Nat) : State :=
  if c.hup then sendChain s ctx c.up none amt else s

/-! ### Walks (R346, R347) -/

/-- Advertise the activation pool at a `GO` := 1 (R347). -/
def advertise (s : State) (ctx : Nat) (c : Chain) : State :=
  let old := c.adv.getD 0
  let s1 := modChain s ctx (fun c => { c with adv := some c.cslot.toNat })
  sendSlots s1 ctx c (c.cslot.toNat - old)

/-- `GO` := 1 takes effect on a stopped context: the table is checked and a walk starts (R341, R346). -/
def startWalk (s : State) (ctx : Nat) : State :=
  match (ctxOf s ctx).chain with
  | none => s
  | some c =>
    if c.go then s
    else match tableBad c with
      | some i => modChain s ctx (fun c => { c.halt 5 0 i with goHeld := false })
      | none =>
        let s1 := modChain s ctx (fun c => { (c.setGo true) with
          cpass := 1, cur := 0, goHeld := false, open_ := c.open_.map (fun e => (0, e.2)) })
        advertise s1 ctx c

/-- CHAIN_GO: a write of `GO` := 1; it is held until the sequencer is ready, and `GO` stays 0 when that fails (R433). -/
def execChainGo (ctx : Nat) (s : State) : Host.Outcome State Fault Refusal :=
  .next (if s.hub.rdy.getLsbD 2 then startWalk s ctx
    else if s.hub.rfl.getLsbD 2 then s
    else modChain s ctx (fun c => { c with goHeld := true }))

/-- CHAIN_STOP: a write of `GO` := 0 (R346). -/
def execChainStop (ctx : Nat) (s : State) : Host.Outcome State Fault Refusal :=
  .next (modChain s ctx (fun c => { (c.setGo false) with goHeld := false }))

/-! ### The start of an entry (R343, R344, R349) -/

/-- The reason why the current entry waits, 0 when it starts (R343); what the counters have risen by in this hub tick is seen
from the next on, and so is what completions have taken from the stash count (R373). -/
def waitReason (x : Ctx) (c : Chain) : Nat :=
  let e := c.ent c.cur
  let up := if 0 < enSdl e then (enSdl e).toNat else 0
  if (tget 0 c.rdy (wf e 32 8)).toNat - tget 0 c.ups (wf e 32 8) < wf e 40 16 then 1
  else if c.dfree - c.dup < wf e 56 8 then 2
  else if c.cbnd < c.stash + c.sdn + up then 3
  else if (e.getLsbD 90 || enKind e == 3) && c.open_.any (fun o => o.1 == c.cpass.toNat) then 4
  else if enKind e ≠ 3 && decide (64 ≤ x.intake) then 5
  else 0

/-- The walk after the start of its current entry (R346). -/
def Chain.advance (c : Chain) : Chain :=
  if c.cur + 1 < c.ccnt then { c with cur := c.cur + 1 }
  else if c.rpt && !(c.cpmax != 0 && c.cpass.toNat == c.cpmax) then { c with cur := 0, cpass := c.cpass + 1 }
  else ({ c with cur := c.ccnt }).setGo false

/-- What a started entry takes: units, slots, stash (R343, R349). -/
def Chain.take (c : Chain) (e : BitVec 128) : Chain :=
  let st := c.stash + (if 0 < enSdl e then (enSdl e).toNat else 0)
  { c with rdy := tput c.rdy (wf e 32 8) (tget 0 c.rdy (wf e 32 8) - BitVec.ofNat 32 (wf e 40 16))
           dfree := c.dfree - wf e 56 8, stash := st, smax := max c.smax st }

/-- The stash count becomes `v`; by how much it fell is seen from the next hub tick on (R373). -/
def Chain.setStash (c : Chain) (v : Nat) : Chain := { c with stash := v, sdn := c.sdn + (c.stash - v) }

/-- The effects of an entry's completion (R345): stash, notification, returned slots. (DESIGN CHOICE, log 16)
(DEDUCED, log 78) -/
def finishEntry (s : State) (ctx ent : Nat) : State :=
  match (ctxOf s ctx).chain with
  | none => s
  | some c =>
    let e := c.ent ent
    let d := (-(enSdl e)).toNat
    let s1 := if enSdl e < 0 then
        (if d ≤ c.stash then modChain s ctx (fun c => c.setStash (c.stash - d))
         else modChain { s with fresh := s.fresh + 1 } ctx (fun c => c.setStash (Config.stashBelow s.fresh).toNat))
      else s
    let n := wf e 72 8
    let amt := wf e 80 8
    let s2 := match wf e 88 2 with
      | 1 => sendChain s1 ctx c.down (some n) amt
      | 2 => sendChain s1 ctx c.up (some n) amt
      | 3 => sendChain s1 ctx s.pkg.toNat (some n) amt
      | _ => s1
    sendSlots s2 ctx c (wf e 96 8)

/-- The entry word of a started entry (R344). -/
def entryWord (c : Chain) (e : BitVec 128) : Word :=
  BitVec.ofNat 64 ((c.cpass - 1).toNat * 2 ^ 32 + enKind e * 2 ^ 24 + c.cur % 256 * 2 ^ 16 + wf e 16 16)

/-- The address of the node record of an entry (R344). -/
def entryRec (c : Chain) (e : BitVec 128) : Nat := c.crec.toNat + 128 * wf e 8 8

/-- Start the current entry (R343, R344): an X completes at once; another posts its node, or stops the walk when the
record is refused. (DEDUCED, log 78) -/
def startEntry (s : State) (ctx : Nat) (c : Chain) : State :=
  let e := c.ent c.cur
  let next := fun (s : State) => modChain s ctx Chain.advance
  if enKind e = 3 then next (finishEntry (modChain s ctx (fun c => c.take e)) ctx c.cur)
  else
    let a := entryRec c e
    let why := if paPkg a ≠ s.pkg.toNat || !storageOk s a || !storageOk s (a + 64) then 1
      else recWhy s ctx (BitVec.ofNat 1024 (readN s.mem (canon a) 128))
    if why ≠ 0 then modChain s ctx (fun x => x.halt 1 why c.cur)
    else
      let q := acceptNode s ctx (BitVec.ofNat 1024 (readN s.mem (canon a) 128)) (.chain c.cur) (some (entryWord c e))
      next (modChain q.2 ctx (fun c => { c.take e with open_ := c.open_ ++ [(c.cpass.toNat, c.cur, q.1)] }))

/-- Attribute a tick to a reason (R349). -/
def Chain.attribute (c : Chain) (r : Nat) : Chain :=
  let b := tget 0 c.bub r
  let t := wf b 0 40
  let n := wf b 40 24
  let t' := if t + 1 < 2 ^ 40 then t + 1 else t
  let n' := if c.why ≠ r ∧ n + 1 < 2 ^ 24 then n + 1 else n
  if 1 ≤ r ∧ r ≤ 5 then { c with why := r, bub := tput c.bub r (BitVec.ofNat 64 (n' * 2 ^ 40 + t')) } else { c with why := r }

/-- Chain signals leave the hub's intake once their bundle has been compared and what they follow is performed (R29,
R205, R347). -/
def sigReady (s : State) (g : Sig) : Bool := g.stg.isNone && g.wait.all (fun i => !(archOf s g.core).reqs.any (fun r => r.id == i))

/-- Forward the returned slots of the signals that are ready. -/
def forwardSlots (s : State) (ctx : Nat) : State :=
  let x := ctxOf s ctx
  match x.chain with
  | none => s
  | some c =>
    let go := x.sigs.filter (fun g => g.ret && sigReady s g)
    go.foldl (fun s g => sendSlots s ctx c g.amt)
      (if go.isEmpty then s else putCtx s ctx { x with sigs := x.sigs.filter (fun g => !(g.ret && sigReady s g)) })

/-- One hub tick of a chain context (R343, R349). -/
def tickChain (s0 : State) (ctx : Nat) : State :=
  let s := forwardSlots s0 ctx
  let x := ctxOf s ctx
  match x.chain with
  | none => s
  | some c =>
    if !c.go then modChain s ctx (fun c => c.attribute (if c.open_.isEmpty then 7 else 6))
    else
      let r := waitReason x c
      let s1 := modChain s ctx (fun c => c.attribute r)
      if r = 0 then startEntry s1 ctx c else s1

/-! ### Completion and arrivals (R345, R347, R350) -/

/-- CHAIN_ENTRY_COMPLETE: the node (number `i`) of a started entry completes, and its entry with it (R345). -/
def execChainEntryComplete (ctx i : Nat) (s : State) : Host.Outcome State Fault Refusal :=
  .next (match nodeOf s ctx i, (ctxOf s ctx).chain with
    | some n, some c =>
      if nodeDone s ctx n && isChainNode n then
        let s1 := completeNode s ctx i n
        match c.open_.find? (fun o => o.2.2 == i) with
        | none => s1
        | some o => finishEntry (modChain s1 ctx (fun c => { c with open_ := c.open_.filter (fun y => y.2.2 != i) })) ctx o.2.1
      else s
    | _, _ => s)

/-- A killed node of a started entry stops the sequencer (R345, R350). -/
def chainKilled (s : State) (ctx node : Nat) : State :=
  modChain s ctx (fun c => match c.open_.find? (fun o => o.2.2 == node) with
    | none => c
    | some o => { c.halt 2 0 o.2.1 with open_ := c.open_.filter (fun y => y.2.2 != node) })

/-- CHAIN_NOTIFICATION: a signal of a task of the package, once what it follows is performed, or a notification from
another package raises a ready counter (R205, R342, R345). -/
def execChainNotification (ctx : Nat) (ctr : BitVec 8) (amt : BitVec 16) (s : State) : Host.Outcome State Fault Refusal :=
  let x := ctxOf s ctx
  let is := fun (g : Sig) => !g.ret && g.ctr == ctr.toNat && g.amt == amt.toNat
  let up := fun (s : State) => modChain s ctx (fun c => c.raise ctr.toNat amt.toNat c.cur)
  .next (match x.sigs.find? is with
    | none => up s
    | some g => if sigReady s g then up (modCtx s ctx (fun x => { x with sigs := x.sigs.erase g })) else s)

/-- SLOT_RETURN: slots returned or advertised by the downstream package arrive (R347). -/
def execSlotReturn (ctx : Nat) (amt : BitVec 16) (s : State) : Host.Outcome State Fault Refusal :=
  .next (modChain s ctx (fun c => c.addFree amt.toNat c.cur))

/-! ### Registers (R347 to R349) -/

/-- A register that may be written only while the walk is stopped (R348): otherwise `CERR` takes cause 6 with the current
entry in `EENT`, not the one written. (DEDUCED, log 78) -/
def whenStopped (s : State) (ctx : Nat) (g : Chain → Chain) : State :=
  modChain s ctx (fun c => if c.go then c.err 6 0 c.cur else g c)

/-- Write `CSLOT` (R347): below the advertised count `CERR` takes cause 7 with the current entry in `EENT`. (DEDUCED, log 78) -/
def putCslot (v : BitVec 16) (c : Chain) : Chain :=
  if v.toNat < c.adv.getD 0 then c.err 7 0 c.cur else { c with cslot := v }

/-- CSLOT_WRITE (R347). -/
def execCslotWrite (ctx : Nat) (v : BitVec 16) (s : State) : Host.Outcome State Fault Refusal :=
  .next (whenStopped s ctx (putCslot v))

/-- SMAX_WRITE (R348, R349). -/
def execSmaxWrite (ctx : Nat) (v : BitVec 8) (s : State) : Host.Outcome State Fault Refusal :=
  .next (modChain s ctx (fun c => { c with smax := v.toNat }))

/-- Clear the bits of a W1C register that a write sets to one, for the fields of a mask. -/
def w1c (old v mask : Word) : Word := old &&& ~~~(v &&& mask)

/-- Clear a field of `bub` when its write has ones in it: W1C by bit (R348). -/
def putBub (r : Nat) (v : Word) (c : Chain) : Chain := { c with bub := tput c.bub r (w1c (tget 0 c.bub r) v (BitVec.ofNat 64 (2 ^ 64 - 1))) }

/-- Write a register of the chain block other than `GO`, `CSLOT` and `SMAX` (R348). -/
def chainWrite (s : State) (ctx off : Nat) (v : Word) : State :=
  if off = 0 then whenStopped s ctx (fun c => { c with w0 := v &&& 0x01FFFFFF000300FF })
  else if off = 8 then modChain s ctx (fun c => { c with w8 := (v &&& 0xFFFFFFFF00000002) ||| (c.w8 &&& 1) })
  else if off = 0x10 then whenStopped s ctx (fun c => { c with crec := v &&& 0x00FFFFFFFFFFFF80 })
  else if off = 0x30 then modChain s ctx (fun c => { c with cerr := w1c c.cerr v 0x8000000000000000 })
  else if 0x40 ≤ off ∧ off < 0x80 ∧ off % 8 = 0 then modChain s ctx (putBub ((off - 0x40) / 8) v)
  else if 0x400 ≤ off ∧ off < 0xC00 ∧ off % 8 = 0 then
    modChain s ctx (fun c => { c with rdy := tput c.rdy ((off - 0x400) / 8) (v.setWidth 32), ups := tdel c.ups ((off - 0x400) / 8) })
  else if 0x1000 ≤ off ∧ off < 0x2000 ∧ off % 8 = 0 then
    whenStopped s ctx (fun c =>
      let i := (off - 0x1000) / 16
      { c with ents := tput c.ents i (setFld (c.ent i) (if off % 16 = 0 then 0 else 64) 64 v.toNat) })
  else s

/-- CHAIN_REGISTER_WRITE: a driver write to the chain register block (R348). -/
def execChainRegisterWrite (ctx off : Nat) (v : Word) (s : State) : Host.Outcome State Fault Refusal :=
  .next (chainWrite s ctx off v)

end Sys2Proof.Machine
end

