-- ==== Sys2Proof/Machine/Fabric.lean ====
section
/-!
DEFINITION. Chomar and the second tier as the package meets them (R400 to R413): ports and links, flits, packets at
their destination and their answers at the source, routes, refusals and failures, second-tier ports and decoders.
-/
namespace Sys2Proof.Machine

/-! ### Ports (R400 to R402) -/

/-- Set the state and the width of a port. -/
def setPst (q : Port) (st wid : Nat) : Port := { q with reg := setFld (setFld q.reg 8 4 st) 16 2 wid }

/-- Did a packet leave over a port (R407)? -/
def viaPort (p : Nat) (x : Pkt) : Bool := x.gone && x.port == some p

/-- What has left for some packages over a path that fails may be lost: it is to be replayed (R408). (DEDUCED, log 75) -/
def losePath (s : State) (p : Nat) (for_ : Nat → Bool) : State :=
  { s with fab := { s.fab with retry := s.fab.retry.map (fun x =>
      if viaPort p x && for_ (pHdr x.hdr).dpkg then { x with lost := true } else x) } }

/-- The packets of a pair and class of which some were lost are replayed from the oldest unacknowledged on, where a route leads to
their package (R408). (DEDUCED, log 75) -/
def replayLost (s : State) (for_ : Nat → Bool) : State :=
  let hit := fun (x : Pkt) => for_ (pHdr x.hdr).dpkg && !(livePorts s (pHdr x.hdr).dpkg).isEmpty &&
    s.fab.retry.any (fun y => samePair x y && y.lost)
  { s with fab := { s.fab with retry := s.fab.retry.map (fun x => if hit x then { x with sent := false, lost := false } else x) } }

/-- PORT_ENABLE: a write of `EN` = 1 trains the port from four lanes (R400). -/
def execPortEnable (p : Nat) (s : State) : Host.Outcome State Fault Refusal :=
  .next (if 64 ≤ p then s
    else modPort (losePath s p (fun _ => true)) p (fun q => setPst { Port.off with reg := (q.reg &&& 0xF00000) ||| 1 } 1 0))

/-- PORT_TRAINED: training completes; the peer grants 256 flits of buffer (R400, R401), and what a failed path lost is replayed over
the route that returns (R408). -/
def execPortTrained (p : Nat) (pkg : BitVec 8) (prt : BitVec 6) (s : State) : Host.Outcome State Fault Refusal :=
  .next (if pst s p ≠ 1 then s
    else
      let t := modPort s p (fun q =>
        let r := setPst q 2 3
        { r with reg := setFld (setFld r.reg 56 8 pkg.toNat) 50 6 prt.toNat, credit := 256 })
      pump (replayLost t (fun _ => true)))

/-- A port fails (R401): what went over it waits for the route that the fabric manager installs (R408). -/
def failPort (s : State) (p : Nat) : State :=
  pump (modPort (losePath s p (fun _ => true)) p (fun q =>
    { setPst q 4 0 with retry := [], asm := [], credit := 0, fails := 0, again := 0, ask := false, stale := 0 }))

/-- PORT_FAILURE: eight retries of one flit have failed, or the link has lost training (R401); or a switch beyond the port reports
that it no longer reaches some packages (R408). -/
def execPortFailure (x : PathLoss) (s : State) : Host.Outcome State Fault Refusal :=
  .next (match x.beyond with
    | some l => losePath s x.port l.contains
    | none => if pst s x.port = 1 ∨ pst s x.port = 2 ∨ pst s x.port = 3 then failPort s x.port else s)

/-- LANE_SHED: the lane errors of a millisecond reach 2^`SHT`: half the width goes, or the last lane fails (R402). -/
def execLaneShed (p : Nat) (s : State) : Host.Outcome State Fault Refusal :=
  let w := wf (portOf s p).reg 16 2
  .next (if pst s p ≠ 2 ∨ wf (portOf s p).reg 20 4 = 0 then s
    else if w ≤ 1 then failPort s p
    else modPort s p (fun q => setPst q 3 (w - 1)))

/-- LINK_RETRAINED: the link resumes at its new width from its link retry buffer, and held traffic is released (R402). -/
def execLinkRetrained (p : Nat) (s : State) : Host.Outcome State Fault Refusal :=
  .next (if pst s p ≠ 3 then s else pump (modPort s p (fun q =>
    ({ setPst q 2 (wf q.reg 16 2) with again := q.retry.length }).resend)))

/-! ### Packets at their destination (R403 to R405, R409) -/

/-- Is a packet malformed (R403)? -/
def malformed (x : BitVec 256) : Bool :=
  let k := wf x 236 4
  k == 0 || decide (8 < k) || decide (wf x 232 3 ≠ 0) || decide (wf x 200 8 ≠ 0) || decide (wf x 128 16 ≠ 0)

/-- An answer to a package: an acknowledgment, read data or a refusal, for a class. -/
def answer (s : State) (pkg kind : Nat) (unord : Bool) (seq addr opd : Nat) (data : Row) : State :=
  let h : PHdr := { dpkg := pkg, spkg := s.pkg.toNat, kind := kind, unord := unord, seq := seq, flt := 1, addr := addr, opd := opd }
  { s with fab := { s.fab with out := s.fab.out ++
    [{ hdr := h.bits, data := data, core := 0, req := none, cmd := none, refd := false, sent := false }] } }

/-- Acknowledge a pair and class (R404): the next expected number, the low bits of the bitmap, and with an atomic its
number and its result (R405), or the number of the packet that met an uncorrectable error (R392). (DESIGN CHOICE, log 14) -/
def ackTo (s : State) (pkg : Nat) (unord : Bool) (res : Option (BitVec 16 × Word)) (bad : Option (BitVec 16)) : State :=
  let w := winOf s pkg unord
  let r := (res.map (fun r => r.2.toNat + r.1.toNat * 2 ^ 64 + 2 ^ 80)).getD 0
  let b := (bad.map (fun n => n.toNat * 2 ^ 96 + 2 ^ 112)).getD 0
  answer s pkg 7 unord w.exp.toNat 0 (w.bits.toNat % 2 ^ 128) (BitVec.ofNat 512 (r + b))

/-- Does an address lie in the source of a migration that switches (R409, R420)? -/
def switching (s : State) (pa : Nat) : Bool := s.hub.migs.any (fun m => m.2.mst == 4 && !(m.2.rowsAt pa).isEmpty)

/-- The chain register that a packet addresses (R345, log 17): context, and the counter or the slot count. -/
def chainTarget (pa : Nat) : Option (Nat × Option Nat) :=
  let o := paOff pa
  let r := o % 0x10000
  if paSpace pa ≠ 3 ∨ o < 0x100000 ∨ 0x200000 ≤ o then none
  else if r = 0x8018 then some ((o - 0x100000) / 0x10000, none)
  else if 0x8400 ≤ r ∧ r < 0x8C00 ∧ r % 8 = 0 then some ((o - 0x100000) / 0x10000, some ((r - 0x8400) / 8))
  else none

/-- The issuer of a remote atomic or collective add, for the order log: context, node, agent, core, side. -/
structure Issuer where
  ctx   : Nat
  node  : Nat
  agent : Nat
  core  : Nat
  side  : Bool
deriving DecidableEq, Repr

/-- The issuer that a packet names (log 14). -/
def issuerOf (h : PHdr) (data : Row) : Issuer :=
  let d := data.toNat
  let core := if h.kind = 3 then fld d 16 10 else fld h.opd 108 10
  let side := h.kind == 3 && d.testBit 8
  { ctx := if h.kind = 3 then fld d 64 4 else fld h.opd 72 4, node := if h.kind = 3 then fld d 32 32 else fld h.opd 76 32
    agent := agentBits (BitVec.ofNat 8 h.spkg) core side, core := core, side := side }

/-- The order log's unit of a packet whose arrival is logged (R355). -/
def logUnit (h : PHdr) (data : Row) : Option (Nat × Nat) :=
  if h.kind = 3 ∧ data.toNat % 256 = 17 then some (1, h.addr / 8 * 8)
  else if h.kind = 6 then some (2, h.addr)
  else none

/-- Does replay hold a packet's arrival (R358)? -/
def pktHeld (s : State) (h : PHdr) (data : Row) : Option State :=
  let i := issuerOf h data
  match logUnit h data with
  | none => none
  | some (k, u) => if mayArrive s i.ctx i.node k u i.agent then none else some (holdArrival s i.ctx i.node k u i.agent)

/-- The write that a packet of an engine carries: its bytes, or compressed gradients (R193). (DESIGN CHOICE, log 14) -/
def pktWrite (h : PHdr) (data : Row) : CpWr :=
  let add := fld h.opd 64 7
  if h.opd.testBit 71 then
    let grp := if fld h.opd 56 2 = 0 then 32 else 64 * fld h.opd 56 2
    let n := fld h.opd 48 8
    { pa := h.addr, data := data, mask := bytesMask n, add := add, grp := grp
      hdrs := (List.range (cdiv n grp)).map (fun g => fld h.opd (24 * g) 24) }
  else { pa := rowBase h.addr, data := data, mask := BitVec.ofNat 64 (h.opd % 2 ^ 64), add := add }

/-- Does a packet meet the error of the row at its home (R392): an atomic, an addition, or a store whose write needs the
row? -/
def pktBad (s : State) (h : PHdr) : Bool :=
  poisoned s h.addr && (h.kind == 3 || h.kind == 6 ||
    (h.kind == 2 && (chainTarget h.addr).isNone && !h.opd.testBit 71 && partMask h.addr (h.opd % 2 ^ 64)))

/-- A row store of a migration brings its row's poison with it (R420). (DEDUCED, log 79) -/
def carriesPoison (h : PHdr) : Bool := h.kind == 1 && h.opd.testBit 64

/-- Perform a packet at its home, once (R404): the state, and the result of an atomic. -/
def performPkt (s : State) (h : PHdr) (data : Row) : State × Option Word :=
  let i := issuerOf h data
  let s0 := match logUnit h data with
    | none => s
    | some (k, u) => choose s i.ctx i.node k u i.agent i.core i.side
  let full : BitVec 64 := BitVec.ofNat 64 (2 ^ 64 - 1)
  match h.kind with
  | 1 =>
    let t := homeWrite s0 { pa := h.addr, data := data, mask := full, add := 0 }
    (if carriesPoison h then poisonRow t h.addr else t, none)
  | 2 => (match chainTarget h.addr with
    | some (c, some n) => (modChain s0 c (fun y => y.raise n (data.toNat % 2 ^ 16) y.cur), none)
    | some (c, none) => (modChain s0 c (fun y => y.addFree (data.toNat % 2 ^ 16) y.cur), none)
    | none => (homeWrite s0 { pktWrite h data with add := 0 }, none))
  | 3 =>
    let x := wordAt s0 h.addr
    let y := atomVal (data.toNat % 256) (decide (fld h.addr 2 1 = 1)) x (BitVec.ofNat 64 (h.opd % 2 ^ 64))
      (BitVec.ofNat 64 (h.opd / 2 ^ 64))
    (atomWrite s0 0 h.addr false y, some x)
  | 6 => (homeWrite s0 (pktWrite h data), none)
  | _ => (s0, none)

/-- Advance the base of an unordered window over the contiguous set bits (R404). -/
def slideWin : Nat → Win → Win
  | 0, w => w
  | n + 1, w => if w.bits.getLsbD 0 then slideWin n { w with exp := w.exp + 1, bits := w.bits >>> 1 } else w

/-- Read data for a package: the row, and whether it is poisoned (R392, R403). -/
def readFor (s : State) (h : PHdr) : State :=
  answer (meetError s h.addr) h.spkg 5 h.unord h.seq h.addr (poisoned s h.addr).toNat (rowAt s h.addr)

/-- The address in its destination of what a migration slot moves from an address. -/
def heldTo (x : Mig) (moved : Bool) (pa : Nat) : Nat :=
  if !moved then pa
  else match offIn x.src0 x.size pa, offIn x.src1 x.size pa with
    | some o, _ => x.mds0.toNat + o
    | none, some o => if x.pair then x.mds1.toNat + o else pa
    | none, none => pa

/-- A write to a region that a migration switches is refused; where it is to be performed after the switch is noted (R409, R420).
(DEDUCED, log 79) -/
def refuseWrite (s : State) (h : PHdr) : State :=
  let seq : BitVec 16 := BitVec.ofNat 16 h.seq
  let goal := match s.hub.migs.find? (fun m => m.2.mst == 4 && !(m.2.rowsAt h.addr).isEmpty) with
    | some m => heldTo m.2 true h.addr
    | none => h.addr
  answer (modWin s h.spkg h.unord (fun w => { w with refs := w.refs.filter (fun r => r.1 != seq) ++ [(seq, goal)] }))
    h.spkg 8 h.unord h.seq h.addr 0 0

/-- Where a packet that was refused is to be performed, if it was (R420). -/
def refGoal (s : State) (h : PHdr) : Option Nat :=
  ((winOf s h.spkg h.unord).refs.find? (fun r => r.1 == BitVec.ofNat 16 h.seq)).map (·.2)

/-- The header of a packet as it is performed: one that was refused meets the destination of the migration in this package
(R420). -/
def goalHdr (s : State) (h : PHdr) : PHdr := match refGoal s h with
  | some a => if paPkg a = s.pkg.toNat then { h with addr := a } else h
  | none => h

/-- A packet is performed (R404, R420); where the destination of the migration that refused it lies in another package, the row
follows it there once it has been performed here. (DEDUCED, log 79) -/
def redirected (s : State) (h : PHdr) (data : Row) : State × Option Word :=
  let t := performPkt s (goalHdr s h) data
  match refGoal s h with
  | some a => if paPkg a = s.pkg.toNat then t else (sendRow t.1 4 (rowBase h.addr) (rowBase a), t.2)
  | none => t

/-- The newest result of each of the last 1,024 atomics, by number (R405). -/
def cacheResult (l : List (BitVec 16 × Word)) (seq : BitVec 16) (v : Word) : List (BitVec 16 × Word) :=
  let k := l.filter (fun x => x.1 != seq) ++ [(seq, v)]
  k.drop (k.length - 1024)

/-- Perform a packet that its window admits, note it in the window, and answer. -/
def admitPkt (s : State) (h : PHdr) (data : Row) : State :=
  let seq : BitVec 16 := BitVec.ofNat 16 h.seq
  if (h.kind == 1 || h.kind == 2 || h.kind == 3 || h.kind == 6) && switching s h.addr then refuseWrite s h
  else match pktHeld s h data with
    | some t => t
    | none =>
      let bad := pktBad s (goalHdr s h)
      let r := if bad && h.kind != 2 then (meetError s (goalHdr s h).addr, none) else redirected s h data
      let s1 := modWin r.1 h.spkg h.unord (fun w =>
        let w1 := if h.unord then slideWin 1024 { w with bits := setFld w.bits (seq - w.exp).toNat 1 1 }
          else { w with exp := w.exp + 1 }
        let errs := w1.errs.filter (· != seq) ++ (if bad then [seq] else [])
        let w2 := { w1 with errs := errs.drop (errs.length - 1024), refs := w1.refs.filter (fun x => x.1 != seq) }
        match r.2 with
        | some v => { w2 with cache := cacheResult w2.cache seq v }
        | none => w2)
      let s2 := ackTo s1 h.spkg h.unord (r.2.map (fun v => (seq, v))) (if bad then some seq else none)
      if h.kind = 4 then readFor s2 h else s2

/-- A duplicate (R404, R405): acknowledged again, an atomic with its cached result, a read with its data.
(DEDUCED, log 76) -/
def dupPkt (s : State) (h : PHdr) : State :=
  let seq : BitVec 16 := BitVec.ofNat 16 h.seq
  let w := winOf s h.spkg h.unord
  let s1 := ackTo s h.spkg h.unord (w.cache.find? (fun x => h.kind == 3 && x.1 == seq)) (w.errs.find? (· == seq))
  if h.kind = 4 then readFor s1 h else s1

/-- Ask for the ordered packets of a package from the next expected number on (R404). (DESIGN CHOICE, log 14) -/
def askFrom (s : State) (pkg : Nat) : State := answer s pkg 7 false (winOf s pkg false).exp.toNat 0 1 0

/-- A packet with a sequence number meets its window (R404). -/
def windowPkt (s : State) (h : PHdr) (data : Row) : State :=
  let w := winOf s h.spkg h.unord
  let d := (BitVec.ofNat 16 h.seq - w.exp).toNat
  if 2 ^ 15 ≤ d then dupPkt s h
  else if h.unord then
    (if 1024 ≤ d then s else if w.bits.getLsbD d then dupPkt s h else admitPkt s h data)
  else if d = 0 then admitPkt s h data
  else askFrom s h.spkg

/-! ### Answers at their source (R404, R405, R409) -/

/-- The number that stands for the dispatcher as the sender of a packet (R394, log 20). -/
def dispatcherId : Nat := 1024

/-- The result of an undo in another package reaches the dispatcher (R394): the packet names context and node.
(DESIGN CHOICE, log 20) -/
def undoBack (s : State) (x : Pkt) (res : Option Word) : State :=
  let c := x.cmd.getD 0
  if x.core = dispatcherId then modNode s (c / 2 ^ 32) (c % 2 ^ 32) (fun n => { n with back := n.back.map (fun _ => some (res.getD 0)) })
  else s

/-- A destination has returned an error for a packet of a copy command: a step of a `coll` fails (R410), another command writes
nothing further and its stream traps (R392, reader class 3). (DEDUCED, log 76) -/
def stepError (s : State) (x : Pkt) : State :=
  if dispatcherId ≤ x.core then s
  else match (archOf s x.core).cp.find? (fun y => x.cmd == some y.num) with
    | none => s
    | some y =>
      let set := fun (s : State) (g : CpCmd → CpCmd) =>
        modArch s x.core (fun a => { a with cp := a.cp.map (fun z => if z.num = y.num then g z else z) })
      if y.opc = 6 then set s (fun z => { z with err := true })
      else if y.phase = 3 then s
      else notePend (set s (fun z => { z with phase := 3 })) { core := x.core, side := false } 18 y.slot.toNat 3 y.pc
        (BitVec.ofNat 64 (rowBase (pHdr x.hdr).addr))

/-- Complete the request that a freed packet carried: a store is performed, an atomic returns its result and enters its
node's undo log (R394); one that met an uncorrectable error is consumed here (R392). (DEDUCED, log 93) -/
def ackReq (s : State) (x : Pkt) (res : Option Word) (bad : Bool) : State :=
  match x.req with
  | none => undoBack (if bad then stepError s x else s) x res
  | some id =>
    match (archOf s x.core).reqs.find? (fun r => r.id == id) with
    | none => s
    | some r => match r.op with
      | .load => s
      | .store => dropReq (if bad then notePend s (reqSid x.core r) 18 r.slot.toNat 2 r.pc (BitVec.ofNat 64 (rowBase r.pa)) else s) x.core id
      | .atom opc =>
        if bad then atomBad s x.core r else
        let v := res.getD 0
        let y := atomVal opc.toNat (decide (fld r.pa 2 1 = 1)) v (r.data.setWidth 64) r.cmp
        noteUndo (dropReq (returnData s x.core id (v.setWidth 512) none) x.core id) r opc v y

/-- An acknowledgment frees the packets it covers (R404, R405): an atomic only with its result, a read only with its
data. A retransmission request sends the others of its pair again. -/
def freePkts (s : State) (h : PHdr) (data : Row) : State :=
  let n : BitVec 16 := BitVec.ofNat 16 h.seq
  let res : Option (Nat × Word) := if data.getLsbD 80 then some (wf data 64 16, data.setWidth 64) else none
  let bad : Option Nat := if data.getLsbD 112 then some (wf data 96 16) else none
  let freed := fun (x : Pkt) =>
    let y := pHdr x.hdr
    let d := (BitVec.ofNat 16 y.seq - n).toNat
    let seen := decide (2 ^ 15 ≤ d) || (y.unord && decide (d < 128) && h.opd.testBit d)
    y.dpkg == h.spkg && y.unord == h.unord && x.gone &&
      (if y.kind = 3 then (res.map (·.1)) == some y.seq || bad == some y.seq else seen && y.kind != 4)
  let l := s.fab.retry.filter freed
  let again := fun (x : Pkt) =>
    if !h.unord && h.opd.testBit 0 && (pHdr x.hdr).dpkg == h.spkg && !(pHdr x.hdr).unord then { x with sent := false } else x
  let s1 := { s with fab := { s.fab with retry := (s.fab.retry.filter (fun x => !freed x)).map again } }
  pump (l.foldl (fun s x => ackReq s x (res.map (·.2)) (bad == some (pHdr x.hdr).seq)) s1)

/-- Read data reaches the loads and the copy commands that asked for its row (R403). (DEDUCED, log 59) -/
def readBack (s : State) (h : PHdr) (data : Row) : State :=
  let asks := fun (x : Pkt) =>
    let y := pHdr x.hdr
    y.kind == 4 && y.dpkg == h.spkg && y.addr == h.addr && y.unord == h.unord && x.gone
  let bad := if h.opd.testBit 0 then some (rowBase h.addr) else none
  let fill := fun (s : State) (x : Pkt) => match x.req with
    | none => s
    | some id => match (archOf s x.core).reqs.find? (fun r => r.id == id) with
      | none => s
      | some r =>
        let d := if r.len = 64 then data else data >>> (8 * (r.pa % 64 / 8 * 8)) &&& BitVec.ofNat 512 (2 ^ 64 - 1)
        dropReq (returnData s x.core id d bad) x.core id
  let take := fun (c : Nat × Core) =>
    let put := fun (x : CpCmd) => if x.asked.contains (rowBase h.addr) && !x.got.any (fun g => g.1 == rowBase h.addr) then
      { x with got := x.got ++ [(rowBase h.addr, data)], bads := x.bads ++ bad.toList } else x
    (c.1, { c.2 with arch := { c.2.arch with cp := c.2.arch.cp.map put } })
  let l := s.fab.retry.filter asks
  let s1 := { s with fab := { s.fab with retry := s.fab.retry.filter (fun x => !asks x) } }
  let s2 := l.foldl fill s1
  pump { s2 with cores := s2.cores.map take }

/-- A refused packet is held, and the later ordered ones of its pair follow it again (R409). -/
def refusePkt (s : State) (h : PHdr) : State :=
  { s with fab := { s.fab with retry := s.fab.retry.map (fun x =>
      let y := pHdr x.hdr
      if y.dpkg ≠ h.spkg ∨ y.unord ≠ h.unord then x
      else if y.seq = h.seq then { x with refd := true, sent := false }
      else if !y.unord && decide ((BitVec.ofNat 16 y.seq - BitVec.ofNat 16 h.seq).toNat < 2 ^ 15) then { x with sent := false }
      else x) } }

/-- An answer from another package (R404, R409). -/
def answerIn (s : State) (h : PHdr) (data : Row) : State :=
  match h.kind with
  | 5 => readBack s h data
  | 7 => freePkts s h data
  | 8 => refusePkt s h
  | _ => s

/-- A packet reaches the package (R403, R404): a malformed one is discarded and logged. -/
def receivePkt (s : State) (hdr : BitVec 256) (data : Row) : State :=
  let h := pHdr hdr
  if h.dpkg ≠ s.pkg.toNat then s
  else if malformed hdr then
    logPkg s { kind := 21, trap := 0, sev := 0, out := 0, core := 0, side := false, node := 0, addr := 0
               aux := h.spkg + h.kind * 256 + (if h.kind = 0 ∨ 8 < h.kind then 0 else 4096) }
  else if h.kind = 5 ∨ 7 ≤ h.kind then answerIn s h data
  else pump (windowPkt s h data)

/-- Does a packet address storage that does not exist (R289, R290)? -/
def pktLost (s : State) (hdr : BitVec 256) : Bool :=
  let h := pHdr hdr
  decide (h.dpkg = s.pkg.toNat) && !malformed hdr && decide (h.kind ≠ 5) && decide (h.kind < 7) &&
    (chainTarget h.addr).isNone && !storageOk s h.addr

/-- PACKET_RECEIVE: a packet at its destination (R404). (DEDUCED, log 92) -/
def execPacketReceive (hdr : BitVec 256) (data : Row) (s : State) : Host.Outcome State Fault Refusal :=
  if pktLost s hdr then .fault (.noStorage (pHdr hdr).addr) else .next (receivePkt s hdr data)

/-- ACK_RECEIVE: an acknowledgment, read data or a refusal at the source (R404), or a malformed packet, which is logged (R403). -/
def execAckReceive (hdr : BitVec 256) (data : Row) (s : State) : Host.Outcome State Fault Refusal :=
  let h := pHdr hdr
  .next (if malformed hdr ∨ h.kind = 5 ∨ 7 ≤ h.kind then receivePkt s hdr data else s)

/-! ### Flits (R401) -/

/-- Apply the acknowledgment and the credits of a link header. A type-3 flit that acknowledges nothing new while
flits are outstanding asks for their retransmission, in order; one that a flit of the pass before the last request raises asks for
nothing more, and when the eighth retry has failed the port fails. (DEDUCED, log 76) -/
def linkBack (s : State) (p : Nat) (link : Nat) : State :=
  let q := portOf s p
  let ack := fld link 16 12
  let kept := if link.testBit 28 then
      q.retry.filter (fun x => decide ((BitVec.ofNat 12 ack - x.1).toNat ≥ 2048)) else q.retry
  let crd := fld link 29 8
  let again := fld link 12 4 == 3 && link.testBit 28 && !q.retry.isEmpty && kept.length == q.retry.length &&
    !(decide (0 < q.stale) && decide (crd ≤ q.stale))
  let lrty := wf q.reg 32 16
  let n := if again then q.fails + 1 else if kept.length < q.retry.length then 0 else q.fails
  let q1 := Port.resend { q with
    retry := kept, credit := q.credit + crd, fails := n
    stale := if again then kept.length - q.again - 1 else q.stale - crd
    again := if again then kept.length else min q.again kept.length
    reg := if again && decide (lrty < 65535) then setFld q.reg 32 16 (lrty + 1) else q.reg }
  let s1 := modPort s p (fun _ => q1)
  if 9 ≤ q1.fails then failPort s1 p else s1

/-- The packet that the flits received make up, once they are all there (R403). (DEDUCED, log 76) -/
def assembled (l : List (BitVec 2048)) : Option (BitVec 256 × Row) :=
  match l with
  | [] => none
  | x :: _ =>
    let hdr : BitVec 256 := x.extractLsb' 64 256
    if (pHdr hdr).flt = l.length then some (hdr, x.extractLsb' 320 512) else none

/-- A flit with a good CRC and the expected link sequence (R401). -/
def takeFlit (s : State) (p : Nat) (flit : BitVec 2048) : State :=
  let ty := wf flit 12 4
  modPort s p (fun q => { q with rxseq := q.rxseq + 1, owed := q.owed + 1, ask := false, asm := if ty = 1 then [flit] else q.asm ++ [flit] })

/-- A discarded flit returns its credit, and asks for retransmission from the expected link sequence: always on a bad CRC, once
for what comes out of sequence behind it (R401). (DEDUCED, log 76) -/
def dropFlit (s : State) (p : Nat) (bad : Bool) : State :=
  noteBack (modPort s p (fun q => { q with owed := q.owed + 1, ask := true })) p (bad || !(portOf s p).ask)

/-- FLIT_RECEIVE: a flit on a port (R401): with a bad CRC, or out of sequence, it is discarded and its retransmission
requested; a packet that it completes is received; the link's acknowledgment goes back. -/
def execFlitReceive (p : Nat) (flit : BitVec 2048) (s : State) : Host.Outcome State Fault Refusal :=
  if pst s p ≠ 2 then .next s
  else if (flitCrc (flit.toNat % 2 ^ 1984)).toNat ≠ wf flit 1984 64 then .next (dropFlit s p true)
  else
    let ty := wf flit 12 4
    if (ty = 1 ∨ ty = 2) ∧ wf flit 0 12 ≠ (portOf s p).rxseq.toNat then .next (dropFlit s p false)
    else
    let s1 := linkBack s p (wf flit 0 64)
    if ty = 0 ∨ 3 ≤ ty ∨ pst s1 p ≠ 2 then .next (pump s1)
    else
      let s2 := takeFlit s1 p flit
      match assembled (portOf s2 p).asm with
      | none => .next (noteBack (pump s2) p true)
      | some (hdr, data) =>
        let s3 := modPort s2 p (fun q => { q with asm := [] })
        if pktLost s3 hdr then .fault (.noStorage (pHdr hdr).addr) else .next (noteBack (pump (receivePkt s3 hdr data)) p true)

/-! ### Timers and routes (R404, R407 to R411) -/

/-- RETRANSMIT_TIMEOUT: the source sends again from its oldest unacknowledged packet of a pair and class (R404).
(DESIGN CHOICE, log 10) -/
def execRetransmitTimeout (pkg : Nat) (unordered : Bool) (s : State) : Host.Outcome State Fault Refusal :=
  .next (pump { s with fab := { s.fab with retry := s.fab.retry.map (fun x =>
    if (pHdr x.hdr).dpkg = pkg ∧ (pHdr x.hdr).unord = unordered then { x with sent := false, lost := false } else x) } })

/-- ROUTE_INSTALL: the fabric manager installs the route to a package (R407), and what a failed path lost on the way there is
replayed over it (R408). -/
def execRouteInstall (pkg : Nat) (rt : Word) (s : State) : Host.Outcome State Fault Refusal :=
  .next (if 256 ≤ pkg ∨ !s.hub.rdy.getLsbD 3 then s
    else pump (replayLost { s with fab := { s.fab with rt := tput s.fab.rt pkg (rt &&& 0x80000000BFBFBFBF) } } (· == pkg)))

/-- REFUSAL_REPLAY: refused packets of a pair and class are replayed (R409). -/
def execRefusalReplay (pkg : Nat) (unordered : Bool) (s : State) : Host.Outcome State Fault Refusal :=
  .next (pump { s with fab := { s.fab with retry := s.fab.retry.map (fun x =>
    if (pHdr x.hdr).dpkg = pkg ∧ (pHdr x.hdr).unord = unordered then { x with refd := false } else x) } })

/-- The packets of the first copy command of a core, changed. -/
def modCmdPkts (s : State) (core num : Nat) (g : Pkt → Pkt) : State :=
  { s with fab := { s.fab with retry := s.fab.retry.map (fun x => if x.core = core ∧ x.cmd = some num then g x else x) } }

/-- `FSTO`, in hub ticks (R410). -/
def fsto (s : State) : Nat := wf s.hub.fcfg 32 32

/-- Has the step of a `coll` failed: a destination has returned an error, or a packet of it has stood unacknowledged for `FSTO`
ticks (R410)? -/
def stepFailed (s : State) (core : Nat) (x : CpCmd) : Bool :=
  x.err || s.fab.retry.any (fun y => y.core == core && y.cmd == some x.num && decide (y.tick + fsto s ≤ s.hub.htck.toNat))

/-- COLL_STEP_FAILURE: the step of a core's `coll` has failed (R192, R410): it is retried, or the command ends with
status 0x5 and its packets stay. -/
def execCollStepFailure (core : Nat) (s : State) : Host.Outcome State Fault Refusal :=
  .next (match (archOf s core).cp with
    | [] => s
    | x :: _ =>
      if x.opc ≠ 6 ∨ x.phase ≠ 1 ∨ !stepFailed s core x then s
      else if x.tries < wf (x.word 8) 32 4 then
        pump (modCmdPkts (modHead s core (fun x => { x with tries := x.tries + 1 })) core x.num
          (fun y => { y with sent := false, tick := s.hub.htck.toNat }))
      else modCmdPkts (modHead s core (fun x => { x with phase := 2, sts := 5 })) core x.num (fun y => { y with cmd := none }))

/-- Has an end of a command that has not begun stood behind a decoder without a port for `FSTO` ticks since its acceptance (R411)? -/
def cpTierLost (s : State) (core : Nat) (x : CpCmd) : Bool :=
  (cpReadPas s core x ++ (cpOut s core x).l.map (·.pa)).any (fun pa => match tierLost s pa with
    | none => false
    | some t => decide (max x.tick t + fsto s ≤ s.hub.htck.toNat))

/-- SECOND_TIER_NO_ROUTE: the second-tier end of a core's first copy command has stood without a port for `FSTO` ticks, from the
command's acceptance or the loss of the last port on: the command ends with status 0x7 (R411). (DEDUCED, log 77) -/
def execSecondTierNoRoute (core : Nat) (s : State) : Host.Outcome State Fault Refusal :=
  .next (match (archOf s core).cp with
    | [] => s
    | x :: _ => if x.phase = 0 ∧ cpTierLost s core x then cpFinish (modHead s core (fun x => { x with phase := 2, sts := 7 })) core else s)

/-! ### The second tier (R413) -/

/-- The code of kind 0x16 for what a port trained as (R398). -/
def tierCode : TierDevice → Option Nat
  | .supported => none
  | .notFlit256 => some 0
  | .cxlCache => some 1
  | .typeOneOrTwo => some 2
  | .other => some 3

/-- Has a valid decoder no port that has trained (R411)? -/
def noPort (s : State) (d : Word × Word) : Bool := (tdecPorts d).all (fun t => !tierTrained s t)

/-- Note the hub tick for the decoders that have no port up and had one in `s` (R411). (DEDUCED, log 77) -/
def noteDown (s t : State) : State :=
  { t with fab := { t.fab with down := t.fab.tdec.foldl (fun l d =>
      if noPort t d.2 && !(s.fab.tdec.any (fun e => e == d) && noPort s d.2) then tput l d.1 s.hub.htck.toNat else l) t.fab.down } }

/-- SECOND_TIER_PORT_TRAIN: port T`t` trains and is ready, or stays disabled (R413, R432); without a valid configuration record no
function becomes ready (R435). -/
def execSecondTierPortTrain (t : Nat) (found : TierDevice) (s : State) : Host.Outcome State Fault Refusal :=
  let put := fun (b : Nat) => noteDown s { s with hub := { s.hub with rdy := setFld s.hub.rdy (32 + t) 1 b } }
  .next (if 8 ≤ t ∨ s.can.norec then s
    else match tierCode found with
      | none => put 1
      | some c => logPkg (put 0) { kind := 22, trap := 0, sev := 0, out := 0, core := 0, side := false, aux := t + c * 16, node := 0, addr := 0 })

/-- May a decoder hold a value (R413): its ports are as many as its ways, and it overlaps no other? (DEDUCED, log 77) -/
def tdecOk (s : State) (d : Nat) (w0 w1 : Word) : Bool :=
  let a := wf w0 0 17
  let n := wf w1 0 17
  decide (wf w1 20 4 ≤ 3) && decide ((tdecPorts (w0, w1)).length = 2 ^ wf w1 20 4) &&
    (!w0.getLsbD 63 || !s.fab.tdec.any (fun x => x.1 != d && x.2.1.getLsbD 63 &&
      decide (a < wf x.2.1 0 17 + wf x.2.2 0 17) && decide (wf x.2.1 0 17 < a + n)))

/-- TDEC_WRITE: a write to a second-tier decoder (R413). (DEDUCED, log 77) -/
def execTdecWrite (d : Nat) (w0 w1 : Word) (s : State) : Host.Outcome State Fault Refusal :=
  .next (if 16 ≤ d ∨ !tdecOk s d w0 w1 then s
    else noteDown s { s with fab := { s.fab with tdec := tput s.fab.tdec d (w0 &&& 0x800000000001FFFF, w1 &&& 0xFFF1FFFF) } })

end Sys2Proof.Machine
end

