-- ==== Sys2Proof/Machine/HostMem.lean ====
section
/-!
DEFINITION. Host requests to device memory (R325, R376, R391, R392, R421): what they reach, what they do at their home,
and the completions they return.
-/
namespace Sys2Proof.Machine

/-! ### Writes of bytes -/

/-- Is a byte in a field of a shadow record that the host may only read (R418)? The records of a free context are the
driver's to fill in. (DEDUCED, log 87) -/
def shadowRO (s : State) (pa : Nat) : Bool :=
  s.hub.ctxs.any (fun c => c.2.state != 0 && match offIn c.2.shtb.toNat (32 * c.2.shtn.toNat) pa with
    | some o => decide (4 ≤ o % 32)
    | none => false)

/-- The part of a host write that falls into one row: its bytes in place, and their mask. -/
def hostPart (s : State) (pa : Nat) (l : List Byte) (row : Nat) : Row × BitVec 64 :=
  let at_ := fun (j : Nat) => if pa ≤ row + j ∧ shadowRO s (row + j) = false then l[row + j - pa]? else none
  (BitVec.ofNat 512 (joinN 8 ((List.range 64).map (fun j => ((at_ j).getD 0).toNat))),
   BitVec.ofNat 64 (joinN 1 ((List.range 64).map (fun j => (at_ j).isSome.toNat))))

/-- The part of a host write that falls into one row is written there: a whole row clears the poison mark, part of one meets its
error, which is recorded (R391, R398). -/
def putPart (s : State) (row : Nat) (p : Row × BitVec 64) : State :=
  if p.2 = BitVec.ofNat 64 (2 ^ 64 - 1) then writeRow s row p.1
  else writePart (if p.2 = 0 then s else noteFound s row p.2.toNat) row p.1 p.2

/-- Write bytes from an address as the host does, row by row, each at the row that `g` gives for it (R325, R376, R420). -/
def hostBytesAt (s : State) (g : Nat → Nat) (pa : Nat) (l : List Byte) : State :=
  (List.range (cdiv (pa % 64 + l.length) 64)).foldl (fun s i =>
    let row := rowBase pa + 64 * i
    putPart s (g row) (hostPart s pa l row)) s

/-- The same at the rows that the request names. -/
def hostBytes (s : State) (pa : Nat) (l : List Byte) : State := hostBytesAt s id pa l

/-! ### Accesses (R376) -/

/-- The device address of a host access (R290, R376). -/
def hostPa (s : State) (a : HostAccess) : Nat :=
  match a.region with
  | .sram => s.pkg.toNat * 2 ^ 48 + a.off
  | _ => s.pkg.toNat * 2 ^ 48 + 2 ^ 46 + 2 ^ 45 + a.off

/-- The bytes that a host access reaches. -/
def hostSpan (a : HostAccess) : Nat := if a.write then a.data.length else a.len

/-- The rows that a host access reaches. -/
def hostRows (s : State) (a : HostAccess) : List Nat :=
  (List.range (cdiv (a.off % 64 + hostSpan a) 64)).map (fun i => rowBase (hostPa s a) + 64 * i)

/-- Does a host access name storage: inside its HDM range, existing, and not retired (R289, R376, R420)?
(DEDUCED, log 91) -/
def hostOk (s : State) (a : HostAccess) : Bool :=
  let lim := if a.region = .sram then 2 ^ 32 else 768 * 2 ^ 30
  decide (a.off + hostSpan a ≤ lim) && (hostRows s a).all (fun pa => storageOk s pa && !retired s pa)

/-- The byte of a running migration's dirty bitmap that stands at an address (R419): bit r mod 8 of byte r div 8 for row r, those of
side 1 after those of side 0. (DEDUCED, log 79) -/
def bitmapByte (s : State) (pa : Nat) : Option Byte :=
  match offIn s.hub.marea.toNat (2 ^ 25) pa with
  | none => none
  | some o =>
    let x := tget Mig.idle s.hub.migs (o / 2 ^ 23)
    if x.mst = 0 ∨ 4 < x.mst then none
    else some (BitVec.ofNat 8 (joinN 1 ((List.range 8).map (fun i => (x.dirty.contains (8 * (o % 2 ^ 23) + i)).toNat))))

/-- A byte as the host reads it. -/
def hostByte (s : State) (pa : Nat) : Byte := (bitmapByte s pa).getD (BitVec.ofNat 8 (readN s.mem (canon pa) 1))

/-- The bytes from an address, each in the row that `g` gives for its row. -/
def bytesAtRows (s : State) (g : Nat → Nat) (pa n : Nat) : List Byte :=
  (List.range n).map (fun i => hostByte s (g (rowBase (pa + i)) + (pa + i) % 64))

/-- The bytes from an address. -/
def bytesAt (s : State) (pa n : Nat) : List Byte := bytesAtRows s id pa n

/-- The rows that `n` bytes from an address reach. -/
def spanRows (pa n : Nat) : List Nat := (List.range (cdiv (pa % 64 + n) 64)).map (fun i => rowBase pa + 64 * i)

/-- The host read of `n` bytes, each row where `g` says: an error found in a row poisons it and is recorded, and the data carries
CXL poison (R391, R392, R398). -/
def hostReadAt (s : State) (g : Nat → Nat) (pa n : Nat) : State × Reply :=
  let l := (spanRows pa n).map g
  (l.foldl (fun s r => noteFound s r 0) s, .data (bytesAtRows s g pa n) (l.any (poisoned s)))

/-- The same at the rows that the request names. -/
def hostRead (s : State) (pa n : Nat) : State × Reply := hostReadAt s id pa n

/-- Add a completion. -/
def reply (s : State) (r : Reply) : State := { s with replies := s.replies ++ [r] }

/-! ### AtomicOps (R325, R421) -/

/-- The number of an AtomicOp, to which its CXL opcode is applied. -/
def hostOpNum : HostOp → Nat
  | .fetchAdd => 0
  | .swap => 1
  | .cas => 2

/-- May an AtomicOp be performed: 32 or 64 bits, aligned, on a granule of the system-atomic map (R325, R421)?
(DEDUCED, log 91) -/
def hostAtomicOk (s : State) (a : HostAtomic) : Bool :=
  (a.size == 32 || a.size == 64) && decide (a.pa % (a.size / 8) = 0) && decide (paPkg a.pa = s.pkg.toNat) && storageOk s a.pa &&
    !retired s a.pa && s.hub.samap.contains (ilv a.pa / 65536)

/-- The new value of the half or whole word that an AtomicOp acts on. -/
def hostOpVal (a : HostAtomic) (x : Nat) : Nat :=
  match a.op with
  | .fetchAdd => (x + a.a.toNat) % 2 ^ a.size
  | .swap => a.a.toNat % 2 ^ a.size
  | .cas => if x = a.a.toNat % 2 ^ a.size then a.b.toNat % 2 ^ a.size else x

/-- An AtomicOp at the home unit of its word: the old value is returned; on an error nothing is performed and the old value
carries poison; bytes that the host may only read stay (R325, R392, R418). (DEDUCED, log 68) -/
def performHostAtomic (s : State) (a : HostAtomic) (pa : Nat) : State :=
  let w := wordAt s pa
  let lo := pa % 8 * 8
  let new := setFld w lo a.size (hostOpVal a (wf w lo a.size))
  let kept := BitVec.ofNat 64 (joinN 8 ((List.range 8).map (fun i => if shadowRO s (pa / 8 * 8 + i) then fld w.toNat (8 * i) 8
                                                                  else fld new.toNat (8 * i) 8)))
  let old := .data (bytesAt s pa (a.size / 8)) (poisoned s pa)
  reply (if poisoned s pa then noteFound s pa 0 else atomWrite s 0 pa false kept) old

/-! ### Requests in order (R325) -/

/-- The address of a request. -/
def reqPa (s : State) : HostReq → Nat
  | .access a => hostPa s a
  | .atomic a => a.pa

/-- The 64-byte lines of a request. -/
def reqLines (s : State) : HostReq → List Nat
  | .access a => (hostRows s a).map ilv
  | .atomic a => [rowBase (ilv a.pa)]

/-- A request that was held is performed with each of its rows where `g` says (R420). (DEDUCED, log 79) -/
def performHeld (s : State) (q : HostReq) (g : Nat → Nat) : State :=
  match q with
  | .access a =>
    let pa := hostPa s a
    if a.write then reply (hostBytesAt s g pa a.data) .done else let r := hostReadAt s g pa a.len; reply r.1 r.2
  | .atomic a => performHostAtomic s a (g (rowBase a.pa) + a.pa % 64)

/-- A request is performed at an address, and its completion returned (R325, R376). (DEDUCED, log 68) -/
def performHost (s : State) (q : HostReq) (pa : Nat) : State :=
  match q with
  | .access a => if a.write then reply (hostBytes s pa a.data) .done else let r := hostRead s pa a.len; reply r.1 r.2
  | .atomic a => performHostAtomic s a pa

/-- The migration slot at whose port a request is held: a write to a source that is being switched (R420), or a request to a
line on which an earlier one is held (R325). -/
def heldBy (s : State) (q : HostReq) : Option Nat :=
  let write := match q with
    | .access a => if a.write then reqLines s q else []
    | .atomic _ => []
  ((s.hub.migs.find? (fun m => m.2.held.any (fun h => (reqLines s h).any ((reqLines s q).contains ·)) ||
    (m.2.mst == 4 && write.any (fun pa => !(m.2.rowsAt pa).isEmpty)))).map (·.1))

end Sys2Proof.Machine
end

