-- ==== Sys2Proof/Machine/Migration.lean ====
section
/-!
DEFINITION. Migration slots (R419, R420): the start and its checks, the phases, the switch, failure and reset.
-/
namespace Sys2Proof.Machine

/-- A migration slot. -/
def migOf (s : State) (m : Nat) : Mig := tget Mig.idle s.hub.migs m
/-- Change it. -/
def modMig (s : State) (m : Nat) (g : Mig → Mig) : State :=
  { s with hub := { s.hub with migs := tput s.hub.migs m (g (migOf s m)) } }

/-- The ranges that a running slot uses. -/
def Mig.spans (x : Mig) : List Nat := [x.mds0.toNat, x.src0] ++ (if x.pair then [x.mds1.toNat, x.src1] else [])

/-- Is a slot running? -/
def Mig.runs (x : Mig) : Bool := decide (1 ≤ x.mst) && decide (x.mst ≤ 4)

/-- Does an address name storage of its package (R289, R290)? Which second tier another package has is its own matter. -/
def namesStorage (s : State) (a : Nat) : Bool := match paSpace a with
  | 0 => sramOk (paOff a)
  | 1 => hbmOk (paOff a)
  | 2 => storageOk s a
  | _ => false

/-- A range names storage, by its ends, none of it retired (R289, R290, R419, R420). (DEDUCED, log 79) -/
def spanOk (s : State) (a n : Nat) : Bool :=
  decide (a % n = 0) && namesStorage s a && namesStorage s (a + n - 64) && !meetsRetired s a n

/-- The cause for which a start is discarded (R419), 0 for none. (DEDUCED, log 79) -/
def migCause (s : State) (m : Nat) (x : Mig) : Nat :=
  let c := ctxOf s x.mctx.toNat
  if c.state ≠ 1 then 1
  else match regionEntry c x.mreg.toNat with
    | none => 4
    | some e =>
      let n := 2 ^ e.lsz
      let dst := [x.mds0.toNat] ++ (if e.shp then [x.mds1.toNat] else [])
      let src := [wf e.w1 0 56] ++ (if e.shp then [wf e.w2 0 56] else [])
      let others := (s.hub.migs.filter (fun y => y.1 != m && y.2.runs)).flatMap (fun y => y.2.spans.map (fun a => (a, y.2.size)))
      if e.mj || src.any (fun a => decide (paSpace a = 2)) ||
          s.hub.migs.any (fun y => y.2.runs && y.2.mctx == x.mctx && y.2.mreg == x.mreg) then 2
      else if (if e.shp then 31 else 32) < e.lsz then 3
      else if dst.any (fun d => !spanOk s d n || src.any (fun a => regionsMeet d n a n) ||
          others.any (fun o => regionsMeet d n o.1 o.2)) || (e.shp && regionsMeet x.mds0.toNat n x.mds1.toNat n) then 4
      else 0

/-- Write `SMIG` of a region's shadow record (R418). -/
def setSmig (s : State) (ctx reg : Nat) (b : Bool) : State :=
  let x := ctxOf s ctx
  if reg < x.shtn.toNat then
    let a := x.shtb.toNat + 32 * reg + 4
    let v := readN s.mem (canon a) 1
    writeRec s a 1 (v / 32 * 32 + b.toNat * 16 + v % 16)
  else s

/-- MIGRATION_START: `MGO` = 1 (R419). (DEDUCED, log 79) -/
def execMigrationStart (m : Nat) (s : State) : Host.Outcome State Fault Refusal :=
  let x := migOf s m
  .next (if 4 ≤ m ∨ x.mst ≠ 0 then s
    else
      let c := migCause s m x
      if c ≠ 0 then logPkg s { kind := 23, trap := 0, sev := 0, out := 0, core := 0, side := false, aux := m + 16 * c, node := 0, addr := 0 }
      else match regionEntry (ctxOf s x.mctx.toNat) x.mreg.toNat with
        | none => s
        | some e => setSmig (modMig s m (fun x => { x with
            mst := 1, mpass := 0, dirty := [], held := [], src0 := wf e.w1 0 56, src1 := wf e.w2 0 56, size := 2 ^ e.lsz
            pair := e.shp })) x.mctx.toNat x.mreg.toNat true)

/-- MIGRATION_RESET: `MGO` = 0 in state 5 or 6 (R419). -/
def execMigrationReset (m : Nat) (s : State) : Host.Outcome State Fault Refusal :=
  .next (if (migOf s m).mst = 5 ∨ (migOf s m).mst = 6 then
    modMig s m (fun x => { x with mst := 0, mpass := 0, dirty := [] }) else s)

/-- The source and destination address of a row of a migration; rows of side 1 count on. -/
def Mig.rowPair (x : Mig) (r : Nat) : Nat × Nat :=
  let n := x.size / 64
  if r < n then (x.src0 + 64 * r, x.mds0.toNat + 64 * r) else (x.src1 + 64 * (r - n), x.mds1.toNat + 64 * (r - n))

/-- Copy one row, its poison with it (R420); into another package it goes as a row store of the ordered class. (DEDUCED, log 79) -/
def moveRow (m : Nat) (x : Mig) (s : State) (r : Nat) : State :=
  let p := x.rowPair r
  if paPkg p.2 ≠ s.pkg.toNat then sendRow s m p.1 p.2
  else
    let s1 := writeRow (dropTag s p.2) p.2 (rowAt s p.1)
    if poisoned s p.1 then poisonRow s1 p.2 else s1

/-- Are rows of a migration still on their way to another package? -/
def rowsOut (s : State) (m : Nat) : Bool := s.fab.retry.any (fun y => y.core == migrationId && y.cmd == some m)

/-- Clear the dirty bits of the rows listed, then copy them (R420). -/
def recopy (s : State) (m : Nat) (l : List Nat) : State :=
  l.foldl (moveRow m (migOf s m)) (modMig s m (fun x => { x with dirty := x.dirty.filter (fun r => !l.contains r) }))

/-- The rows that a host request writes. -/
def reqWrites (s : State) : HostReq → List Nat
  | .access a => if a.write then hostRows s a else []
  | .atomic a => [rowBase a.pa]

/-- A held host request goes (R325, R420): each of its rows at the destination after the switch, else at the source. Where the
destination lies in another package, it is performed at the source and the rows it has written follow there. (DEDUCED, log 79) -/
def releaseOne (m : Nat) (x : Mig) (moved : Bool) (s : State) (q : HostReq) : State :=
  let far := fun (r : Nat) => paPkg (heldTo x moved r) != s.pkg.toNat
  let t := performHeld s q (fun r => if far r then r else heldTo x moved r)
  ((reqWrites s q).filter far).foldl (fun s r => sendRow s m r (heldTo x moved r)) t

/-- Let the held host requests go, in arrival order (R325, R420). -/
def releaseHost (s : State) (m : Nat) (moved : Bool) : State :=
  let x := migOf s m
  x.held.foldl (releaseOne m x moved) { modMig s m (fun x => { x with held := [] }) with replies := [] }

/-- The packets that a failing migration has refused are performed at the source after all (R420). -/
def dropGoals (s : State) (x : Mig) : State :=
  let mine := fun (a : Nat) => (offIn x.mds0.toNat x.size a).isSome || (x.pair && (offIn x.mds1.toNat x.size a).isSome)
  if s.fab.wins.all (fun w => w.2.refs.isEmpty) then s
  else { s with fab := { s.fab with wins := s.fab.wins.map (fun w => (w.1, { w.2 with refs := w.2.refs.filter (fun r => !mine r.2) })) } }

/-- A migration fails (R420): state 6, the region resident at its source. -/
def failMig (s : State) (m : Nat) : State :=
  let x := migOf s m
  let s1 := modMig (dropGoals s x) m (fun x => { x with mst := 6, dirty := [] })
  let s2 := setSmig s1 x.mctx.toNat x.mreg.toNat false
  releaseHost (if x.mst = 1 then s2 else resident s2 x.mctx.toNat x.mreg.toNat) m false

/-- Does anything that translated before phase 2 still reach the source (R297, R420)? -/
def sourceBusy (s : State) (x : Mig) : Bool :=
  let hit := fun (pa : Nat) => !(x.rowsAt pa).isEmpty
  s.cores.any (fun c =>
    let a := c.2.arch
    let q := a.main.pipe
    a.reqs.any (fun r => hit r.pa) ||
    a.cp.any (fun y => (cpReadPas s c.1 y).any hit || (cpOut s c.1 y).l.any (fun w => hit w.pa)) ||
    a.smv.any (fun y => (List.range (cdiv (y.n * y.k * 2) 64)).any (fun i => hit (y.b + 64 * i)) ||
      (List.range (cdiv y.n 16 - y.made)).any (fun i => hit (handleDst y.tab c.1 (handlePa s c.1 y.hd.toNat i)))) ||
    q.mx.any (fun y => (mxTouches y).any (fun r => hit (sliceRow s.pkg c.1 r))) ||
    q.tx.any (fun y => (txTouches y).any (fun r => hit (sliceRow s.pkg c.1 r))))

/-- The system-atomic bits move with a region (R420, R421). -/
def moveSya (s : State) (x : Mig) : State :=
  let move := fun (l : List Nat) (p : Nat × Nat) =>
    let src := granules p.1 x.size
    let dst := granules p.2 x.size
    if src.any l.contains then (dst ++ l.filter (fun g => !src.contains g)).eraseDups else l
  let ps := [(x.src0, x.mds0.toNat)] ++ (if x.pair then [(x.src1, x.mds1.toNat)] else [])
  { s with hub := { s.hub with samap := ps.foldl move s.hub.samap } }

/-- The switch (R420): the last rows, the new bases in every table and record, the region resident. (DEDUCED, log 79) -/
def switchMig (s : State) (m : Nat) : State :=
  let x := migOf s m
  if sourceBusy s x ∨ rowsOut s m then s
  else if !x.dirty.isEmpty ∧ x.spans.any (fun a => paPkg a != s.pkg.toNat) then recopy s m x.dirty
  else
    let ctx := x.mctx.toNat
    let reg := x.mreg.toNat
    let s1 := recopy s m x.dirty
    let s2 := setSmig (setBases s1 ctx reg (some x.mds0.toNat) (if x.pair then some x.mds1.toNat else none)) ctx reg false
    let s3 := moveSya (resident s2 ctx reg) x
    let s4 := releaseHost (modMig s3 m (fun x => { x with mst := 5 })) m true
    if x.mret then { s4 with retd := [(x.src0, x.size)] ++ (if x.pair then [(x.src1, x.size)] else []) ++ s4.retd } else s4

/-- MIGRATION_PHASE: a running migration advances, or fails on a write error or on its context's teardown (R420).
(DEDUCED, log 79) -/
def execMigrationPhase (m : Nat) (writeFails : Bool) (s : State) : Host.Outcome State Fault Refusal :=
  let x := migOf s m
  .next (if !x.runs then s
    else if writeFails || (ctxOf s x.mctx.toNat).state ≠ 1 then failMig s m
    else match x.mst with
      | 1 =>
        let n := x.size / 64 * (if x.pair then 2 else 1)
        setRes (modMig ((List.range n).foldl (moveRow m x) s) m (fun x => { x with mst := 2 })) x.mctx.toNat x.mreg.toNat 2
      | 2 => modMig s m (fun x => { x with mst := 3 })
      | 3 =>
        let s1 := modMig (recopy s m x.dirty) m (fun x => { x with mpass := x.mpass + 1 })
        if x.dirty.isEmpty ∨ 8 ≤ x.mpass + 1 then modMig s1 m (fun x => { x with mst := 4 }) else s1
      | _ => switchMig s m)

end Sys2Proof.Machine
end

