-- ==== Sys2Proof/Machine/Majority.lean ====
section
/-!
DEFINITION. Majority cells (R150 to R152, R422 to R425): the protocols of `mjst` and `mjld`, the loss and the
rejoin of a member, repairs and walks.
-/
namespace Sys2Proof.Machine

/-! ### Cells and tags (R150, R422) -/

/-- A majority set. -/
def mjsOf (s : State) (m : Nat) : MjSet := tget MjSet.free s.hub.mjs m
/-- Change it. -/
def modMjs (s : State) (m : Nat) (g : MjSet → MjSet) : State :=
  { s with hub := { s.hub with mjs := tput s.hub.mjs m (g (mjsOf s m)) } }

/-- The copy of a cell on member `i` of its set, in the stack view (R422); the cell is its offset within a stack. -/
def copyPa (s : State) (m : MjSet) (cell i : Nat) : Nat := s.pkg.toNat * 2 ^ 48 + 2 ^ 46 + m.stack i * 2 ^ 36 + cell

/-- The offset of the cell that an address names. -/
def cellOf (pa : Nat) : Nat := fld pa 0 36 / 64 * 64

/-- The age of a tag: counter, then writer (R150). -/
def tagKey (r : Row) : Nat := fld r.toNat 384 48 * 2 ^ 24 + fld r.toNat 432 24

/-- The newest of a list of copies. (DEDUCED, log 64) -/
def newest : List Row → Row
  | [] => 0
  | [r] => r
  | r :: q :: t => let n := newest (q :: t)
                   if tagKey n < tagKey r then r else n

/-- A copy accepts a write only when its tag is newer than its own (R150). -/
def acceptCopy (s : State) (pa : Nat) (r : Row) : State := if tagKey (rowAt s pa) < tagKey r then writeRow s pa r else s

/-- The members of a set that take writes: up or rejoining (R424). -/
def MjSet.takes (m : MjSet) : List Nat := (List.range m.n).filter (fun i => m.mem i == 0 || m.mem i == 2)

/-- Write a row to the copies of a cell, each under the acceptance rule. -/
def writeCopies (s : State) (m : MjSet) (cell : Nat) (l : List Nat) (r : Row) : State :=
  l.foldl (fun s i => acceptCopy s (copyPa s m cell i) r) s

/-- The members that can answer for a cell: up, and their copy readable. -/
def MjSet.answers (s : State) (m : MjSet) (cell : Nat) : List Nat := m.up.filter (fun i => !poisoned s (copyPa s m cell i))

/-- Choose `n` members of a list one after another, each at an open place. (DESIGN CHOICE, log 19) -/
def pickMembers (fresh : Nat) : Nat → List Nat → List Nat
  | 0, _ => []
  | n + 1, l => match l[Config.mjFirst (8 * fresh + n) % l.length]? with
    | none => []
    | some i => i :: pickMembers fresh n (l.erase i)

/-- The members whose answers come first: as many as the majority needs, any of those that can answer (R151).
(DESIGN CHOICE, log 19) -/
def firstAnswers (s : State) (m : MjSet) (cell : Nat) : List Nat := pickMembers s.fresh m.need (m.answers s cell)

/-- List a cell as lagging when an up member lacks the tag of an operation; a full list schedules a walk (R425). -/
def noteLag (s : State) (set cell : Nat) (r : Row) : State :=
  let m := mjsOf s set
  if m.up.all (fun i => tagKey (rowAt s (copyPa s m cell i)) == tagKey r) || m.lag.contains cell then s
  else if 4096 ≤ m.lag.length then modMjs s set (fun m => { m with walk := true })
  else modMjs s set (fun m => { m with lag := m.lag ++ [cell] })

/-! ### The operations (R151, R152) -/

/-- The identity of a stream in a tag (R150). -/
def writerOf (s : State) (k : Sid) : Nat := s.pkg.toNat * 2 ^ 16 + k.core % 1024 * 64 + k.side.toNat * 32

/-- The row that an `mjst` writes: the payload of the own row under the next tag. -/
def newRow (s : State) (k : Sid) (own old : Row) : Row :=
  BitVec.ofNat 512 (own.toNat % 2 ^ 384 + (fld old.toNat 384 48 + 1) % 2 ^ 48 * 2 ^ 384 + writerOf s k * 2 ^ 432 + 2 ^ 456)

/-- `mjst` at its copies. (DEDUCED, log 80) -/
def mjStore (s : State) (k : Sid) (set cell own : Nat) : State × Row :=
  let m := mjsOf s set
  let old := newest ((firstAnswers s m cell).map (fun i => rowAt s (copyPa s m cell i)))
  let r := newRow s k (rowAt s own) old
  (noteLag (writeCopies s m cell m.takes r) set cell r, r)

/-- `mjld` at its copies: the replies that are older take the newest. (DEDUCED, log 64) -/
def mjLoad (s : State) (set cell : Nat) : State × Row :=
  let m := mjsOf s set
  let l := firstAnswers s m cell
  let r := newest (l.map (fun i => rowAt s (copyPa s m cell i)))
  (noteLag (writeCopies s m cell l r) set cell r, r)

/-- The majority slot of the bundle at which a stream stands: whether it loads, its operands. -/
def majoritySlot (s : State) (k : Sid) : Option (Bool × SmF) :=
  match fetchBundle s k.core (strmOf s k).pc with
  | .error _ => none
  | .ok b =>
    let p := atBundle s k b
    b.instrs.findSome? (fun x => if slotOn p x.1 then (match x.2 with
      | .mjld _ o => some (true, o)
      | .mjst _ o => some (false, o)
      | _ => none) else none)

/-- Perform the majority operation of a stream at its copies; with fewer readable copies than it needs, the error is
consumed (R392, reader class 1). The cells that an `mjst` writes lie outside the node's own banks (R360). -/
def performMajority (s : State) (k : Sid) (load : Bool) (o : SmF) : State :=
  let va := (strmOf s k).reg o.sa
  let ask : Ask := { askLoad with wr := true, timed := false, coreWr := true, major := true }
  let askB : Ask := if load then { askStore with own := true } else { askLoad with timed := false, own := true }
  match access s k.core ask va, access s k.core askB ((strmOf s k).reg o.sb) with
  | .ok (_, _, pa), .ok (_, _, own) =>
    let set := mjSet pa
    let cell := cellOf pa
    let m := mjsOf s set
    if m.up.length < m.need then s
    else if (m.answers s cell).length < m.need then
      (match m.up.find? (fun i => poisoned s (copyPa s m cell i)) with
      | some i => notePend s k 18 2 1 (strmOf s k).pc (BitVec.ofNat 64 (copyPa s m cell i))
      | none => s)
    else
      let r := if load then mjLoad s set cell else mjStore s k set cell own
      let s1 := if load then r.1 else noteWrite r.1 k.core pa
      modStrm { s1 with fresh := s1.fresh + 1 } k (fun x => { x with mjok := some r.2 })
  | _, _ => s

/-- MAJORITY_COMPLETION: the operation at which a stream holds, once its earlier accesses are performed at HOST scope (R326) and in
protected mode its earlier bundles compared (R29, R151, R152). (DEDUCED, log 37) -/
def execMajorityCompletion (k : Sid) (s : State) : Host.Outcome State Fault Refusal :=
  .next (if (strmOf s k).stage ≠ 8 || (strmOf s k).mjok.isSome || !mayAct s k || !(coreOf s k.core).roll.isEmpty ||
      !allDone s k then s
    else match majoritySlot s k with
      | none => s
      | some (load, o) => performMajority s k load o)

/-! ### Members, repairs, walks (R424, R425) -/

/-- Set the state of a member. -/
def setMem (s : State) (set i st : Nat) : State := modMjs s set (fun m => { m with reg := setFld m.reg (40 + 2 * i) 2 st })

/-- MAJORITY_MEMBER_DOWN: a member's stack has failed (R424). -/
def execMajorityMemberDown (set i : Nat) (s : State) : Host.Outcome State Fault Refusal :=
  .next (if (mjsOf s set).n ≤ i then s else setMem s set i 1)

/-- Can a cell be repaired: do as many members answer for it as the majority needs (R425)? (DEDUCED, log 80) -/
def canRepair (s : State) (set cell : Nat) : Bool := decide ((mjsOf s set).need ≤ ((mjsOf s set).answers s cell).length)

/-- Repair one cell, where it can be: every copy that takes writes receives the newest of the up members (R425). -/
def repairCell (set : Nat) (s : State) (cell : Nat) : State :=
  let m := mjsOf s set
  let l := m.answers s cell
  if l.length < m.need then s
  else writeCopies s m cell m.takes (newest (l.map (fun i => rowAt s (copyPa s m cell i))))

/-- MAJORITY_REPAIR: the hub repairs the oldest listed cell of a set that it can repair; the others stay listed (R425).
(DEDUCED, log 80) -/
def execMajorityRepair (set : Nat) (s : State) : Host.Outcome State Fault Refusal :=
  .next (match (mjsOf s set).lag.find? (canRepair s set) with
    | none => s
    | some c => repairCell set (modMjs s set (fun m => { m with lag := m.lag.filter (· != c) })) c)

/-- MAJORITY_WALK: a walk of every cell of a set. Members that rejoin are up after one that has repaired every cell; cells that it
could not repair stay listed and another walk is due (R424, R425). (DEDUCED, log 80) -/
def execMajorityWalk (set : Nat) (s : State) : Host.Outcome State Fault Refusal :=
  let m := mjsOf s set
  .next (if !m.reg.getLsbD 63 then s
    else
      let cells := (List.range m.cells).map (fun c => m.base + 64 * c)
      let all := cells.all (canRepair s set)
      let s1 := cells.foldl (repairCell set) s
      let back := (List.range m.n).filter (fun i => m.mem i == 2 && all && decide (m.need ≤ m.up.length))
      back.foldl (fun s i => setMem s set i 0) (modMjs s1 set (fun m => { m with
        walk := !all, lag := m.lag.filter (fun c => !canRepair s set c) })))

/-- MHS_WRITE: firmware writes the state of a member (R422, R424): 2 to a down member starts its rejoin.
(DEDUCED, log 81) -/
def execMhsWrite (set i : Nat) (v : BitVec 2) (s : State) : Host.Outcome State Fault Refusal :=
  let m := mjsOf s set
  .next (if m.n ≤ i ∨ v = 3 ∨ (m.mem i = 1 ∧ v ≠ 2) then s
    else if v = 2 then modMjs (setMem s set i 2) set (fun m => { m with walk := true })
    else setMem s set i v.toNat)

end Sys2Proof.Machine
end

