-- ==== Sys2Proof/Machine/Canopy.lean ====
section
/-!
DEFINITION. The canopy and the fleet's registers (R377, R426 to R446): the period with its targets, gating, mailbox
commands, telemetry, heat, connection drops, readiness, partitions, package reset and power on.
-/
namespace Sys2Proof.Machine

/-! ### Target registers (R427, R428, R430) -/

/-- The target register of a rail: islands 0 to 63, root rails 64 to 71. -/
def railReg (s : State) (i : Nat) : Word := if i < 64 then isltOf s i else tget 15 s.can.rrt (i - 64)
/-- Set it. -/
def putRail (s : State) (i : Nat) (w : Word) : State :=
  { s with can := if i < 64 then { s.can with islt := tput s.can.islt i w } else { s.can with rrt := tput s.can.rrt (i - 64) w } }

/-- The cores that a rail feeds (R427). -/
def railCores (s : State) (i : Nat) : List Nat := (s.cores.map (·.1)).filter (fun c => railOf c == i)

/-- Does a core of a rail run a full-mode block (R428)? -/
def fullOn (s : State) (i : Nat) : Bool :=
  (railCores s i).any (fun c => (archOf s c).task.isSome && !mergedPt (archOf s c).main.blk.pt)

/-- A write of a target register (R427, R428): an `ENV` above 40 discards it, one below 18 stores 18 under a
full-mode block. `GTD` is not written. -/
def writeRail (s : State) (i : Nat) (w : Word) : State :=
  let e := wf w 0 6
  if 40 < e then s
  else
    let w1 := if e < 18 ∧ fullOn s i then setFld w 0 6 18 else w
    let w2 := setFld (w1 &&& (if i < 64 then 0xFFFFFFFFFF0000BF else 0xFFFFFFFF0000003F)) 6 1 (wf (railReg s i) 6 1)
    putRail s i w2

/-- The slope limit of an island: as commanded, else as recorded (R429, R431). -/
def slopeOf (s : State) (i : Nat) : Nat := tget (tget 0 (recOf s).slopeI i) s.can.slope i
/-- The slope limit of the package. -/
def pslopeOf (s : State) : Nat := s.can.pslope.getD (recOf s).slopeP
/-- The package power limit, in W: as commanded, else as recorded (R428, R431, R434). How the canopy meets it is its policy's.
(DESIGN CHOICE, log 7) -/
def plimitOf (s : State) : Nat := s.can.plimit.getD (recOf s).limit
/-- The current step of a token, in mA (R429, R434). -/
def stepOf (s : State) : Nat := (recOf s).stepI

/-- The least interval of an island, held at what a target register holds (R427, R429). -/
def leastGap (s : State) (i : Nat) : Nat := min 65535 (cdiv (stepOf s) (slopeOf s i))

/-- The crown cores of an island (R427). -/
def islandCores (i : Nat) : List Nat := (List.range 8).map (fun j => i / 8 * 128 + i % 8 * 8 + j)

/-- The gate of an island was requested or withdrawn (R430): its cores preempt at their next boundaries, or the rail turns on again;
where it was off, their regulators start at the `ENV` that the register now holds (R231). (DEDUCED, log 81) -/
def gateCores (s : State) (i : Nat) (on : Bool) : State :=
  if on then (railCores s i).foldl (fun s c => askSave s c .gate) s
  else
    let s1 := (railCores s i).foldl (fun s c => modArch s c (fun a => { a with preq := a.preq.filter (· != .gate) })) s
    if (isltOf s i).getLsbD 6 then (islandCores i).foldl (fun s c => modArch s c (fun a => { a with
      vcode := envOf s c, regTgt := envOf s c, regCyc := 0 })) s1
    else s1

/-- A write of a target register takes effect (R426 to R428, R430). (DEDUCED, log 81) -/
def applyTarget (s : State) (x : Nat × Word) : State :=
  let s1 := writeRail s x.1 x.2
  let on := (railReg s1 x.1).getLsbD 7
  if 64 ≤ x.1 ∨ (railReg s x.1).getLsbD 7 = on then s1 else gateCores s1 x.1 on

/-- Is a core of an island still saved by a gate that has been withdrawn, and by nothing else (R430)? -/
def gateSaved (s : State) (i : Nat) : Bool :=
  s.hub.saves.any (fun v => railOf v.core == i && v.causes.contains .gate && !v.causes.any (causeHolds s v))

/-- `GTD` clears once the cores that the gate of the island saved have been restored (R430). (DEDUCED, log 81) -/
def clearGtd (s : State) (i : Nat) : State :=
  let w := isltOf s i
  if w.getLsbD 6 && !w.getLsbD 7 && !gateSaved s i then putRail s i (setFld w 6 1 0) else s

/-- The canopy writes a target register: the write takes effect in the next hub tick (R426). -/
def queueTarget (s : State) (i : Nat) (w : Word) : State := { s with can := { s.can with tgts := s.can.tgts ++ [(i, w)] } }

/-- ISLAND_RAIL_OFF: the rail of a gated island turns off when its last save has completed (R430). -/
def execIslandRailOff (island : Nat) (s : State) : Host.Outcome State Fault Refusal :=
  .next (if (isltOf s island).getLsbD 7 && (railCores s island).all (fun c => (archOf s c).task.isNone) then
    putRail s island (setFld (isltOf s island) 6 1 1) else s)

/-! ### Mailbox (R431, R436) -/

/-- `MCMD` of the pending command. -/
def mCmd (s : State) : Nat := wf s.can.mcmd 0 8
/-- `MTGT`. -/
def mTgt (s : State) : Nat := wf s.can.mcmd 8 8
/-- `MARG`. (DEDUCED, log 83) -/
def mArg (s : State) : Nat := wf s.can.mcmd 16 48

/-- Write the result of the pending command (R431). -/
def mailDone (s : State) (res : Nat) : State := { s with can := { s.can with mpend := false, mres := BitVec.ofNat 64 (2 ^ 63 + res) } }

/-- Mailbox command 0x01 (R431). -/
def doIslandSlope (s : State) : State :=
  mailDone { s with can := { s.can with slope := tput s.can.slope (mTgt s) (mArg s % 2 ^ 32) } } 0
/-- Mailbox command 0x02. -/
def doPackageSlope (s : State) : State := mailDone { s with can := { s.can with pslope := some (mArg s % 2 ^ 32) } } 0
/-- Mailbox command 0x03. -/
def doPowerLimit (s : State) : State := mailDone { s with can := { s.can with plimit := some (mArg s % 2 ^ 32) } } 0
/-- The result of a command that a target register carries out is written once the register has it (R426, R431). -/
def mailLater (s : State) : State := { s with can := { s.can with mres1 := some 0 } }

/-- Mailbox command 0x04: the island's register is written with `GT` and no budget. -/
def doGate (s : State) : State :=
  let i := mTgt s
  let s1 := { s with can := { s.can with gated := if s.can.gated.contains i then s.can.gated else s.can.gated ++ [i] } }
  mailLater (queueTarget s1 i (setFld (setFld (isltOf s i) 7 1 1) 24 8 0))
/-- Mailbox command 0x05: an island held by a trip stays gated (R442). -/
def doUngate (s : State) : State :=
  let i := mTgt s
  let s1 := { s with can := { s.can with gated := s.can.gated.filter (· != i) } }
  if s1.can.trip.contains i then mailDone s1 0 else mailLater (queueTarget s1 i (setFld (isltOf s i) 7 1 0))
/-- Mailbox command 0x06: the retirement list of both copies of the record grows (R434, R447). (DEDUCED, log 83) -/
def doRetire (s : State) : State :=
  let put := fun (r : CfgRec) => { r with retire := r.retire ++ [BitVec.ofNat 48 (mArg s)] }
  mailDone { s with can := { s.can with flash := [(0, put (flashOf s 0)), (1, put (flashOf s 1))] } } 0

/-- The 512-byte body of an attestation report (R436). (DESIGN CHOICE, log 8) -/
def reportBody (s : State) : BitVec 4096 :=
  BitVec.ofNat 4096 (0x31535441 + 2 ^ 32 + s.hub.htck.toNat * 2 ^ 64 + s.can.mnon.toNat * 2 ^ 128 +
    joinN 384 ((Config.recHash (recOf s).nums).toNat :: (List.range 5).map (fun i => (Config.hash (i + 1)).toNat)) * 2 ^ 256)

/-- The signature section of a report (R259): identity pairs, two signatures. (DESIGN CHOICE, log 8) -/
def reportSig (b : BitVec 4096) : Nat :=
  1 + 0xFFFFFFFF * 2 ^ 32 + 384 * 2 ^ 64 + 7856 * 2 ^ 96 + (Config.signatures b).toNat * 2 ^ 128

/-- Write `n` rows of a device record from `a`, each at its own place: an interleaved range turns to another stack at
each 4 KiB (R290). -/
def writeRows (s : State) (a v n : Nat) : State :=
  (List.range n).foldl (fun s i => writeRec s (a + 64 * i) 64 (v / 2 ^ (512 * i))) s

/-- Mailbox command 0x10 (R436): refused at an address that is not aligned, or where there is no HBM.
(DEDUCED, log 83) -/
def doAttest (s : State) : State :=
  let a := s.pkg.toNat * 2 ^ 48 + mArg s
  if mArg s % 64 ≠ 0 || paSpace a != 1 || !storageOk s a || !storageOk s (a + 8767) then mailDone s 1
  else mailDone (writeRows s a ((reportBody s).toNat + 2 ^ 4096 * reportSig (reportBody s)) 137) 0

/-- Carry the pending command out (R431). -/
def doCommand (s : State) : State :=
  if 63 < mTgt s then mailDone s 1
  else match mCmd s with
    | 1 => doIslandSlope s
    | 2 => doPackageSlope s
    | 3 => doPowerLimit s
    | 4 => doGate s
    | 5 => doUngate s
    | 6 => doRetire s
    | 16 => doAttest s
    | _ => mailDone s 1

/-- Take the pending command, if the period has read its sensors and has taken none yet (R426, R431). -/
def takeCommand (s : State) : State :=
  if s.can.mpend && s.can.read && s.can.turn then doCommand { s with can := { s.can with turn := false } } else s

/-- Take the pending command when it is the one an event names. -/
def takeIf (s : State) (n : Nat) : State := if mCmd s = n then takeCommand s else s

/-- SET_ISLAND_SLOPE (R431). -/
def execSetIslandSlope (s : State) : Host.Outcome State Fault Refusal := .next (takeIf s 1)
/-- SET_PACKAGE_SLOPE (R431). -/
def execSetPackageSlope (s : State) : Host.Outcome State Fault Refusal := .next (takeIf s 2)
/-- SET_POWER_LIMIT (R431). -/
def execSetPowerLimit (s : State) : Host.Outcome State Fault Refusal := .next (takeIf s 3)
/-- GATE_ISLAND (R431). -/
def execGateIsland (s : State) : Host.Outcome State Fault Refusal := .next (takeIf s 4)
/-- UNGATE_ISLAND (R431). -/
def execUngateIsland (s : State) : Host.Outcome State Fault Refusal := .next (takeIf s 5)
/-- APPEND_RETIRED_RANGE (R431). -/
def execAppendRetiredRange (s : State) : Host.Outcome State Fault Refusal := .next (takeIf s 6)
/-- ATTESTATION_REPORT (R436). -/
def execAttestationReport (s : State) : Host.Outcome State Fault Refusal := .next (takeIf s 16)

/-! ### Heat (R441, R442, R444) -/

/-- The hottest of a list of readings, the lower unit on a tie (R441). -/
def hottestOf : List (Nat × Int) → Option (Nat × Int)
  | [] => none
  | x :: t => match hottestOf t with
    | none => some x
    | some y => if y.2 < x.2 ∨ (y.2 = x.2 ∧ x.1 < y.1) then some x else some y

/-- `TMX` for a list of readings (R441). -/
def tmxOf (l : List (Nat × Int)) : Word := match hottestOf l with
  | none => 0
  | some (u, t) => BitVec.ofNat 64 (wrapN 16 t * 2 ^ 32 + u % 512 * 2 ^ 16 + 1)

/-- THERMAL_SAMPLE: the thermal maximum tree reads every sensor (R441). -/
def execThermalSample (temps : List (Nat × Int)) (s : State) : Host.Outcome State Fault Refusal :=
  .next { s with health := { s.health with temps := temps, tmx := tmxOf temps } }

/-- `TTHR`, `TTRP`, `TSDR`, `TSCL`, `DTH` (R441). -/
def thr (s : State) (lo : Nat) : Nat := wf s.health.tthr lo 8

/-- The readings of an island. -/
def heatOf (l : List (Nat × Int)) (i : Nat) : List (Nat × Int) := l.filter (fun t => t.1 / 8 == i)

/-- The record of an entry into throttle or trip (R442). -/
def heatRec (unit : Nat) (trip : Bool) : ErrRec :=
  { kind := 17, trap := 0, sev := 0, out := 0, core := 0, side := false, aux := unit % 512 + trip.toNat * 512, node := 0, addr := 0 }

/-- The throttle and the trip of an island from a period's readings, of which the hottest is the unit recorded (R442).
(DEDUCED, log 81) -/
def heatIsland (l : List (Nat × Int)) (s : State) (i : Nat) : State :=
  let r := heatOf l i
  let at_ := fun (t : Nat) => (hottestOf r).filter (fun x => decide ((t : Int) * 8 ≤ x.2))
  let below := fun (t : Int) => r.all (fun x => decide (x.2 < t * 8))
  let thr0 := thr s 40
  let s1 := match at_ thr0, s.can.throt.contains i with
    | some x, false => logPkg { s with can := { s.can with throt := s.can.throt ++ [i] } } (heatRec x.1 false)
    | _, true => if below (thr0 - 5) then { s with can := { s.can with throt := s.can.throt.filter (· != i) } } else s
    | _, _ => s
  match at_ (thr s 32), s1.can.trip.contains i with
  | some x, false => logPkg { s1 with can := { s1.can with trip := s1.can.trip ++ [i] } } (heatRec x.1 true)
  | _, true => if below thr0 then { s1 with can := { s1.can with trip := s1.can.trip.filter (· != i) } } else s1
  | _, _ => s1

/-- The temperature and the derate of a stack (R443, R444): it enters derate in the period after that in which the temperature
reached `TSDR`. (DEDUCED, log 81) -/
def heatStack (s : State) (x : Nat × Nat) : State :=
  let w := tget 0 s.health.shlt x.1
  let d := wf w 8 2
  let new := if d = 0 ∧ thr s 16 ≤ wf w 16 8 then 1 else if d = 1 ∧ x.2 ≤ thr s 8 then 0 else d
  let s1 := { s with health := { s.health with shlt := tput s.health.shlt x.1 (setFld (setFld w 16 8 x.2) 8 2 new) } }
  if new = d then s1
  else logPkg s1 { kind := 18, trap := 0, sev := 0, out := 0, core := 0, side := false, aux := x.1 % 16 + new * 16, node := 0, addr := 0 }

/-! ### Connection drops (R445) -/

/-- The sum over the four bump groups of an island. -/
def overIsland (l : List (Nat × Nat)) (j : Nat) : Nat := (List.range 4).foldl (fun a k => a + tget 0 l (j / 4 * 4 + k)) 0

/-- Is a bump group low in a millisecond's currents (R445)? Its share is what the record holds for it over what it holds for the
four of its island, so that they sum to 1. (DESIGN CHOICE, log 7) -/
def groupLow (s : State) (l : List (Nat × Nat)) (j : Nat) : Bool :=
  let i := overIsland l j
  let c := (recOf s).shares
  !(isltOf s (j / 4)).getLsbD 6 && decide (800 ≤ i) &&
    decide (tget 0 l j * overIsland c j * 256 < tget 0 c j * i * (256 - thr s 0))

/-- Count one bump group, by 32 x grove + group, which is 4 x island + place (R445): each run of low milliseconds is recorded at its
third, and caps the island or holds its cap. -/
def countGroup (l : List (Nat × Nat)) (s : State) (j : Nat) : State :=
  let low := groupLow s l j
  let n := if low then tget 0 s.can.low j + 1 else 0
  let cap := tget 0 s.can.cap j
  let start := low && n == 3
  let cap' := if start || (low && cap != 0) then 1000 else cap - 1
  let s1 := { s with can := { s.can with low := tput s.can.low j n, cap := tput s.can.cap j cap' } }
  if start then logPkg s1 { kind := 19, trap := 0, sev := 0, out := 0, core := 0, side := false, aux := j / 32 + j % 32 * 8, node := 0, addr := 0 }
  else s1

/-- Is an island capped (R445)? -/
def capped (s : State) (i : Nat) : Bool := (List.range 4).any (fun k => tget 0 s.can.cap (4 * i + k) != 0)

/-! ### Targets (R428, R429) -/

/-- The envelope code that the canopy writes for a rail (R428, R442, R445). (DESIGN CHOICE, log 10; DEDUCED, log 81) -/
def envFor (s : State) (p : PeriodInput) (i : Nat) : Nat :=
  let pol := min (tget 40 p.envs i) 40
  let old := wf (railReg s i) 0 6
  let e1 := if s.can.throt.contains i then min pol (old - 4) else pol
  if capped s i && decide (i < 64) then min e1 18 else e1

/-- The budget that the canopy computes for an island: the policy's, or that of the period before. (DESIGN CHOICE, log 10) -/
def budNow (s : State) (p : PeriodInput) (i : Nat) : Nat := tget (tget 0 s.can.buds i) p.buds i

/-- The budget written for an island: none while it is gated, half the computed one while it is capped (R430, R445). -/
def budFor (s : State) (p : PeriodInput) (i : Nat) : Nat :=
  let b := budNow s p i
  if s.can.gated.contains i || s.can.trip.contains i then 0 else if capped s i then b / 2 else b

/-- The interval that the policy asks for a rail, at least what the island's slope limit allows; 0 where that limit is 0
(R429). -/
def gapWant (s : State) (l : List (Nat × Nat)) (i lo : Nat) : Nat :=
  let g := min 65535 (tget (wf (railReg s i) lo 16) l i)
  if 64 ≤ i then g else if slopeOf s i = 0 then 0 else max g (leastGap s i)

/-- Does the sum of the current step over the token rates of all islands stay within the package's slope limit (R429)?
(DEDUCED, log 81) -/
def slopeFits (s : State) (p : PeriodInput) : Bool :=
  let gs := ((List.range 64).flatMap (fun i => [gapWant s p.stgi i 48, gapWant s p.clri i 32])).filter (fun g => decide (0 < g))
  let m := gs.foldl Nat.lcm 1
  pslopeOf s == 0 || decide (gs.foldl (fun a g => a + stepOf s * (m / g)) 0 ≤ pslopeOf s * m)

/-- The interval written: the policy's, or one that the 128 kinds of tokens can all have where the policy's would pass the
package's limit (R429). (DEDUCED, log 81) -/
def gapFor (s : State) (fit : Bool) (l : List (Nat × Nat)) (i lo : Nat) : Nat :=
  let g := gapWant s l i lo
  if fit || decide (64 ≤ i) || g == 0 then g else max g (min 65535 (cdiv (128 * stepOf s) (pslopeOf s)))

/-- The word that a period writes to the target register of a rail (R427). -/
def targetWord (s : State) (p : PeriodInput) (fit : Bool) (i : Nat) : Word :=
  let gt := s.can.gated.contains i || s.can.trip.contains i
  BitVec.ofNat 64 (gapFor s fit p.stgi i 48 % 65536 * 2 ^ 48 + gapFor s fit p.clri i 32 % 65536 * 2 ^ 32 +
    (if i < 64 then budFor s p i % 256 * 2 ^ 24 + gt.toNat * 128 else 0) + envFor s p i)

/-! ### Telemetry (R438 to R440) -/

/-- Write one telemetry record, or drop and count it (R438, R440). -/
def teleRec (s : State) (src : Nat) (tv : BitVec 384) : State :=
  let r := s.health.ring
  let put := fun (s : State) (r : RecRing) => { s with health := { s.health with ring := r } }
  if r.n = 0 ∨ r.head - r.ack = r.n then put s { r with lost := r.lost + 1 }
  else
    let t := s.hub.htck.toNat / 1000000 * 1000000 - 1000000
    let v := t + src * 2 ^ 64 + (if r.lost < 65535 then r.lost else 65535) * 2 ^ 80 + tv.toNat * 2 ^ 128
    put (writeRec s (r.base.toNat + 64 * (r.head.toNat % r.n.toNat)) 64 v) { r with head := r.head + 1, lost := 0 }

/-- The values of one source (R439): a grove's eleven currents and its hottest reading, the hub's eighteen currents; the rest
zero. (DEDUCED, log 81) -/
def teleVals (p : PeriodInput) (src : Nat) : BitVec 384 :=
  let v := (p.means.getD src 0).toNat
  if src = 8 then BitVec.ofNat 384 (v % 2 ^ 288)
  else BitVec.ofNat 384 (v % 2 ^ 176 + (match hottestOf (p.temps.filter (fun t => t.1 / 64 == src)) with
    | some x => wrapN 16 x.2
    | none => 0) * 2 ^ 176)

/-- The nine records of a millisecond in ascending source, or nine drops (R440). -/
def telemetry (s : State) (p : PeriodInput) : State :=
  if p.teleMiss then { s with health := { s.health with ring := { s.health.ring with lost := s.health.ring.lost + 9 } } }
  else (List.range 9).foldl (fun s i => teleRec s i (teleVals p i)) s

/-- The record of a period that left `n` target registers unwritten (R426). -/
def lateRec (n : Nat) : ErrRec :=
  { kind := 20, trap := 0, sev := 0, out := 0, core := 0, side := false, aux := n, node := 0, addr := 0 }

/-- The first part of a period (R426): the sensors of the millisecond are read (R441 to R445). -/
def readSensors (s : State) (p : PeriodInput) : State :=
  let s1 := (List.range 64).foldl (heatIsland p.temps) s
  let s2 := (List.range 256).foldl (countGroup p.bumps) (p.stackTemps.foldl heatStack s1)
  { s2 with can := { s2.can with due := false, read := true } }

/-- The last part of a period (R426): the pending command, if none has been taken, the target registers and the telemetry. -/
def writeTargets (s : State) (p : PeriodInput) : State :=
  let t := takeCommand s
  let fit := slopeFits t p
  let s1 := { t with can := { t.can with
    read := false, turn := false, buds := (List.range 64).map (fun i => (i, budNow t p i))
    tgts := t.can.tgts ++ (List.range (72 - min p.missed 72)).map (fun i => (i, targetWord t p fit i)) } }
  telemetry (if p.missed = 0 then s1 else logPkg s1 (lateRec p.missed)) p

/-- CANOPY_PERIOD: the next part of the period that is due (R426): its sensors, and after them a command that an event of its own
takes or that the period takes, the targets and the telemetry. (DESIGN CHOICE, log 10; DEDUCED, log 81) -/
def execCanopyPeriod (p : PeriodInput) (s : State) : Host.Outcome State Fault Refusal :=
  .next (if s.can.due then readSensors s p else if s.can.read then writeTargets s p else s)

/-! ### Readiness, partitions, reset (R377, R432, R433, R435, R446) -/

/-- Held walks take effect, or never will, when the sequencer reports (R433). -/
def heldWalks (s : State) (ok : Bool) : State :=
  (s.hub.ctxs.map (·.1)).foldl (fun s c => match (ctxOf s c).chain with
    | some x => if !x.goHeld then s else if ok then startWalk s c else modChain s c (fun y => { y with goHeld := false })
    | none => s) s

/-- The regions that were absent only because a stack had not trained, and that its report makes resident: their templates have
them resident, and all their stacks are now up (R433). (DEDUCED, log 82) -/
def newRegions (s : State) (rdy : Word) (k : Nat) : List (Nat × Nat) :=
  (s.hub.ctxs.flatMap (fun c => c.2.imgs.flatMap (fun i => i.2.tmpl.flatMap (fun t => (t.2.filter (fun e =>
    e.2.w0.getLsbD 63 && e.2.res == 0 && !e.2.mj && stacksUp s rdy e.2 &&
    ((stacksAt s (wf e.2.w1 0 56)).contains k || (e.2.shp && (stacksAt s (wf e.2.w2 0 56)).contains k)))).map
      (fun e => (c.1, e.2.reg)))))).eraseDups

/-- The regions of live contexts that lie on a stack. -/
def stackRegions (s : State) (k : Nat) : List (Nat × Nat) :=
  (s.hub.ctxs.flatMap (fun c => c.2.imgs.flatMap (fun i => i.2.tmpl.flatMap (fun t => (t.2.filter (fun e =>
    e.2.w0.getLsbD 63 && !e.2.mj &&
    ((stacksAt s (wf e.2.w1 0 56)).contains k || (e.2.shp && (stacksAt s (wf e.2.w2 0 56)).contains k)))).map
      (fun e => (c.1, e.2.reg)))))).eraseDups

/-- A stack that was up fails (R424, R443, R447): its bit goes over from `RDY` to `RFL`, `SST` is 2, and its regions are absent.
(DEDUCED, log 82) -/
def failStack (s : State) (bit : Nat) : State :=
  let s1 := { s with
    hub := { s.hub with rdy := setFld s.hub.rdy bit 1 0, rfl := setFld s.hub.rfl bit 1 1 }
    health := { s.health with shlt := tmod 0 s.health.shlt (bit - 16) (fun w => setFld w 0 2 2) } }
  (stackRegions s1 (bit - 16)).foldl (fun s r => setRes s r.1 r.2 1) s1

/-- The wait for a port begins with the fabric manager for the decoders that have none (R411, R433). (DEDUCED, log 77) -/
def countDown (s : State) : State :=
  { s with fab := { s.fab with down := s.fab.tdec.foldl (fun l d => if noPort s d.2 then tput l d.1 s.hub.htck.toNat else l) s.fab.down } }

/-- A function reports: its `RDY` or `RFL` bit, a stack's `SST` and its regions, and what waited for it (R432, R433, R443); a stack
may fail after it was up. (DEDUCED, log 82) -/
def reportFn (s : State) (bit : Nat) (ok : Bool) : State :=
  if s.hub.rdy.getLsbD bit && !ok && decide (16 ≤ bit) && decide (bit < 32) then failStack s bit
  else if s.hub.rdy.getLsbD bit || s.hub.rfl.getLsbD bit then s
  else
    let s1 := { s with hub := if ok then { s.hub with rdy := setFld s.hub.rdy bit 1 1 } else { s.hub with rfl := setFld s.hub.rfl bit 1 1 } }
    let s2 := if 16 ≤ bit ∧ bit < 32 then
        (if ok then newRegions s1 s1.hub.rdy (bit - 16) else []).foldl (fun s r => resident s r.1 r.2)
          { s1 with health := { s1.health with shlt := tmod 0 s1.health.shlt (bit - 16) (fun w => setFld w 0 2 (if ok then 1 else 2)) } }
      else s1
    let s3 := if bit = 2 then heldWalks s2 ok else s2
    if bit = 3 ∧ ok then pump (countDown s3) else s3

/-- A command that waits when the canopy will never run is answered with 0x01 (R435). (DEDUCED, log 88) -/
def endMail (s : State) : State := if s.can.mpend then mailDone s 1 else s

/-- The mark of a configuration record (R434). -/
def recMark : BitVec 32 := 0x31474643

/-- The boot ROM verifies the two copies of the configuration record by their marks and both signatures of each (R434, R435): the
valid copy with the higher version is used, and the other is rewritten to match; without one no function starts.
(DESIGN CHOICE, log 8) -/
def verifyRecord (s : State) (r : Report) : State :=
  let a := flashOf s 0
  let b := flashOf s 1
  let okA := a.mag == recMark && r.rsa && r.slh
  let okB := b.mag == recMark && r.rsa1 && r.slh1
  let use := fun (x : CfgRec) => { s with can := { s.can with recd := true, flash := [(0, x), (1, x)] } }
  if s.can.recd || s.can.norec then s
  else if okA && (!okB || decide (b.ver.toNat ≤ a.ver.toNat)) then use a
  else if okB then use b
  else endMail { s with can := { s.can with norec := true } }

/-- The boot ROM verifies image `k`, the canopy's, the one of dispatcher and chain sequencer, or the fabric manager's, in this order
after the record: both signatures, and a version of at least `CMINF` (R435). A failed image never runs.
(DESIGN CHOICE, log 8) -/
def verifyImage (s : State) (k : Nat) (r : Report) : State :=
  let ok := r.rsa && r.slh && decide ((recOf s).minf.toNat ≤ r.ver.toNat)
  let has := fun (i : Nat) => s.can.imgs.any (fun x => x.1 == i)
  if !s.can.recd || has k || (List.range k).any (fun i => !has i) then s
  else
    let s1 := { s with can := { s.can with imgs := tput s.can.imgs k ok } }
    if ok then s1 else match k with
      | 0 => endMail (reportFn s1 0 false)
      | 1 => reportFn (reportFn s1 1 false) 2 false
      | _ => reportFn s1 3 false

/-- The image that a function of bits 0 to 3 runs (R435). -/
def imageNo (bit : Nat) : Nat := if bit = 0 then 0 else if bit = 3 then 2 else 1

/-- FUNCTION_READY: a function sets its `RDY` bit, or its `RFL` bit on failure; those of bits 0 to 3 start only when their image has
verified, and no grove before the canopy (R432, R433, R435). Bit 40 is the boot ROM's verdict on the configuration record, bits 41
to 43 those on the images. (DESIGN CHOICE, log 8) -/
def execFunctionReady (bit : Nat) (r : Report) (s : State) : Host.Outcome State Fault Refusal :=
  .next (if bit = 40 then verifyRecord s r
    else if 41 ≤ bit ∧ bit < 44 then verifyImage s (bit - 41) r
    else if !s.can.recd ∨ 32 ≤ bit ∨ (4 ≤ bit ∧ bit < 8) ∨ (8 ≤ bit ∧ bit < 16 ∧ r.ok ∧ !s.hub.rdy.getLsbD 0) then s
    else if bit < 4 ∧ (!r.ok ∨ tget false s.can.imgs (imageNo bit) = false) then s
    else reportFn s bit r.ok)

/-- PART_WRITE: a write of a partition register, discarded whole on a conflict (R377). -/
def execPartWrite (p : Nat) (v : Word) (s : State) : Host.Outcome State Fault Refusal :=
  let others := s.hub.part.filter (fun x => x.1 != p && x.2.getLsbD 63)
  let share := others.foldl (fun a x => a + wf x.2 0 8) (wf v 0 8)
  .next (if 8 ≤ p || s.hub.ctxs.any (fun c => c.2.state == 1 && recN c.2.record 0 1 == p) ||
      (v.getLsbD 63 && decide (64 < share)) || others.any (fun x => decide ((x.2 &&& v &&& 0xFF00) ≠ 0)) then s
    else { s with hub := { s.hub with part := tput s.hub.part p (v &&& 0x800000000000FFFF) } })

/-- Does a row number stand in the second tier, whose devices a reset of the package does not touch (R446)? -/
def tierRow (r : Nat) : Bool := paSpace (64 * r) == 2

/-- The machine as the package leaves reset (R446): the configuration record in flash, the second tier's contents, the package's
number and what is the model's own stay. (DESIGN CHOICE, log 4; DEDUCED, log 65) -/
def resetPackage (s : State) : State :=
  { State.reset with agenda := s.agenda, focus := s.focus, fresh := s.fresh, ids := s.ids, pkg := s.pkg
                     mem := s.mem.filter (fun x => paSpace x.1 == 2), poison := s.poison.filter tierRow, flaws := s.flaws.filter tierRow
                     can := { State.reset.can with flash := s.can.flash } }

/-- PACKAGE_RESET: a write of `PKEY` (R446). -/
def execPackageReset (v : BitVec 16) (s : State) : Host.Outcome State Fault Refusal :=
  .next (if v = 0xC1EA then resetPackage s else s)

/-- POWER_ON: the supply comes up and the package leaves reset (R446). -/
def execPowerOn (s : State) : Host.Outcome State Fault Refusal := .next (resetPackage s)

/-! ### The hub tick (R229, R276, R343, R380, R426) -/

/-- A period of the canopy falls due at each multiple of 1,000,000 hub ticks, once the canopy is ready (R426, R433). -/
def periodDue (s : State) : Bool := s.hub.rdy.getLsbD 0 && decide ((s.hub.htck + 1).toNat % 1000000 = 0)

/-- What a hub tick brings to the rails: the target writes made in the last one take effect, and with them the result of the command
that they carry out (R426, R431); `GTD` follows the restores (R430); and a period that has not made its writes within 500,000
ticks leaves the registers and its telemetry unwritten (R426, R440). (DESIGN CHOICE, log 10; DEDUCED, log 81) -/
def railTick (s : State) : State :=
  let s1 := s.can.tgts.foldl applyTarget { s with can := { s.can with tgts := [] } }
  let s2 := match s1.can.mres1 with
    | some r => mailDone { s1 with can := { s1.can with mres1 := none } } r
    | none => s1
  let s3 := (s2.can.islt.map (·.1)).foldl clearGtd s2
  if (s3.can.due || s3.can.read) && s3.hub.htck.toNat % 1000000 == 500000 then
    logPkg { s3 with can := { s3.can with due := false, read := false, turn := false }
                     health := { s3.health with ring := { s3.health.ring with lost := s3.health.ring.lost + 9 } } } (lateRec 72)
  else s3

/-- The next hub tick begins: what has risen in the last is seen, and the waits on it are evaluated (R276), cores are served
from the lowest again, target writes take effect, and a period of the canopy may fall due. -/
def nextTick (s : State) : State :=
  let fresh := fun (x : Ctx) => { x with chain := x.chain.map (fun c => { c with ups := [], dup := 0, sdn := 0 }) }
  let t : State := { s with
    can := if periodDue s then { s.can with due := true, read := false, turn := true } else s.can
    hub := { s.hub with htck := s.hub.htck + 1, turns := [], ctxs := s.hub.ctxs.map (fun c => (c.1, fresh c.2)) } }
  railTick ((t.hub.ctxs.map (·.1)).foldl wakeNodes t)

/-- What a hub tick does before it passes: tokens that may be granted are (R229), the intake write that counts takes effect
(R380), and after the tick's launches (R450) every chain context is evaluated, once the sequencer is ready (R343). -/
def endTick (s : State) : State :=
  let l := s.hub.ctxs.map (·.1)
  let s1 := l.foldl takeIntakes (grantAll s)
  if s.hub.rdy.getLsbD 2 then l.foldl tickChain s1 else s1

/-- CHAIN_TICK: a hub tick passes (R343). -/
def execChainTick (s : State) : Host.Outcome State Fault Refusal := .next (nextTick (endTick s))

end Sys2Proof.Machine
end

