-- ==== Sys2Proof/Machine/Faults.lean ====
section
/-!
DEFINITION. Faults (R389 to R399): the settlement of a stopped node with its undo log, the package halt, the
acknowledgment registers of the rings, and the scrubbers.
-/
namespace Sys2Proof.Machine

/-! ### The undo log (R394) -/

/-- How far the undo of a node has come. -/
inductive UndoRes where
  | done
  | waits
  | failed
deriving DecidableEq, Repr

/-- The atomic that undoes an entry: its opcode and its operand (R394). -/
def Undo.inverse (u : Undo) : Nat × Word :=
  if u.opc = 7 then (7, 0 - u.b) else if u.opc = 10 then (10, u.b) else (16, u.old)

/-- Does the undo of an entry succeed on the value it finds (R394)? -/
def Undo.meets (u : Undo) (x : Word) : Bool := u.inverse.1 != 16 || x == u.new

/-- Forget the newest entry. -/
def popUndo (s : State) (ctx node : Nat) : State :=
  modNode s ctx node (fun n => { n with undo := n.undo.dropLast, back := none })

/-- Send the undo of an entry of another package (R394, R403). (DESIGN CHOICE, log 20) -/
def sendUndo (s : State) (ctx node : Nat) (u : Undo) : State :=
  let v := u.inverse
  composePkt (modNode s ctx node (fun n => { n with back := some none })) 3 false u.pa (v.2.toNat + u.new.toNat * 2 ^ 64)
    (BitVec.ofNat 512 (v.1 + node % 2 ^ 32 * 2 ^ 32 + ctx * 2 ^ 64)) dispatcherId none (some (ctx * 2 ^ 32 + node % 2 ^ 32))

/-- Undo one entry of the package, when it can be. (DEDUCED, log 85) -/
def undoHere (s : State) (u : Undo) : Option State :=
  let x := wordAt s u.pa
  if poisoned s u.pa || !u.meets x then none
  else some (atomWrite s 0 u.pa false (atomVal u.inverse.1 false x u.inverse.2 u.new))

/-- Undo the entries of a node newest first (R394), at most `n` of them. (DEDUCED, log 69) -/
def undoGo (ctx node : Nat) : Nat → State → State × UndoRes
  | 0, s => (s, .done)
  | n + 1, s =>
    match nodeOf s ctx node with
    | none => (s, .done)
    | some x => match x.undo.getLast? with
      | none => (s, .done)
      | some u =>
        if paPkg u.pa = s.pkg.toNat then
          (match undoHere s u with
          | none => (s, .failed)
          | some t => undoGo ctx node n (popUndo t ctx node))
        else match x.back with
          | none => (sendUndo s ctx node u, .waits)
          | some none => (s, .waits)
          | some (some w) => if u.meets w then undoGo ctx node n (popUndo s ctx node) else (s, .failed)

/-! ### Containment (R393) -/

/-- Put a region back to a side in every table and in its shadow record (R360). -/
def flipBack (ctx : Nat) (s : State) (x : Nat × Bool) : State :=
  let g := setSide x.1 x.2
  let s1 := { s with
    cores := s.cores.map (fun c => if (c.2.arch.task.map (·.ctx)) == some ctx then (c.1, { c.2 with arch := g c.2.arch }) else c)
    hub := { s.hub with saves := s.hub.saves.map (fun v => if v.ctx == ctx then { v with arch := g v.arch } else v) } }
  let y := ctxOf s1 ctx
  let a := y.shtb.toNat + 32 * x.1 + 4
  if x.1 < y.shtn.toNat then
    let b := readN s1.mem (canon a) 1
    writeRec s1 a 1 (b / 16 * 16 + x.2.toNat * 8 + b % 8)
  else s1

/-- What a stopped node holds goes, its cores first. (DEDUCED, log 85) -/
def clearNode (s : State) (ctx node : Nat) : State := leaveStand ((coresOf s ctx node).foldl (freeCore ctx) s) ctx node

/-- The nodes that a task suspended on a region belongs to (R298). -/
def suspendedOn (s : State) (ctx reg : Nat) : List Nat :=
  ((s.cores.filterMap (fun c => match c.2.arch.task with
      | some t => if t.ctx = ctx ∧ c.2.arch.preq.contains (.page reg) then some t.node else none
      | none => none)) ++
   ((s.hub.saves.filter (fun v => v.ctx == ctx && v.causes.contains (.page reg))).map (·.node))).eraseDups

/-- The placed nodes whose launch start waits for a region (R266, R298). -/
def startsOn (s : State) (ctx reg : Nat) : List Nat :=
  ((ctxOf s ctx).nodes.filter (fun n => n.2.st == .placed && !n.2.stand.all (fun c => n.2.begun.contains c) &&
    (startRegions s ctx n.2).any (fun e => e.reg == reg && e.res != 0))).map (·.1)

/-- Kill a node (R345, R382, R393): its report, the stop of its walk, and the nodes that wait for what it was to
recompute (R298). -/
def killNode (s : State) (ctx node : Nat) (n : Node) : State :=
  let s1 := forgetNode (reportNode (clearNode s ctx node) ctx node n 1) ctx node n
  let s2 := chainKilled s1 ctx node
  match n.src with
  | .producer reg => (suspendedOn s2 ctx reg ++ startsOn s2 ctx reg).eraseDups.foldl (fun s m => killConsumer s ctx m) s2
  | _ => s2

/-- Re-queue a node (R393): it keeps its number and its place in the ready order; its rerun is forced from its own log
range (R360). -/
def requeue (s : State) (ctx node : Nat) (n : Node) : State :=
  let s1 := clearNode s ctx node
  let s2 := modNode s1 ctx node (fun x => { x with
    st := .ready, stand := [], draw := 0, gone := [], begun := [], undo := [], pubs := [], back := none, kill := none
    late := []
    reruns := n.reruns + 1, log1 := logEnd (ctxOf s ctx) n })
  modCtx s2 ctx (fun x => { x with replay := x.replay.filter (fun r => r.1 != node || r.2.1 == 0) })

/-- Settle a restartable node whose undo has succeeded: it runs again, or it has been re-queued twice before.
(DEDUCED, log 85) -/
def rerun (s : State) (ctx node code : Nat) (n : Node) : State :=
  if n.reruns < 2 then requeue s ctx node n
  else killNode (logCtx s ctx { kind := 9, trap := code, sev := 3, out := 3, core := 0, side := false, aux := 255, node := node, addr := 0 })
    ctx node n

/-- Settle a node that a consumed error stopped (R393): published regions flipped back, the undo log, then the rerun; or
the kill of its context. -/
def settle (s : State) (ctx node code : Nat) (n : Node) : State :=
  if !n.restart then killContext s ctx node
  else
    let back := n.sides.filter (fun x => n.pubs.contains x.1)
    let s1 := modNode (back.foldl (flipBack ctx) s) ctx node (fun n => { n with pubs := [] })
    match undoGo ctx node n.undo.length s1 with
    | (t, .done) => rerun t ctx node code n
    | (t, .waits) => t
    | (t, .failed) => killContext t ctx node

/-- Have the accesses that the cores of a node issued all been performed, and their publishes reached every table?
(DEDUCED, log 85) -/
def nodeDrained (s : State) (ctx node : Nat) : Bool := (coresOf s ctx node).all (fun c =>
  (archOf s c).reqs.isEmpty && !s.hub.flips.any (fun f => f.core == c && f.ctx == ctx))

/-- CONTAINMENT: the dispatcher settles a node that a K trap stopped, once its issued accesses are performed (R393). The
number 0 names no node: it stands for an uncorrectable error in hub state that belongs to the context (R395).
(DEDUCED, log 85) -/
def execContainment (ctx node : Nat) (s : State) : Host.Outcome State Fault Refusal :=
  .next (if (ctxOf s ctx).state ≠ 1 then s
    else if node = 0 then killContext s ctx 0
    else match nodeOf s ctx node with
      | none => s
      | some n => match n.kill with
        | none => s
        | some (code, fatal) =>
          if !nodeDrained s ctx node then s
          else if fatal then killNode s ctx node n
          else settle s ctx node code n)

/-- PACKAGE_HALT: an uncorrectable error in hub state that contexts share kills every context (R395). -/
def execPackageHalt (s : State) : Host.Outcome State Fault Refusal :=
  let e : ErrRec := { kind := 16, trap := 0, sev := 4, out := 5, core := 0, side := false, aux := 0, node := 0, addr := 0 }
  let s1 := logPkg { s with hub := { s.hub with halted := true } } e
  .next ((s1.hub.ctxs.map (·.1)).foldl (fun s c => killContext s c 0) s1)

/-! ### Acknowledgment registers (R399, R438) -/

/-- May a ring of `n` records with a head take an acknowledgment (R399)? (DEDUCED, log 87) -/
def ackOk (head v : BitVec 32) (n : Nat) : Bool := decide ((head - v).toNat ≤ n)

/-- ERACK_WRITE (R399). -/
def execErackWrite (ctx : Nat) (v : BitVec 32) (s : State) : Host.Outcome State Fault Refusal :=
  .next (if (ctxOf s ctx).state ≠ 0 ∧ ackOk (ctxOf s ctx).erhead v (recN (ctxOf s ctx).record 48 4) then
    modCtx s ctx (fun x => { x with erack := v }) else s)

/-- PEACK_WRITE (R399). -/
def execPeackWrite (v : BitVec 32) (s : State) : Host.Outcome State Fault Refusal :=
  .next (if ackOk s.hub.ring.head v s.hub.ring.n.toNat then
    { s with hub := { s.hub with ring := { s.hub.ring with ack := v } } } else s)

/-- TLACK_WRITE (R438). -/
def execTlackWrite (v : BitVec 32) (s : State) : Host.Outcome State Fault Refusal :=
  .next (if ackOk s.health.ring.head v s.health.ring.n.toNat then
    { s with health := { s.health with ring := { s.health.ring with ack := v } } } else s)

/-! ### Scrubbers (R390, R391, R443) -/

/-- The record of an error that a scrubber finds (R398): of SRAM it names the core. (DEDUCED, log 86) -/
def scrubRec (kind sev out aux pa : Nat) : ErrRec :=
  { kind := kind, trap := 0, sev := sev, out := out, core := if paSpace pa = 0 then paCore pa else 0, side := false, aux := aux
    node := 0, addr := rowBase pa }

/-- What a scrub read finds: a corrected error leaves the value, an uncorrectable one poisons the row (R390).
(DEDUCED, log 86) -/
def scrub (s : State) (pa : Nat) : ScrubRead → State
  | .clean => s
  | .corrected n => logPkg s (scrubRec 1 1 0 n pa)
  | .uncorrectable => if marked s pa then s else logPkg (poisonRow s pa) (scrubRec 3 2 1 0 pa)

/-- SRAM_SCRUB (R390). (DESIGN CHOICE, log 9; DEDUCED, log 92) -/
def execSramScrub (pa : Nat) (found : ScrubRead) (s : State) : Host.Outcome State Fault Refusal :=
  if paPkg pa ≠ s.pkg.toNat ∨ paSpace pa ≠ 0 then .next s
  else if !storageOk s pa then .fault (.noStorage pa)
  else .next (scrub s pa found)

/-- Count what a scrub finds in a stack's health register: one corrected error, or an uncorrectable one that is new (R443).
(DEDUCED, log 86) -/
def countScrub (s : State) (pa : Nat) : ScrubRead → State
  | .clean => s
  | .corrected _ => countStack s pa (some 1)
  | .uncorrectable => if marked s pa then s else countStack s pa none

/-- HBM_SCRUB (R390, R443). (DESIGN CHOICE, log 9) -/
def execHbmScrub (pa : Nat) (found : ScrubRead) (s : State) : Host.Outcome State Fault Refusal :=
  if paPkg pa ≠ s.pkg.toNat ∨ paSpace pa ≠ 1 then .next s
  else if !storageOk s pa then .fault (.noStorage pa)
  else .next (scrub (countScrub s pa found) pa found)

end Sys2Proof.Machine
end

