-- ==== Sys2Proof/Machine/Loader.lean ====
section
/-!
DEFINITION. The load of an image (R260, R262, R265, R287, R293, R415, R423): what the table loader refuses, the majority sets
it allocates, and the image it leaves for launches. The checks of a file's text are host software (log 100).
-/
namespace Sys2Proof.Machine

/-! ### Majority sets (R422, R423) -/

/-- Do two ranges of bytes meet? -/
def spansMeet (a n b m : Nat) : Bool := decide (a < b + m) && decide (b < a + n)

/-- The storage of a request's cells on the stack of a member, in whole 4 KiB blocks (R290, R423). -/
def cellSpan (s : State) (r : MajReq) (k : Nat) : Nat × Nat :=
  (s.pkg.toNat * 2 ^ 48 + 2 ^ 46 + k * 2 ^ 36 + r.off / 4096 * 4096, 64 * r.cells + r.off % 4096)

/-- Meet the cells of a request a region that a template maps? Those of majority regions stand in sets of their own. -/
def cellsMeet (s : State) (r : MajReq) (i : Image) : Bool :=
  i.tmpl.any (fun t => t.2.any (fun e => e.2.w0.getLsbD 63 && !e.2.mj && (e.2.bases 0).any (fun b => r.places.any (fun k =>
    regionsMeet (cellSpan s r k).1 (cellSpan s r k).2 b (2 ^ e.2.lsz)))))

/-- May the cells of a request stand where the loader places them: three or five trained stacks of distinct groves, inside each
of them, clear of retired storage, of the regions of every image loaded, and of the cells of every set allocated (R420, R423)?
(DEDUCED, log 100) -/
def majFits (s : State) (r : MajReq) : Bool :=
  (r.n == 3 || r.n == 5) && r.places.length == r.n && decide (1 ≤ r.cells) && decide (r.off % 64 = 0) &&
  decide (r.off + 64 * r.cells ≤ 48 * 2 ^ 30) && r.places.all (fun k => decide (k < 16) && s.hub.rdy.getLsbD (16 + k)) &&
  decide ((r.places.map (· / 2)).eraseDups.length = r.n) &&
  r.places.all (fun k => !meetsRetired s (cellSpan s r k).1 (cellSpan s r k).2) &&
  s.hub.ctxs.all (fun x => x.2.imgs.all (fun i => !cellsMeet s r i.2)) &&
  s.hub.mjs.all (fun m => !m.2.reg.getLsbD 63 || !spansMeet m.2.base (64 * m.2.cells) r.off (64 * r.cells) ||
    !(List.range m.2.n).any (fun i => r.places.contains (m.2.stack i)))

/-- The lowest free set (R423). -/
def freeSet (s : State) : Option Nat := (List.range 32).find? (fun i => !(mjsOf s i).reg.getLsbD 63)

/-- The register of a set with all its members up (R422). -/
def setReg (r : MajReq) : Word :=
  BitVec.ofNat 64 (2 ^ 63 + r.n * 2 ^ 32 + joinN 4 r.places)

/-- The tag of a copy as it starts: `STATE` 0x00, writer and counter 0 (R150, R423). -/
def freshTag (s : State) (pa : Nat) : State := writePart s pa 0 (BitVec.ofNat 64 (0xFFFF * 2 ^ 48))

/-- Allocate a request: the lowest free set, with fresh cells on every member. None when no set or no room is left. -/
def allocSet (s : State) (r : MajReq) : Option (Nat × State) :=
  match freeSet s with
  | none => none
  | some i =>
    if !majFits s r then none
    else
      let s1 := modMjs s i (fun _ => { reg := setReg r, base := r.off, cells := r.cells, lag := [], walk := false })
      some (i, (List.range r.cells).foldl (fun s c => (List.range r.n).foldl (fun s k =>
        freshTag s (copyPa s (mjsOf s i) (r.off + 64 * c) k)) s) s1)

/-- The base of a majority region (R422). -/
def setBase (s : State) (set off : Nat) : Nat := s.pkg.toNat * 2 ^ 48 + 2 ^ 46 + set * 2 ^ 40 + off

/-- The templates name the set that a region's cells lie in. -/
def nameSet (reg base : Nat) (i : Image) : Image :=
  { i with tmpl := i.tmpl.map (fun t => (t.1, t.2.map (fun e =>
      if e.2.mj && e.2.reg == reg then (e.1, { e.2 with w1 := BitVec.ofNat 64 base }) else e))) }

/-- Allocate the requests of a load one after another. -/
def allocSets (s : State) (i : Image) : List MajReq → Option (State × Image)
  | [] => some (s, i)
  | r :: t => match allocSet s r with
    | none => none
    | some (k, s1) => allocSets s1 (nameSet r.reg (setBase s k r.off) i) t

/-! ### Entries (R287, R293, R298) -/

/-- Does a range of storage of an entry exist, none of it retired (R287, R289, R290, R420)? SRAM and HBM are laid out alike in
every package; which second tier another package has is its own matter. -/
def rangeOk (s : State) (b n : Nat) : Bool :=
  !meetsRetired s b n && (match paSpace b with
    | 0 => (List.range (n / 2 ^ 16)).all (fun i => sramOk (paOff b + i * 2 ^ 16))
    | 1 => hbmOk (paOff b) && hbmOk (paOff b + n - 64)
    | 2 => decide (paPkg b ≠ s.pkg.toNat) ||
      (storageOk s b && storageOk s (b + n - 64) && (List.range (n / 2 ^ 28)).all (fun i => storageOk s (b + i * 2 ^ 28)))
    | _ => false)

/-- Does a majority region lie within the cells of an allocated set (R287)? -/
def majRegion (s : State) (e : TEntry) : Bool :=
  let b := wf e.w1 0 56
  let m := mjsOf s (fld b 40 5)
  m.reg.getLsbD 63 && decide (paPkg b = s.pkg.toNat) && decide (paSpace b = 1) && decide (fld b 45 1 = 0) && decide (fld b 36 4 = 0) &&
    decide (m.base ≤ fld b 0 36) && decide (fld b 0 36 + 2 ^ e.lsz ≤ m.base + 64 * m.cells)

/-- Does `SYA` of an entry agree with the system-atomic map at each granule of its storage (R421)? -/
def syaOk (s : State) (sya : Bool) (b n : Nat) : Bool :=
  decide (paPkg b ≠ s.pkg.toNat) || decide (1 < paSpace b) || (granules b n).all (fun g => s.hub.samap.contains g == sya)

/-- Does the table loader take an entry for a core (R287, R293, R298, R421)? -/
def entryOk (s : State) (ctx core : Nat) (e : TEntry) : Bool :=
  let n := 2 ^ e.lsz
  let bases := [wf e.w1 0 56] ++ (if e.shp then [wf e.w2 0 56] else [])
  !e.w0.getLsbD 63 ||
  (decide (wf e.w0 54 9 = 0) && decide (16 ≤ e.lsz) && decide (e.lsz ≤ 40) && decide (wf e.w0 16 32 * 65536 % n = 0) &&
   decide (wf e.w1 56 8 = 0) && bases.all (fun b => decide (b % n = 0)) && (if e.shp then decide (wf e.w2 56 8 = 0) else e.w2 == 0) &&
   decide (wf e.w3 16 48 = 0) && decide (wf e.w3 0 2 = 0) && decide (e.lcl ≠ 5) && decide (e.lcl ≠ 6) &&
   !(e.res == 3 && (e.px || bases.any (fun b => decide (paSpace b = 2)))) &&
   (!e.per || (decide (e.lsz ≤ 22) && bases.all (fun b => decide (paSpace b = 0)))) &&
   (if e.mj then !e.shp && majRegion s e else (e.bases core).all (fun b => rangeOk s b n && syaOk s e.sya b n)) && reaches s ctx core e)

/-- An entry of a region with no shadow, from its virtual base [47:16], size, physical base, permissions, class and `PER`
(R286). -/
def mkEntry (va : BitVec 32) (lsz base prm lcl per reg : Nat) : TEntry :=
  { w0 := BitVec.ofNat 64 (2 ^ 63 + lsz * 2 ^ 48 + va.toNat * 2 ^ 16), w1 := BitVec.ofNat 64 base, w2 := 0
    w3 := BitVec.ofNat 64 (prm * 2 ^ 13 + lcl * 2 ^ 10 + per * 4), reg := reg }

/-- The permissions of a section (R415). -/
def SectKind.prm : SectKind → Nat
  | .code => 5
  | .data => 6
  | .rodata => 4

/-- The size of a section's region: rounded up to a power of two, at least 64 KiB (R415). -/
def sectLsz (n : Nat) : Option Nat := ((List.range 25).find? (fun i => decide (n ≤ 2 ^ (16 + i)))).map (16 + ·)

/-- The entry of a section: in HBM, of class LC4 when the context's partition holds a share of it (R377, R415).
(DEDUCED, log 100) -/
def sectEntry (s : State) (ctx : Nat) (x : Sect) : Option TEntry :=
  let lc := if 0 < wf (tget 0 s.hub.part (recN (ctxOf s ctx).record 0 1)) 0 8 then 4 else 7
  if paSpace x.base.toNat ≠ 1 then none else (sectLsz x.size).map (fun n => mkEntry x.va n x.base.toNat x.kind.prm lc 0 x.reg)

/-- The argument-row entry of a core: rows 1,024 to 2,047 of its own top bank, class LC0, read and write (R273).
(DEDUCED, log 100) -/
def argEntry (core : Nat) (va : BitVec 32) (reg : Nat) : TEntry := mkEntry va 16 (if isRoot core then 0x1F0000 else 0x3F0000) 6 0 1 reg

/-- The entries of sections, numbered from `n` on; none when one of them can lie nowhere. -/
def sectEntries (s : State) (ctx : Nat) : Nat → List Sect → Option (Tbl TEntry)
  | _, [] => some []
  | n, x :: t => match sectEntry s ctx x, sectEntries s ctx (n + 1) t with
    | some e, some r => some ((n, e) :: r)
    | _, _ => none

/-- The template of a core: the requests at entries 0 on, the sections after them, the argument rows at entry 255; none when they
need more than 255 entries besides (R415). (DEDUCED, log 100) -/
def fullTable (s : State) (l : Load) (core : Nat) (t : Tbl TEntry) : Option (Tbl TEntry) :=
  if t.map (·.1) ≠ List.range t.length ∨ 255 < t.length + l.secs.length then none
  else (sectEntries s l.ctx t.length l.secs).map (· ++ [(255, argEntry core l.argVa l.argReg)])

/-- The templates of the logical cores of a stand from position `k` on. -/
def fullTables (s : State) (l : Load) (i : Image) : Nat → List Nat → Option (Tbl (Tbl TEntry))
  | _, [] => some []
  | k, c :: r => match fullTable s l c (tmplOf i k), fullTables s l i (k + 1) r with
    | some t, some u => some ((k, tmplOf i k ++ t) :: u)
    | _, _ => none

/-- Does the loader take the templates: tables for logical cores of the stand, of entries it takes (R415)? -/
def tablesOk (s : State) (ctx : Nat) (m : Nat) (roots : Bool) (i : Image) : Bool :=
  i.tmpl.all (fun t => match (standCores m roots)[t.1]? with
    | none => false
    | some c => t.2.all (fun e => entryOk s ctx c e.2))

/-! ### The load (R260, R262) -/

/-- The load number of the next image of a context (R265). -/
def nextSeq (x : Ctx) : Nat := x.imgs.foldl (fun a i => max a i.1) 0 + 1

/-- Set the bits of the system-atomic map for the requests that are system-atomic (R260, R421). -/
def setAtoms (s : State) (l : List (Nat × Nat)) : State :=
  { s with hub := { s.hub with samap := (s.hub.samap ++ l.flatMap (fun r => granules r.1 r.2)).eraseDups } }

/-- Does the file's signature let it load: a signed one verifies, and a context that requires signed code refuses an unsigned one
(R259)? (DESIGN CHOICE, log 8; DEDUCED, log 100) -/
def signOk (s : State) (l : Load) : Bool :=
  if l.signed then l.verifies else !(recN (ctxOf s l.ctx).record 1 1).testBit 1

/-- Load an image for a live context: the image identifier and the state, or none: a load that fails leaves nothing behind
(R260, R262, R265). No producer uses drawn placement (R359). (DEDUCED, log 100) -/
def loadImage (s : State) (l : Load) : Option (Nat × State) :=
  let cores := standCores l.stand.toNat l.roots
  if (ctxOf s l.ctx).state ≠ 1 ∨ !signOk s l ∨ l.image.prods.any (fun p => recN p.2 34 1 ≠ 0) ∨
    l.image.tmpl.any (fun t => decide (cores.length ≤ t.1)) then none
  else match allocSets s l.image l.majs with
    | none => none
    | some (t0, i0) => match fullTables t0 l i0 0 cores with
      | none => none
      | some tabs =>
        let t := if l.atoms.isEmpty then t0 else setAtoms t0 l.atoms
        let i := { i0 with tmpl := tabs }
        if !tablesOk t l.ctx l.stand.toNat l.roots i || l.majs.any (fun r => cellsMeet t r i) then none
        else
          let n := nextSeq (ctxOf s l.ctx)
          some (l.ctx * 2 ^ 60 + n, modCtx t l.ctx (fun x => { x with imgs := tput x.imgs n i }))

end Sys2Proof.Machine
end

