-- ==== Sys2Proof/Machine/HostIf.lean ====
section
/-!
DEFINITION. The host's side of the device (R5, R325, R357, R376, R379, R399, R400, R410, R417, R419, R422, R431,
R438, R441): memory accesses, AtomicOps, and writes of the registers that have no row of their own.
-/
namespace Sys2Proof.Machine

/-! ### Memory accesses and AtomicOps (R325, R376) -/

/-- A request that names storage is performed at its home, or held at its port (R325, R420). -/
def takeHost (s : State) (q : HostReq) : State :=
  match heldBy s q with
  | some m => modMig { s with replies := [] } m (fun x => { x with held := x.held ++ [q] })
  | none => performHost { s with replies := [] } q (reqPa s q)

/-- HOST_ATOMIC: performed at the home unit of its word, which returns the old value, or rejected with Unsupported Request
status and a record in the context's ring (R325). (DESIGN CHOICE, log 21; DEDUCED, log 68) -/
def execHostAtomic (a : HostAtomic) (s : State) : Host.Outcome State Fault Refusal :=
  .next (if s.can.norec then { s with replies := [] }
    else if !hostAtomicOk s a then
      { logCtx s a.ctx { kind := 10, trap := 0, sev := 0, out := 0, core := 0, side := false
                         aux := Config.cxlOpcode (hostOpNum a.op) a.size, node := 0, addr := a.pa } with replies := [.unsupported] }
    else takeHost s (.atomic a))

/-! ### Register writes (R5) -/

/-- Turn a port off: what went over it is replayed over the route that is installed for it (R400, R408). (DEDUCED, log 88) -/
def portOff (s : State) (p : Nat) : State := modPort (failPort s p) p (fun q => setPst q 0 0)

/-- A write of `PORT`p (R400): `SHT` is stored; `EN` = 1 trains the link, `EN` = 0 turns the port off.
(DEDUCED, log 88) -/
def writePort (s : State) (p : Nat) (v : Word) : Host.Outcome State Fault Refusal :=
  let s1 := modPort s p (fun q => { q with reg := setFld (setFld q.reg 20 4 (wf v 20 4)) 0 1 (wf v 0 1) })
  if v.getLsbD 0 then execPortEnable p s1
  else if pst s p = 0 then .next s1 else .next (portOff s1 p)

/-- A write of the mailbox command register (R431): it makes a command pending; while one is pending, or when the
canopy never started (R435), it is answered at once. (DEDUCED, log 88) -/
def writeMail (s : State) (v : Word) : State :=
  if s.can.mpend then { s with can := { s.can with mres := BitVec.ofNat 64 (2 ^ 63 + 2) } }
  else
    let s1 := { s with can := { s.can with mcmd := v, mpend := true, mres := 0 } }
    if s.hub.rfl.getLsbD 0 || s.can.norec then mailDone s1 1 else s1

/-- A write of a register of a migration slot (R419): RW while idle; `MGO` starts or resets the slot.
(DEDUCED, log 88) -/
def writeMig (s : State) (m off : Nat) (v : Word) : Host.Outcome State Fault Refusal :=
  let put := fun (g : Mig → Mig) => if (migOf s m).mst = 0 then modMig s m g else s
  match off with
  | 0 => .next (put (fun x => { x with mds0 := v.setWidth 56 }))
  | 8 => .next (put (fun x => { x with mds1 := v.setWidth 56 }))
  | 16 =>
    let t := put (fun x => { x with mctx := v.extractLsb' 60 4, mreg := v.extractLsb' 32 16, mret := v.getLsbD 1 })
    if v.getLsbD 0 then execMigrationStart m t else execMigrationReset m t
  | _ => .next s

/-- A write of `MJS`s (R422, R424): the stack of a down member, then the states. (DEDUCED, log 88) -/
def writeMjs (s : State) (set : Nat) (v : Word) : Host.Outcome State Fault Refusal :=
  let m := mjsOf s set
  let downs := (List.range m.n).filter (fun i => m.mem i == 1)
  let s1 := if m.reg.getLsbD 63 then
      modMjs s set (fun m => { m with reg := downs.foldl (fun r i => setFld r (4 * i) 4 (wf v (4 * i) 4)) m.reg })
    else s
  .next ((List.range m.n).foldl (fun s i => match execMhsWrite set i (v.extractLsb' (40 + 2 * i) 2) s with
    | .next t => t
    | _ => s) s1)

/-- The ring base and size registers (R399, R438): a base must be HBM and aligned, a size a power of two in its range or
zero; anything else is discarded. Reserved bits are dropped (R5). (DEDUCED, log 87) -/
def ringReg (s : State) (r : RecRing) (size : Bool) (lo hi : Nat) (v : Word) : RecRing :=
  if size then (if wf v 0 32 = 0 ∨ pow2In lo hi (wf v 0 32) then { r with n := v.setWidth 32 } else r)
  else if hbmAt s (wf v 0 56) 64 then { r with base := v.setWidth 56 } else r

/-- Registers of the package (R399, R400, R410, R419, R422, R431, R438, R441). -/
def writePkgReg (s : State) (off : Nat) (v : Word) : Host.Outcome State Fault Refusal :=
  let perr := fun (b : Bool) => { s with hub := { s.hub with ring := ringReg s s.hub.ring b 6 20 v } }
  let tele := fun (b : Bool) => { s with health := { s.health with ring := ringReg s s.health.ring b 9 24 v } }
  if off = 0x1100 then .next (perr false)
  else if off = 0x1108 then .next (perr true)
  else if off = 0x1200 then .next { s with hub := { s.hub with fcfg := v &&& 0xFFFFFFFF00000000 } }
  else if 0x2000 ≤ off ∧ off < 0x2200 then writePort s ((off - 0x2000) / 8) v
  else if 0x5000 ≤ off ∧ off < 0x5080 then writeMig s ((off - 0x5000) / 32) (off % 32) v
  else if off = 0x5080 then .next { s with hub := { s.hub with marea := v.setWidth 56 &&& 0xFFFFFFFE000000 } }
  else if 0x5100 ≤ off ∧ off < 0x5200 then writeMjs s ((off - 0x5100) / 8) v
  else if off = 0x6000 then .next (writeMail s v)
  else if off = 0x6010 then .next { s with can := { s.can with mnon := setFld s.can.mnon 0 64 v.toNat } }
  else if off = 0x6018 then .next { s with can := { s.can with mnon := setFld s.can.mnon 64 64 v.toNat } }
  else if off = 0x7400 then .next (tele false)
  else if off = 0x7408 then .next (tele true)
  else if off = 0x7428 then
    .next (if wf v 32 8 ≤ wf v 40 8 ∨ wf v 16 8 ≤ wf v 8 8 then s
      else { s with health := { s.health with tthr := v &&& 0x0000FFFF00FFFFFF } })
  else .next s

/-- Registers of a context page (R378, R379, R399, R417, R348). (DEDUCED, log 87) -/
def writePageReg (s : State) (c off : Nat) (v : Word) : Host.Outcome State Fault Refusal :=
  let x := ctxOf s c
  if off = 0x028 then execErackWrite c (v.setWidth 32) (modCtx s c (fun x => { x with eirq := v.getLsbD 63 }))
  else if off = 0x040 then
    .next (if x.state = 0 then modCtx s c (fun x => { x with shtb := v.setWidth 56 &&& 0xFFFFFFFFFFFFC0 }) else s)
  else if off = 0x048 then .next (if x.state = 0 then modCtx s c (fun x => { x with shtn := v.setWidth 16 }) else s)
  else if 0x100 ≤ off ∧ off < 0x180 then
    .next (if x.state = 0 then modCtx s c (fun x => { x with record := setFld x.record (8 * (off - 0x100)) 64 v.toNat }) else s)
  else if 0x1000 ≤ off ∧ off < 0x1400 then
    let q := (off - 0x1000) / 64
    .next (match off % 64 with
      | 0 => modQueue s c q (fun y => { y with base := v.setWidth 56 &&& 0xFFFFFFFFFFE000 })
      | 8 => modQueue s c q (fun y => { y with int := v.getLsbD 2, kind := v.getLsbD 1, en := v.getLsbD 0 })
      | _ => s)
  else if 0x8000 ≤ off then .next (chainWrite s c (off - 0x8000) v)
  else .next s

/-- Does BAR0 answer at an offset: with no valid configuration record, only the mailbox does (R435)? -/
def regAnswers (s : State) (off : Nat) : Bool := !s.can.norec || (decide (0x6000 ≤ off) && decide (off < 0x6020))

/-- REGISTER_WRITE: a write to a register with no row of its own, by its offset in BAR0 (R5, R376); a write elsewhere, or
of a read-only register, is discarded. (DEDUCED, logs 87 and 94) -/
def execRegisterWrite (off : Nat) (v : Word) (s : State) : Host.Outcome State Fault Refusal :=
  if off % 8 ≠ 0 ∨ 0x200000 ≤ off ∨ !regAnswers s off then .next s
  else if off < 0x100000 then writePkgReg s off v
  else writePageReg s ((off - 0x100000) / 0x10000) (off % 0x10000) v

/-- A write of `TD` and `CR` of a context page (R379). -/
def writeState (s : State) (c : Nat) (v : Word) : Host.Outcome State Fault Refusal :=
  let t := if v.getLsbD 1 ∧ (ctxOf s c).state = 1 then startTeardown s c else s
  execContextCreate c v t

/-- What a host write of a register that has a row of its own does, none for the others: `PKEY`, `PART`, `PERACK`, `TDEC`,
`TLACK`; of a context page `TD` and `CR`, `PRS`, `CNUM`; of its chain block `GO`, `SMAX`, `CSLOT` (R348, R376, R377, R379, R399,
R413, R438, R446). (DEDUCED, log 94) -/
def writeOwn (s : State) (off : Nat) (v : Word) : Option (Host.Outcome State Fault Refusal) :=
  if off = 0x110 then some (execPackageReset (v.setWidth 16) s)
  else if 0x1000 ≤ off ∧ off < 0x1040 then some (execPartWrite ((off - 0x1000) / 8) v s)
  else if off = 0x1118 then some (execPeackWrite (v.setWidth 32) s)
  else if 0x3100 ≤ off ∧ off < 0x3200 then
    let d := (off - 0x3100) / 16
    let w := tget (0, 0) s.fab.tdec d
    some (if off % 16 = 0 then execTdecWrite d v w.2 s else execTdecWrite d w.1 v s)
  else if off = 0x7418 then some (execTlackWrite (v.setWidth 32) s)
  else if off < 0x100000 then none
  else
    let c := (off - 0x100000) / 0x10000
    match off % 0x10000 with
    | 0 => some (writeState s c v)
    | 8 => some (if v.getLsbD 32 then execPreemptNode c (wf v 0 32) s else execResumeNode c (wf v 0 32) s)
    | 0x10 => some (execEventCounterWrite c (v.setWidth 16) (v.extractLsb' 16 32) s)
    | 0x8008 =>
      let t := chainWrite s c 8 v
      some (if v.getLsbD 0 then execChainGo c t else execChainStop c t)
    | 0x8018 => some (execSmaxWrite c (v.extractLsb' 40 8) s)
    | 0x8028 => some (execCslotWrite c (v.setWidth 16) s)
    | _ => none

/-- A host write into the intake row of a queue (R380): one that covers word 0 submits, with zeros for the bytes it leaves out; one
of other words only is no submission, and is discarded with an event unless it is all zero. (DEDUCED, log 94) -/
def writeIntake (s : State) (c q off v : Nat) : Host.Outcome State Fault Refusal :=
  if off = 0 then execIntakeWrite c q (BitVec.ofNat 512 v) s
  else if v = 0 then .next s else .next (logDiscard s c q)

/-- A host write in BAR0: an intake row, a register with a row of its own, or another register (R376, R380).
(DEDUCED, log 94) -/
def hostReg (s : State) (a : HostAccess) : Host.Outcome State Fault Refusal :=
  let n := joinN 8 (a.data.map BitVec.toNat)
  let v : Word := BitVec.ofNat 64 n
  if a.off % 8 ≠ 0 ∨ 0x200000 ≤ a.off ∨ !regAnswers s a.off then .next s
  else if 0x100000 ≤ a.off ∧ 0x2000 ≤ a.off % 0x10000 ∧ a.off % 0x10000 < 0x2400 then
    writeIntake s ((a.off - 0x100000) / 0x10000) ((a.off % 0x10000 - 0x2000) / 64) (a.off % 64) n
  else (writeOwn s a.off v).getD (execRegisterWrite a.off v s)

/-! ### Host accesses (R376) -/

/-- The registers of the package as the host reads them; WO registers, reserved bits and unlisted offsets read zero (R5, R377,
R399, R400, R407, R410, R413, R419, R422, R427, R431, R432, R438, R441, R443). -/
def readPkgReg (s : State) (off : Nat) : Word :=
  let num := fun (n : Nat) => BitVec.ofNat 64 n
  let ring := fun (r : RecRing) (i : Nat) => match i with
    | 0 => r.base.setWidth 64
    | 1 => r.n.setWidth 64
    | 2 => r.head.setWidth 64
    | _ => r.ack.setWidth 64
  if off = 0x100 then s.hub.rdy
  else if off = 0x108 then s.hub.rfl
  else if 0x1000 ≤ off ∧ off < 0x1040 then tget 0 s.hub.part ((off - 0x1000) / 8)
  else if 0x1100 ≤ off ∧ off < 0x1120 then ring s.hub.ring ((off - 0x1100) / 8)
  else if off = 0x1200 then s.hub.fcfg
  else if 0x2000 ≤ off ∧ off < 0x2200 then (tget Port.off s.fab.ports ((off - 0x2000) / 8)).reg
  else if 0x3100 ≤ off ∧ off < 0x3200 then
    let d := tget (0, 0) s.fab.tdec ((off - 0x3100) / 16)
    if off % 16 = 0 then d.1 else d.2
  else if 0x4000 ≤ off ∧ off < 0x4800 then tget 0 s.fab.rt ((off - 0x4000) / 8)
  else if 0x5000 ≤ off ∧ off < 0x5080 then
    let m := migOf s ((off - 0x5000) / 32)
    match off % 32 with
    | 0 => m.mds0.setWidth 64
    | 8 => m.mds1.setWidth 64
    | 16 => num (m.mctx.toNat * 2 ^ 60 + m.mreg.toNat * 2 ^ 32 + m.mret.toNat * 2)
    | _ => num (m.dirty.length * 2 ^ 32 + m.mpass * 16 + m.mst)
  else if off = 0x5080 then s.hub.marea.setWidth 64
  else if 0x5100 ≤ off ∧ off < 0x5200 then (mjsOf s ((off - 0x5100) / 8)).reg
  else if off = 0x6000 then s.can.mcmd
  else if off = 0x6008 then s.can.mres
  else if off = 0x6010 then s.can.mnon.extractLsb' 0 64
  else if off = 0x6018 then s.can.mnon.extractLsb' 64 64
  else if 0x7000 ≤ off ∧ off < 0x7200 then isltOf s ((off - 0x7000) / 8)
  else if 0x7200 ≤ off ∧ off < 0x7240 then railReg s (64 + (off - 0x7200) / 8)
  else if 0x7400 ≤ off ∧ off < 0x7420 then ring s.health.ring ((off - 0x7400) / 8)
  else if off = 0x7420 then s.health.tmx
  else if off = 0x7428 then s.health.tthr
  else if 0x7500 ≤ off ∧ off < 0x7580 then tget 0 s.health.shlt ((off - 0x7500) / 8)
  else 0

/-- The registers of a chain context as the host reads them (R348). -/
def readChainReg (c : Chain) (off : Nat) : Word :=
  let num := fun (n : Nat) => BitVec.ofNat 64 n
  if off = 0 then c.w0
  else if off = 8 then c.w8
  else if off = 0x10 then c.crec
  else if off = 0x18 then num (c.dfree * 2 ^ 48 + c.smax * 2 ^ 40 + c.stash * 2 ^ 32 + c.why * 2 ^ 24 + c.cur)
  else if off = 0x20 then c.cpass.setWidth 64
  else if off = 0x28 then c.cslot.setWidth 64
  else if off = 0x30 then c.cerr
  else if 0x40 ≤ off ∧ off < 0x80 then tget 0 c.bub ((off - 0x40) / 8)
  else if 0x400 ≤ off ∧ off < 0x1000 then (tget 0 c.rdy ((off - 0x400) / 8)).setWidth 64
  else if 0x1000 ≤ off ∧ off < 0x2000 then (tget 0 c.ents ((off - 0x1000) / 16)).extractLsb' (off % 16 * 8) 64
  else 0

/-- The registers of a context page as the host reads them (R348, R379, R399, R417). -/
def readPageReg (s : State) (c off : Nat) : Word :=
  let x := ctxOf s c
  let num := fun (n : Nat) => BitVec.ofNat 64 n
  if off = 0 then num (x.state.toNat * 4)
  else if off = 0x18 then num (x.tdq.toNat * 2 ^ 32 + x.tddev.toNat)
  else if off = 0x20 then x.erhead.setWidth 64
  else if off = 0x28 then num (x.eirq.toNat * 2 ^ 63 + x.erack.toNat)
  else if off = 0x40 then x.shtb.setWidth 64
  else if off = 0x48 then x.shtn.setWidth 64
  else if 0x100 ≤ off ∧ off < 0x180 then x.record.extractLsb' (8 * (off - 0x100)) 64
  else if 0x1000 ≤ off ∧ off < 0x1400 then
    let q := queueOf s c ((off - 0x1000) / 64)
    match off % 64 with
    | 0 => q.base.setWidth 64
    | 8 => num (q.int.toNat * 4 + q.kind.toNat * 2 + q.en.toNat)
    | 16 => q.head.setWidth 64
    | _ => 0
  else if 0x8000 ≤ off then
    match x.chain with
    | some k => readChainReg k (off - 0x8000)
    | none => 0
  else 0

/-- A register of BAR0 as the host reads it (R5, R376). -/
def readReg (s : State) (off : Nat) : Word :=
  if off % 8 ≠ 0 ∨ 0x200000 ≤ off then 0
  else if off < 0x100000 then readPkgReg s off
  else readPageReg s ((off - 0x100000) / 0x10000) (off % 0x10000)

/-- HOST_MEMORY_ACCESS (R376). The accesses by which `yild` loads an image count as one (R260). In BAR0, an aligned word of a
register is read, or written as the event of its row, or REGISTER_WRITE, does. In an HDM range, the access is performed at its
home, or held at its port while a migration switches its source (R420); one to absent storage reads all ones or is discarded, and
is logged. Without a valid configuration record nothing but the mailbox answers (R435). (DEDUCED, logs 94 and 100) -/
def execHostMemoryAccess (a : HostAccess) (s : State) : Host.Outcome State Fault Refusal :=
  match a.region, a.write with
  | .bar0, false => .next { s with replies := if !regAnswers s a.off then [] else [.data ((List.range 8).map (fun i => (readReg s a.off).extractLsb' (8 * i) 8)) false] }
  | .bar0, true => hostReg { s with replies := [.done] } a
  | .image l, _ => .next (match (if s.can.norec then none else loadImage s l) with
    | some (i, t) => { t with replies := [.loaded (some i)] }
    | none => { s with replies := [.loaded none] })
  | _, _ => .next (if s.can.norec then { s with replies := [] } else if hostOk s a then takeHost s (.access a)
    else { logPkg s { kind := 14, trap := 0, sev := 0, out := 0, core := 0, side := false, aux := 0, node := 0, addr := hostPa s a } with
      replies := [if a.write then .done else .data (List.replicate a.len 0xFF) false] })

/-! ### The order log (R357) -/

/-- LOG_ACKNOWLEDGMENT: the driver has consumed the records before position `n` (R357). (DEDUCED, log 58) -/
def execLogAcknowledgment (ctx n : Nat) (s : State) : Host.Outcome State Fault Refusal :=
  .next (if (ctxOf s ctx).logack ≤ n ∧ n ≤ (ctxOf s ctx).logpos then modCtx s ctx (fun x => { x with logack := n }) else s)

end Sys2Proof.Machine
end

