-- ==== Sys2Proof/Machine/Dispatch.lean ====
section
/-!
DEFINITION. The one dispatch of every instruction to its meaning.
-/
namespace Sys2Proof.Machine

def exec (i : Instr) (s : State) : Host.Outcome State Fault Refusal :=
  match i with
  | .nop h => Sys2Proof.Machine.execNop h s
  | .add h o => Sys2Proof.Machine.execAdd h o s
  | .sub h o => Sys2Proof.Machine.execSub h o s
  | .addi h o => Sys2Proof.Machine.execAddi h o s
  | .and h o => Sys2Proof.Machine.execAnd h o s
  | .or h o => Sys2Proof.Machine.execOr h o s
  | .xor h o => Sys2Proof.Machine.execXor h o s
  | .andi h o => Sys2Proof.Machine.execAndi h o s
  | .ori h o => Sys2Proof.Machine.execOri h o s
  | .xori h o => Sys2Proof.Machine.execXori h o s
  | .shl h o => Sys2Proof.Machine.execShl h o s
  | .shr h o => Sys2Proof.Machine.execShr h o s
  | .sra h o => Sys2Proof.Machine.execSra h o s
  | .shli h o => Sys2Proof.Machine.execShli h o s
  | .shri h o => Sys2Proof.Machine.execShri h o s
  | .srai h o => Sys2Proof.Machine.execSrai h o s
  | .mul h o => Sys2Proof.Machine.execMul h o s
  | .mulh h o => Sys2Proof.Machine.execMulh h o s
  | .mulhz h o => Sys2Proof.Machine.execMulhz h o s
  | .div h o => Sys2Proof.Machine.execDiv h o s
  | .divz h o => Sys2Proof.Machine.execDivz h o s
  | .rem h o => Sys2Proof.Machine.execRem h o s
  | .remz h o => Sys2Proof.Machine.execRemz h o s
  | .min h o => Sys2Proof.Machine.execMin h o s
  | .max h o => Sys2Proof.Machine.execMax h o s
  | .minz h o => Sys2Proof.Machine.execMinz h o s
  | .maxz h o => Sys2Proof.Machine.execMaxz h o s
  | .cmp h o => Sys2Proof.Machine.execCmp h o s
  | .cmpi h o => Sys2Proof.Machine.execCmpi h o s
  | .csel h o => Sys2Proof.Machine.execCsel h o s
  | .movi h o => Sys2Proof.Machine.execMovi h o s
  | .movs h o => Sys2Proof.Machine.execMovs h o s
  | .clz h o => Sys2Proof.Machine.execClz h o s
  | .popc h o => Sys2Proof.Machine.execPopc h o s
  | .bfx h o => Sys2Proof.Machine.execBfx h o s
  | .bfi h o => Sys2Proof.Machine.execBfi h o s
  | .fadd h o => Sys2Proof.Machine.execFadd h o s
  | .fsub h o => Sys2Proof.Machine.execFsub h o s
  | .fmul h o => Sys2Proof.Machine.execFmul h o s
  | .ffma h o => Sys2Proof.Machine.execFfma h o s
  | .fmin h o => Sys2Proof.Machine.execFmin h o s
  | .fmax h o => Sys2Proof.Machine.execFmax h o s
  | .fcmp h o => Sys2Proof.Machine.execFcmp h o s
  | .fcvt h o => Sys2Proof.Machine.execFcvt h o s
  | .fsgn h o => Sys2Proof.Machine.execFsgn h o s
  | .pset h o => Sys2Proof.Machine.execPset h o s
  | .pclr h o => Sys2Proof.Machine.execPclr h o s
  | .pand h o => Sys2Proof.Machine.execPand h o s
  | .por h o => Sys2Proof.Machine.execPor h o s
  | .pnot h o => Sys2Proof.Machine.execPnot h o s
  | .bra h o => Sys2Proof.Machine.execBra h o s
  | .brf h o => Sys2Proof.Machine.execBrf h o s
  | .call h o => Sys2Proof.Machine.execCall h o s
  | .ret h o => Sys2Proof.Machine.execRet h o s
  | .jmp h o => Sys2Proof.Machine.execJmp h o s
  | .loop h o => Sys2Proof.Machine.execLoop h o s
  | .loopi h o => Sys2Proof.Machine.execLoopi h o s
  | .lbrk h o => Sys2Proof.Machine.execLbrk h o s
  | .done h o => Sys2Proof.Machine.execDone h o s
  | .trap h o => Sys2Proof.Machine.execTrap h o s
  | .eret h o => Sys2Proof.Machine.execEret h o s
  | .yield h o => Sys2Proof.Machine.execYield h o s
  | .ld h o => Sys2Proof.Machine.execLd h o s
  | .st h o => Sys2Proof.Machine.execSt h o s
  | .ldx h o => Sys2Proof.Machine.execLdx h o s
  | .stx h o => Sys2Proof.Machine.execStx h o s
  | .stg h o => Sys2Proof.Machine.execStg h o s
  | .ldg h o => Sys2Proof.Machine.execLdg h o s
  | .aadd h o => Sys2Proof.Machine.execAadd h o s
  | .aand h o => Sys2Proof.Machine.execAand h o s
  | .aor h o => Sys2Proof.Machine.execAor h o s
  | .axor h o => Sys2Proof.Machine.execAxor h o s
  | .amin h o => Sys2Proof.Machine.execAmin h o s
  | .amax h o => Sys2Proof.Machine.execAmax h o s
  | .aminz h o => Sys2Proof.Machine.execAminz h o s
  | .amaxz h o => Sys2Proof.Machine.execAmaxz h o s
  | .axch h o => Sys2Proof.Machine.execAxch h o s
  | .acas h o => Sys2Proof.Machine.execAcas h o s
  | .afadd h o => Sys2Proof.Machine.execAfadd h o s
  | .mjld h o => Sys2Proof.Machine.execMjld h o s
  | .mjst h o => Sys2Proof.Machine.execMjst h o s
  | .fenceAcquire h o => Sys2Proof.Machine.execFenceAcquire h o s
  | .fenceRelease h o => Sys2Proof.Machine.execFenceRelease h o s
  | .fenceFull h o => Sys2Proof.Machine.execFenceFull h o s
  | .fenceEngineComplete h o => Sys2Proof.Machine.execFenceEngineComplete h o s
  | .fencePublishVisible h o => Sys2Proof.Machine.execFencePublishVisible h o s
  | .bar h o => Sys2Proof.Machine.execBar h o s
  | .evpop h o => Sys2Proof.Machine.execEvpop h o s
  | .evpost h o => Sys2Proof.Machine.execEvpost h o s
  | .launch h o => Sys2Proof.Machine.execLaunch h o s
  | .sysr h o => Sys2Proof.Machine.execSysr h o s
  | .sysw h o => Sys2Proof.Machine.execSysw h o s
  | .tq h o => Sys2Proof.Machine.execTq h o s
  | .chsigReady h o => Sys2Proof.Machine.execChsigReady h o s
  | .chsigReturn h o => Sys2Proof.Machine.execChsigReturn h o s
  | .brel h o => Sys2Proof.Machine.execBrel h o s
  | .vadd h o => Sys2Proof.Machine.execVadd h o s
  | .vsub h o => Sys2Proof.Machine.execVsub h o s
  | .vmul h o => Sys2Proof.Machine.execVmul h o s
  | .vmulh h o => Sys2Proof.Machine.execVmulh h o s
  | .vfma h o => Sys2Proof.Machine.execVfma h o s
  | .vfms h o => Sys2Proof.Machine.execVfms h o s
  | .vfnma h o => Sys2Proof.Machine.execVfnma h o s
  | .vmin h o => Sys2Proof.Machine.execVmin h o s
  | .vmax h o => Sys2Proof.Machine.execVmax h o s
  | .vabs h o => Sys2Proof.Machine.execVabs h o s
  | .vneg h o => Sys2Proof.Machine.execVneg h o s
  | .vand h o => Sys2Proof.Machine.execVand h o s
  | .vor h o => Sys2Proof.Machine.execVor h o s
  | .vxor h o => Sys2Proof.Machine.execVxor h o s
  | .vshl h o => Sys2Proof.Machine.execVshl h o s
  | .vshr h o => Sys2Proof.Machine.execVshr h o s
  | .vsra h o => Sys2Proof.Machine.execVsra h o s
  | .vcmp h o => Sys2Proof.Machine.execVcmp h o s
  | .vsel h o => Sys2Proof.Machine.execVsel h o s
  | .vclamp h o => Sys2Proof.Machine.execVclamp h o s
  | .vmov h o => Sys2Proof.Machine.execVmov h o s
  | .vbcs h o => Sys2Proof.Machine.execVbcs h o s
  | .vext h o => Sys2Proof.Machine.execVext h o s
  | .vins h o => Sys2Proof.Machine.execVins h o s
  | .vred h o => Sys2Proof.Machine.execVred h o s
  | .vshuf h o => Sys2Proof.Machine.execVshuf h o s
  | .vrmg h o => Sys2Proof.Machine.execVrmg h o s
  | .vcvt h o => Sys2Proof.Machine.execVcvt h o s
  | .vpack h o => Sys2Proof.Machine.execVpack h o s
  | .vunpk h o => Sys2Proof.Machine.execVunpk h o s
  | .vqnt h o => Sys2Proof.Machine.execVqnt h o s
  | .vdqnt h o => Sys2Proof.Machine.execVdqnt h o s
  | .vdot4 h o => Sys2Proof.Machine.execVdot4 h o s
  | .vexp2 h o => Sys2Proof.Machine.execVexp2 h o s
  | .vlog2 h o => Sys2Proof.Machine.execVlog2 h o s
  | .vrcp h o => Sys2Proof.Machine.execVrcp h o s
  | .vrsq h o => Sys2Proof.Machine.execVrsq h o s
  | .vsqrt h o => Sys2Proof.Machine.execVsqrt h o s
  | .vtanh h o => Sys2Proof.Machine.execVtanh h o s
  | .vmand h o => Sys2Proof.Machine.execVmand h o s
  | .vmor h o => Sys2Proof.Machine.execVmor h o s
  | .vmnot h o => Sys2Proof.Machine.execVmnot h o s
  | .vmpop h o => Sys2Proof.Machine.execVmpop h o s
  | .vrng h o => Sys2Proof.Machine.execVrng h o s
  | .vld h o => Sys2Proof.Machine.execVld h o s
  | .vst h o => Sys2Proof.Machine.execVst h o s
  | .vstm h o => Sys2Proof.Machine.execVstm h o s
  | .vldt h o => Sys2Proof.Machine.execVldt h o s
  | .vldh h o => Sys2Proof.Machine.execVldh h o s
  | .vsth h o => Sys2Proof.Machine.execVsth h o s
  | .vldx h o => Sys2Proof.Machine.execVldx h o s
  | .vstx h o => Sys2Proof.Machine.execVstx h o s
  | .vxfer h o => Sys2Proof.Machine.execVxfer h o s
  | .vqpush h o => Sys2Proof.Machine.execVqpush h o s
  | .vbld h o => Sys2Proof.Machine.execVbld h o s
  | .mlw h o => Sys2Proof.Machine.execMlw h o s
  | .mma h o => Sys2Proof.Machine.execMma h o s
  | .mmar h o => Sys2Proof.Machine.execMmar h o s
  | .mzr h o => Sys2Proof.Machine.execMzr h o s
  | .mst h o => Sys2Proof.Machine.execMst h o s
  | .mscl h o => Sys2Proof.Machine.execMscl h o s
  | .mnest h o => Sys2Proof.Machine.execMnest h o s
  | .mcop h o => Sys2Proof.Machine.execMcop h o s
  | .smv h o => Sys2Proof.Machine.execSmv h o s
  | .cpy h o => Sys2Proof.Machine.execCpy h o s
  | .cpg h o => Sys2Proof.Machine.execCpg h o s
  | .cps h o => Sys2Proof.Machine.execCps h o s
  | .cptOffload h o => Sys2Proof.Machine.execCptOffload h o s
  | .cptFetch h o => Sys2Proof.Machine.execCptFetch h o s
  | .cpz h o => Sys2Proof.Machine.execCpz h o s
  | .coll h o => Sys2Proof.Machine.execColl h o s
  | .pub h o => Sys2Proof.Machine.execPub h o s
  | .cpf h o => Sys2Proof.Machine.execCpf h o s
  | .cpc h o => Sys2Proof.Machine.execCpc h o s
  | .txp h o => Sys2Proof.Machine.execTxp h o s
  | .txw h o => Sys2Proof.Machine.execTxw h o s
  | .hdef h o => Sys2Proof.Machine.execHdef h o s
  | .hadv h o => Sys2Proof.Machine.execHadv h o s
  | .hqry h o => Sys2Proof.Machine.execHqry h o s
  | .qcfg h o => Sys2Proof.Machine.execQcfg h o s
  | .qspl h o => Sys2Proof.Machine.execQspl h o s
  | .bundle k => Sys2Proof.Machine.execBundle k s
  | .emptyBundle k => Sys2Proof.Machine.execEmptyBundle k s
  | .residencyChange ctx region res => Sys2Proof.Machine.execResidencyChange ctx region res s
  | .blockEntry k => Sys2Proof.Machine.execBlockEntry k s
  | .clearingTokenGrant rail => Sys2Proof.Machine.execClearingTokenGrant rail s
  | .startTokenGrant rail => Sys2Proof.Machine.execStartTokenGrant rail s
  | .regulatorStep core => Sys2Proof.Machine.execRegulatorStep core s
  | .writeBack core => Sys2Proof.Machine.execWriteBack core s
  | .landing core => Sys2Proof.Machine.execLanding core s
  | .lockstepCompare core agree slot => Sys2Proof.Machine.execLockstepCompare core agree slot s
  | .rowStage core => Sys2Proof.Machine.execRowStage core s
  | .engineCompletion core eng => Sys2Proof.Machine.execEngineCompletion core eng s
  | .repeatIteration core => Sys2Proof.Machine.execRepeatIteration core s
  | .nestCommand core => Sys2Proof.Machine.execNestCommand core s
  | .handleRowProduced core eng => Sys2Proof.Machine.execHandleRowProduced core eng s
  | .queueArrival idx => Sys2Proof.Machine.execQueueArrival idx s
  | .handlePointerUpdate idx => Sys2Proof.Machine.execHandlePointerUpdate idx s
  | .eventRecordArrival idx => Sys2Proof.Machine.execEventRecordArrival idx s
  | .barrierCompletion idx => Sys2Proof.Machine.execBarrierCompletion idx s
  | .accessPerformed core idx => Sys2Proof.Machine.execAccessPerformed core idx s
  | .atomicAtUnit core idx => Sys2Proof.Machine.execAtomicAtUnit core idx s
  | .replayTimeout ctx unit => Sys2Proof.Machine.execReplayTimeout ctx unit s
  | .majorityCompletion k => Sys2Proof.Machine.execMajorityCompletion k s
  | .majorityRepair set => Sys2Proof.Machine.execMajorityRepair set s
  | .majorityWalk set => Sys2Proof.Machine.execMajorityWalk set s
  | .publishFlip f => Sys2Proof.Machine.execPublishFlip f s
  | .bankOwnershipPass core bank => Sys2Proof.Machine.execBankOwnershipPass core bank s
  | .intakeWrite ctx q row => Sys2Proof.Machine.execIntakeWrite ctx q row s
  | .slotConsume ctx q => Sys2Proof.Machine.execSlotConsume ctx q s
  | .hubCopyComplete ctx q => Sys2Proof.Machine.execHubCopyComplete ctx q s
  | .nodePlacement prio => Sys2Proof.Machine.execNodePlacement prio s
  | .launchStart core => Sys2Proof.Machine.execLaunchStart core s
  | .taskEntry core => Sys2Proof.Machine.execTaskEntry core s
  | .nodeCompletion ctx node => Sys2Proof.Machine.execNodeCompletion ctx node s
  | .priorityPreemption ctx node => Sys2Proof.Machine.execPriorityPreemption ctx node s
  | .restore core => Sys2Proof.Machine.execRestore core s
  | .contextCreate ctx v => Sys2Proof.Machine.execContextCreate ctx v s
  | .teardown ctx => Sys2Proof.Machine.execTeardown ctx s
  | .teardownComplete ctx => Sys2Proof.Machine.execTeardownComplete ctx s
  | .containment ctx node => Sys2Proof.Machine.execContainment ctx node s
  | .raceTagSweep core => Sys2Proof.Machine.execRaceTagSweep core s
  | .canopyPeriod p => Sys2Proof.Machine.execCanopyPeriod p s
  | .islandRailOff island => Sys2Proof.Machine.execIslandRailOff island s
  | .functionReady bit ok => Sys2Proof.Machine.execFunctionReady bit ok s
  | .portEnable p => Sys2Proof.Machine.execPortEnable p s
  | .portTrained p pkg prt => Sys2Proof.Machine.execPortTrained p pkg prt s
  | .flitReceive p flit => Sys2Proof.Machine.execFlitReceive p flit s
  | .portFailure p => Sys2Proof.Machine.execPortFailure p s
  | .laneShed p => Sys2Proof.Machine.execLaneShed p s
  | .linkRetrained p => Sys2Proof.Machine.execLinkRetrained p s
  | .packetReceive hdr data => Sys2Proof.Machine.execPacketReceive hdr data s
  | .ackReceive hdr data => Sys2Proof.Machine.execAckReceive hdr data s
  | .retransmitTimeout pkg unordered => Sys2Proof.Machine.execRetransmitTimeout pkg unordered s
  | .routeInstall pkg rt => Sys2Proof.Machine.execRouteInstall pkg rt s
  | .refusalReplay pkg unordered => Sys2Proof.Machine.execRefusalReplay pkg unordered s
  | .collStepFailure core => Sys2Proof.Machine.execCollStepFailure core s
  | .secondTierNoRoute core => Sys2Proof.Machine.execSecondTierNoRoute core s
  | .secondTierPortTrain t found => Sys2Proof.Machine.execSecondTierPortTrain t found s
  | .chainTick => Sys2Proof.Machine.execChainTick s
  | .chainEntryComplete ctx idx => Sys2Proof.Machine.execChainEntryComplete ctx idx s
  | .chainNotification ctx ctr amt => Sys2Proof.Machine.execChainNotification ctx ctr amt s
  | .slotReturn ctx amt => Sys2Proof.Machine.execSlotReturn ctx amt s
  | .migrationPhase m writeFails => Sys2Proof.Machine.execMigrationPhase m writeFails s
  | .mhsWrite set idx v => Sys2Proof.Machine.execMhsWrite set idx v s
  | .majorityMemberDown set idx => Sys2Proof.Machine.execMajorityMemberDown set idx s
  | .sramScrub pa found => Sys2Proof.Machine.execSramScrub pa found s
  | .hbmScrub pa found => Sys2Proof.Machine.execHbmScrub pa found s
  | .thermalSample temps => Sys2Proof.Machine.execThermalSample temps s
  | .partWrite p v => Sys2Proof.Machine.execPartWrite p v s
  | .tdecWrite d w0 w1 => Sys2Proof.Machine.execTdecWrite d w0 w1 s
  | .erackWrite ctx v => Sys2Proof.Machine.execErackWrite ctx v s
  | .peackWrite v => Sys2Proof.Machine.execPeackWrite v s
  | .tlackWrite v => Sys2Proof.Machine.execTlackWrite v s
  | .chainGo ctx => Sys2Proof.Machine.execChainGo ctx s
  | .chainStop ctx => Sys2Proof.Machine.execChainStop ctx s
  | .cslotWrite ctx v => Sys2Proof.Machine.execCslotWrite ctx v s
  | .smaxWrite ctx v => Sys2Proof.Machine.execSmaxWrite ctx v s
  | .chainRegisterWrite ctx off v => Sys2Proof.Machine.execChainRegisterWrite ctx off v s
  | .migrationStart m => Sys2Proof.Machine.execMigrationStart m s
  | .migrationReset m => Sys2Proof.Machine.execMigrationReset m s
  | .hostMemoryAccess a => Sys2Proof.Machine.execHostMemoryAccess a s
  | .hostAtomic a => Sys2Proof.Machine.execHostAtomic a s
  | .registerWrite off v => Sys2Proof.Machine.execRegisterWrite off v s
  | .logAcknowledgment ctx n => Sys2Proof.Machine.execLogAcknowledgment ctx n s
  | .preemptNode ctx node => Sys2Proof.Machine.execPreemptNode ctx node s
  | .resumeNode ctx node => Sys2Proof.Machine.execResumeNode ctx node s
  | .eventCounterWrite ctx num amt => Sys2Proof.Machine.execEventCounterWrite ctx num amt s
  | .packageReset v => Sys2Proof.Machine.execPackageReset v s
  | .setIslandSlope => Sys2Proof.Machine.execSetIslandSlope s
  | .setPackageSlope => Sys2Proof.Machine.execSetPackageSlope s
  | .setPowerLimit => Sys2Proof.Machine.execSetPowerLimit s
  | .gateIsland => Sys2Proof.Machine.execGateIsland s
  | .ungateIsland => Sys2Proof.Machine.execUngateIsland s
  | .appendRetiredRange => Sys2Proof.Machine.execAppendRetiredRange s
  | .attestationReport => Sys2Proof.Machine.execAttestationReport s
  | .packageHalt => Sys2Proof.Machine.execPackageHalt s
  | .powerOn => Sys2Proof.Machine.execPowerOn s

end Sys2Proof.Machine
end

