-- ==== Sys2Proof/Machine/Sched.lean ====
section
/-!
DEFINITION. What happens next when the agenda names nothing (log 3): an open counted cycle goes on, then the stream in
focus acts at its boundary, then what is outstanding elsewhere proceeds, then a hub tick passes. Every event can come at
any other moment through the agenda.
-/
namespace Sys2Proof.Machine

/-- The event of a part of an open counted cycle. -/
def partEvent (core : Nat) : CycPart → Instr
  | .rows => .rowStage core
  | .writes => .writeBack core
  | .ends => .engineCompletion core 0
  | .txEnds => .engineCompletion core 2
  | .step => .regulatorStep core

/-- What a core does before its streams act: the next part of an open counted cycle, a compare that is due (R29), the landings
and then the results due in the coming cycle (R26, R57). (DEDUCED, log 22) -/
def coreDue (s : State) (core : Nat) : Option Instr :=
  let c := coreOf s core
  match c.arch.main.cyc, c.arch.side.cyc with
  | p :: _, _ => some (partEvent core p)
  | [], p :: _ => some (partEvent core p)
  | [], [] =>
    if c.roll.any (fun r => decide (2 ≤ r.2.1)) then some (.lockstepCompare core true 0)
    else if (dueStream s core Stream.landsDue).any (fun k => (strmOf s k).pipe.ops.any (fun y => y.due && y.landing && (y.got || !y.late))) then
      some (.landing core)
    else if (dueStream s core (fun x => x.anyDue && !x.landsDue)).isSome then some (.writeBack core)
    else none

/-- The event by which a stream acts at its boundary. -/
def streamEvent (s : State) (k : Sid) : Instr :=
  if (strmOf s k).due = .header then .blockEntry k else if emptyAt s k then .emptyBundle k else .bundle { k := k, ups := [] }

/-- Does an event change more than the focus? -/
def moves (s : State) (e : Instr) : Bool := match exec e s with
  | .next t => decide ({ t with focus := s.focus } ≠ s)
  | _ => true

/-- The events of a core that may come now, its streams' among them. (DESIGN CHOICE, log 3; DEDUCED, log 36) -/
def coreEvents (s : State) (core : Nat) : List Instr :=
  let a := archOf s core
  let m : Sid := { core := core, side := false }
  let d : Sid := { core := core, side := true }
  (coreDue s core).toList ++
  (List.range a.reqs.length).flatMap (fun i => [.accessPerformed core i, .atomicAtUnit core i]) ++
  [.engineCompletion core 1, .handleRowProduced core 1, .handleRowProduced core 0, .publishFlip (.table core core),
   .majorityCompletion m, .majorityCompletion d] ++
  (if (coreOf s core).roll.isEmpty then [] else [.lockstepCompare core true 0]) ++
  (if mayAct s m then [streamEvent s m] else []) ++ (if mayAct s d then [streamEvent s d] else []) ++
  (List.range 32).map (fun b => .bankOwnershipPass core b) ++ [.restore core, .launchStart core, .taskEntry core, .raceTagSweep core]

/-- The events of a context that may come now. -/
def ctxEvents (x : Nat × Ctx) : List Instr :=
  x.2.nodes.flatMap (fun n => [.nodeCompletion x.1 n.1, .chainEntryComplete x.1 n.1, .containment x.1 n.1, .priorityPreemption x.1 n.1]) ++
  x.2.qs.flatMap (fun q => [.hubCopyComplete x.1 q.1, .slotConsume x.1 q.1]) ++
  ((x.2.sigs.filter (fun g => !g.ret)).map (fun g => .chainNotification x.1 (BitVec.ofNat 8 g.ctr) (BitVec.ofNat 16 g.amt))) ++
  x.2.held.map (fun h => .replayTimeout x.1 h.1) ++ [.teardownComplete x.1]

/-- A period whose sensors read nothing and whose policy changes nothing. (DESIGN CHOICE, log 3) -/
def quietPeriod : PeriodInput :=
  { means := [], temps := [], stackTemps := [], bumps := [], envs := [], buds := [], stgi := [], clri := [], missed := 0
    teleMiss := false }

/-- The events of the hub and of what travels. (DESIGN CHOICE, log 3) -/
def hubEvents (s : State) : List Instr :=
  (List.range s.net.length).flatMap (fun i => [.queueArrival i, .handlePointerUpdate i, .eventRecordArrival i]) ++
  s.hub.tokq.flatMap (fun x => [if x.2.1 then .startTokenGrant x.1 else .clearingTokenGrant x.1]) ++
  (List.range s.hub.bars.length).map (fun i => .barrierCompletion i) ++ s.hub.ctxs.flatMap ctxEvents ++
  [.nodePlacement 0, .nodePlacement 1, .nodePlacement 2, .nodePlacement 3] ++
  s.hub.mjs.flatMap (fun m => if m.2.walk then [.majorityWalk m.1] else [.majorityRepair m.1]) ++
  s.hub.flips.flatMap (fun f => f.todo.map (fun t => .publishFlip (.table f.core t))) ++
  (if s.can.due || s.can.read then [.canopyPeriod quietPeriod] else []) ++
  s.hub.migs.map (fun m => .migrationPhase m.1 false) ++ s.can.islt.map (fun i => .islandRailOff i.1)

/-- The event that comes next when the agenda names none. (DESIGN CHOICE, log 3) -/
def auto (s : State) : Instr :=
  match coreDue s s.focus.core with
  | some e => e
  | none =>
    if mayAct s s.focus && moves s (streamEvent s s.focus) then streamEvent s s.focus
    else match (coreEvents s s.focus.core ++ hubEvents s ++ (s.cores.map (·.1)).flatMap (coreEvents s)).find? (moves s) with
      | some e => e
      | none => .chainTick

/-! ### A state whose next step runs a given instruction -/

/-- The table entry through which `fetchState` fetches: virtual 0x10000 to 0x1FFFF, own slice from row 0, with every
permission (R286). -/
def fetchEntry (s : State) : TEntry :=
  { w0 := BitVec.ofNat 64 (2 ^ 63 + 16 * 2 ^ 48 + 1 * 2 ^ 16), w1 := BitVec.ofNat 64 (s.pkg.toNat * 2 ^ 48), w2 := 0
    w3 := 0xE000, reg := 0 }

/-- The task that core 0 runs while it fetches. -/
def fetchTask : Task :=
  { ctx := 0, node := 1, alb := 128, aln := 0, hnd := none, ent := 0x10000, k := 0, c := 1, next := 0, left := 1, live := true }

/-- Core 0 runs a task in split mode, its main stream stands at 0x1000C in a block, and the `n` bytes of an instruction
stand there; `last` says that the block ends with it (R54). A block header stands at 0x10000 instead.
(DESIGN CHOICE, log 11) -/
def fetchState (s : State) (n w : Nat) (header last : Bool) : State :=
  let pc : BitVec 48 := if header then 0x10000 else 0x1000C
  let blk : Block := { hdr := 0x10000, ext := 0x1000C + BitVec.ofNat 48 (if last then n else n + 6), pt := 3, rrg := false }
  let main := { Stream.idle with pc := pc, due := if header then .header else .bundle, blk := blk }
  let a := { Arch.idle with main := main, tab := [(0, fetchEntry s)], task := some fetchTask, run := .running }
  let s1 := { s with agenda := [], focus := { core := 0, side := false }, mem := writeN s.mem (s.pkg.toNat * 2 ^ 48 + (pc.toNat - 0x10000)) w (2 ^ n - 1) n }
  putCore s1 0 { Core.idle with arch := a, split := true }

end Sys2Proof.Machine
end

