-- ==== Sys2Proof/Machine/Step.lean ====
section
/-!
DEFINITION. One step of the device: the next event of the agenda, or what comes next by itself.
-/
namespace Sys2Proof.Machine

/-- One step: the first event of the agenda, else the event that `auto` names. -/
def step (s : State) : Host.Outcome State Fault Refusal :=
  match s.agenda with
  | e :: t => exec e { s with agenda := t }
  | [] => exec (auto s) s

/-- The state with an instruction's bits stored where the next step fetches: a bundle of slots (R53), or a block header
(R64), which is two parcels (DESIGN CHOICE, log 11). -/
def State.withFetchWord (s : State) (_nbits w : Nat) : State :=
  let h := decodeHdr (BitVec.ofNat 48 w)
  if h.st ∧ h.pm = 0 then fetchState s 12 w true false else fetchState s (bundleLength h.pm) w false h.st

end Sys2Proof.Machine
end

