-- ==== Sys2Proof/Laws/Encoding.lean ====
section
/-!
SUPPORT. Laws of the encoding: the fields of a slot word built by the encoder read back (R69, R70), and the decoder
of each class applied to such a word. Nothing here is about the machine.
-/
namespace Sys2Proof.Laws

theorem toNat_join (x : BitVec n) (y : BitVec m) : (x ++ y).toNat = x.toNat * 2 ^ m + y.toNat := by
  rw [BitVec.toNat_append, Nat.shiftLeft_eq, ← Nat.shiftLeft_eq, Nat.shiftLeft_add_eq_or_of_lt y.isLt]

/-- A field reads as the part of the number at its place. -/
theorem part_eq {w : BitVec n} {x : BitVec m} {lo : Nat} (h : w.toNat / 2 ^ lo % 2 ^ m = x.toNat) :
    w.extractLsb' lo m = x :=
  BitVec.eq_of_toNat_eq (by rw [BitVec.extractLsb'_toNat, Nat.shiftRight_eq_div_pow, h])

theorem bit_eq {w : BitVec n} {b : Bool} {lo : Nat} (h : w.toNat / 2 ^ lo % 2 = b.toNat) : w.getLsbD lo = b := by
  rw [BitVec.getLsbD, Nat.testBit_eq_decide_div_mod_eq, h]; cases b <;> rfl

/-- A slot word as a number (R69). -/
theorem slotWord_toNat (h : Slot) (op : BitVec 8) (x : BitVec 34) : (slotWord h op x).toNat =
    (((h.vt.toNat * 2 ^ 4 + h.pf.toNat) * 2 ^ 1 + h.pn.toNat) * 2 ^ 8 + op.toNat) * 2 ^ 34 + x.toNat := by
  show BitVec.toNat (w := 1 + 4 + 1 + 8 + 34) (BitVec.ofBool h.vt ++ h.pf ++ BitVec.ofBool h.pn ++ op ++ x) = _
  rw [toNat_join, toNat_join, toNat_join, toNat_join, BitVec.toNat_ofBool, BitVec.toNat_ofBool]

/-- The opcode of a slot word. -/
theorem slotWord_op (h : Slot) (op : BitVec 8) (x : BitVec 34) : (slotWord h op x).extractLsb' 34 8 = op := by
  apply part_eq; rw [slotWord_toNat]; have := op.isLt; have := x.isLt; omega

/-- A field of the operand part of a slot word. -/
theorem slotWord_arg (h : Slot) (op : BitVec 8) (x : BitVec 34) (lo len : Nat) (hl : lo + len ≤ 34) :
    (slotWord h op x).extractLsb' lo len = x.extractLsb' lo len := by
  show BitVec.extractLsb' (n := 1 + 4 + 1 + 8 + 34) lo len
    (BitVec.ofBool h.vt ++ h.pf ++ BitVec.ofBool h.pn ++ op ++ x) = _
  rw [BitVec.extractLsb'_append_eq_of_add_le hl]

/-- The common fields of a slot word. -/
theorem decodeCommon_slotWord (h : Slot) (op : BitVec 8) (x : BitVec 34) :
    decodeCommon h.pos (slotWord h op x) = h := by
  have e := slotWord_toNat h op x
  obtain ⟨p, v, f, n⟩ := h
  have := f.isLt; have := op.isLt; have := x.isLt; have := v.toNat_lt; have := n.toNat_lt
  simp only [decodeCommon, Slot.mk.injEq, true_and]
  dsimp only at e
  refine ⟨bit_eq ?_, part_eq ?_, bit_eq ?_⟩ <;> rw [e] <;> omega

theorem ScR_bits_toNat (o : ScR) : o.bits.toNat = ((((((o.sd.toNat * 2 ^ 5 + o.sa.toNat) * 2 ^ 5 + o.sb.toNat) * 2 ^ 5 + o.sc.toNat) * 2 ^ 4 + o.fx.toNat) * 2 ^ 4 + o.cc.toNat) * 2 ^ 2 + o.rn.toNat) * 2 ^ 4 + o.xt.toNat := by
  show BitVec.toNat (w := 5 + 5 + 5 + 5 + 4 + 4 + 2 + 4) (o.sd ++ o.sa ++ o.sb ++ o.sc ++ o.fx ++ o.cc ++ o.rn ++ o.xt) = _
  simp only [toNat_join]

theorem decodeScR_slotWord (h : Slot) (op : BitVec 8) (o : ScR) : decodeScR (slotWord h op o.bits) = o := by
  have e := ScR_bits_toNat o
  obtain ⟨x0, x1, x2, x3, x4, x5, x6, x7⟩ := o
  have := x0.isLt; have := x1.isLt; have := x2.isLt; have := x3.isLt; have := x4.isLt; have := x5.isLt; have := x6.isLt; have := x7.isLt
  simp only [decodeScR, ScR.mk.injEq]
  dsimp only at e
  refine ⟨?_, ?_, ?_, ?_, ?_, ?_, ?_, ?_⟩ <;> rw [slotWord_arg _ _ _ _ _ (by decide)] <;> apply part_eq <;>
    rw [e] <;> omega

theorem ScI_bits_toNat (o : ScI) : o.bits.toNat = (o.sd.toNat * 2 ^ 5 + o.sa.toNat) * 2 ^ 24 + o.imm.toNat := by
  show BitVec.toNat (w := 5 + 5 + 24) (o.sd ++ o.sa ++ o.imm) = _
  simp only [toNat_join]

theorem decodeScI_slotWord (h : Slot) (op : BitVec 8) (o : ScI) : decodeScI (slotWord h op o.bits) = o := by
  have e := ScI_bits_toNat o
  obtain ⟨x0, x1, x2⟩ := o
  have := x0.isLt; have := x1.isLt; have := x2.isLt
  simp only [decodeScI, ScI.mk.injEq]
  dsimp only at e
  refine ⟨?_, ?_, ?_⟩ <;> rw [slotWord_arg _ _ _ _ _ (by decide)] <;> apply part_eq <;>
    rw [e] <;> omega

theorem ScL_bits_toNat (o : ScL) : o.bits.toNat = o.sd.toNat * 2 ^ 29 + o.imm.toNat := by
  show BitVec.toNat (w := 5 + 29) (o.sd ++ o.imm) = _
  simp only [toNat_join]

theorem decodeScL_slotWord (h : Slot) (op : BitVec 8) (o : ScL) : decodeScL (slotWord h op o.bits) = o := by
  have e := ScL_bits_toNat o
  obtain ⟨x0, x1⟩ := o
  have := x0.isLt; have := x1.isLt
  simp only [decodeScL, ScL.mk.injEq]
  dsimp only at e
  refine ⟨?_, ?_⟩ <;> rw [slotWord_arg _ _ _ _ _ (by decide)] <;> apply part_eq <;>
    rw [e] <;> omega

theorem BrD_bits_toNat (o : BrD) : o.bits.toNat = ((o.ln.toNat * 2 ^ 4 + o.bf.toNat) * 2 ^ 1 + o.bn.toNat) * 2 ^ 24 + o.dsp.toNat := by
  show BitVec.toNat (w := 5 + 4 + 1 + 24) (o.ln ++ o.bf ++ o.bn ++ o.dsp) = _
  simp only [toNat_join]

theorem decodeBrD_slotWord (h : Slot) (op : BitVec 8) (o : BrD) : decodeBrD (slotWord h op o.bits) = o := by
  have e := BrD_bits_toNat o
  obtain ⟨x0, x1, x2, x3⟩ := o
  have := x0.isLt; have := x1.isLt; have := x2.isLt; have := x3.isLt
  simp only [decodeBrD, BrD.mk.injEq]
  dsimp only at e
  refine ⟨?_, ?_, ?_, ?_⟩ <;> rw [slotWord_arg _ _ _ _ _ (by decide)] <;> apply part_eq <;>
    rw [e] <;> omega

theorem BrR_bits_toNat (o : BrR) : o.bits.toNat = ((o.sd.toNat * 2 ^ 5 + o.sa.toNat) * 2 ^ 8 + o.z.toNat) * 2 ^ 16 + o.imm.toNat := by
  show BitVec.toNat (w := 5 + 5 + 8 + 16) (o.sd ++ o.sa ++ o.z ++ o.imm) = _
  simp only [toNat_join]

theorem decodeBrR_slotWord (h : Slot) (op : BitVec 8) (o : BrR) : decodeBrR (slotWord h op o.bits) = o := by
  have e := BrR_bits_toNat o
  obtain ⟨x0, x1, x2, x3⟩ := o
  have := x0.isLt; have := x1.isLt; have := x2.isLt; have := x3.isLt
  simp only [decodeBrR, BrR.mk.injEq]
  dsimp only at e
  refine ⟨?_, ?_, ?_, ?_⟩ <;> rw [slotWord_arg _ _ _ _ _ (by decide)] <;> apply part_eq <;>
    rw [e] <;> omega

theorem BrL_bits_toNat (o : BrL) : o.bits.toNat = (o.lv.toNat * 2 ^ 13 + o.cnt.toNat) * 2 ^ 20 + o.dsp.toNat := by
  show BitVec.toNat (w := 1 + 13 + 20) (o.lv ++ o.cnt ++ o.dsp) = _
  simp only [toNat_join]

theorem decodeBrL_slotWord (h : Slot) (op : BitVec 8) (o : BrL) : decodeBrL (slotWord h op o.bits) = o := by
  have e := BrL_bits_toNat o
  obtain ⟨x0, x1, x2⟩ := o
  have := x0.isLt; have := x1.isLt; have := x2.isLt
  simp only [decodeBrL, BrL.mk.injEq]
  dsimp only at e
  refine ⟨?_, ?_, ?_⟩ <;> rw [slotWord_arg _ _ _ _ _ (by decide)] <;> apply part_eq <;>
    rw [e] <;> omega

theorem SmF_bits_toNat (o : SmF) : o.bits.toNat = (((((o.sd.toNat * 2 ^ 5 + o.sa.toNat) * 2 ^ 5 + o.sb.toNat) * 2 ^ 9 + o.off.toNat) * 2 ^ 4 + o.arr.toNat) * 2 ^ 4 + o.scp.toNat) * 2 ^ 2 + o.ord.toNat := by
  show BitVec.toNat (w := 5 + 5 + 5 + 9 + 4 + 4 + 2) (o.sd ++ o.sa ++ o.sb ++ o.off ++ o.arr ++ o.scp ++ o.ord) = _
  simp only [toNat_join]

theorem decodeSmF_slotWord (h : Slot) (op : BitVec 8) (o : SmF) : decodeSmF (slotWord h op o.bits) = o := by
  have e := SmF_bits_toNat o
  obtain ⟨x0, x1, x2, x3, x4, x5, x6⟩ := o
  have := x0.isLt; have := x1.isLt; have := x2.isLt; have := x3.isLt; have := x4.isLt; have := x5.isLt; have := x6.isLt
  simp only [decodeSmF, SmF.mk.injEq]
  dsimp only at e
  refine ⟨?_, ?_, ?_, ?_, ?_, ?_, ?_⟩ <;> rw [slotWord_arg _ _ _ _ _ (by decide)] <;> apply part_eq <;>
    rw [e] <;> omega

theorem VaF_bits_toNat (o : VaF) : o.bits.toNat = (((((((o.vd.toNat * 2 ^ 6 + o.va.toNat) * 2 ^ 6 + o.vb.toNat) * 2 ^ 6 + o.vc.toNat) * 2 ^ 3 + o.m.toNat) * 2 ^ 4 + o.ft.toNat) * 2 ^ 2 + o.rn.toNat) * 2 ^ 1 + o.sat.toNat) * 2 ^ 1 + o.z.toNat := by
  show BitVec.toNat (w := 5 + 6 + 6 + 6 + 3 + 4 + 2 + 1 + 1) (o.vd ++ o.va ++ o.vb ++ o.vc ++ o.m ++ o.ft ++ o.rn ++ o.sat ++ o.z) = _
  simp only [toNat_join]

theorem decodeVaF_slotWord (h : Slot) (op : BitVec 8) (o : VaF) : decodeVaF (slotWord h op o.bits) = o := by
  have e := VaF_bits_toNat o
  obtain ⟨x0, x1, x2, x3, x4, x5, x6, x7, x8⟩ := o
  have := x0.isLt; have := x1.isLt; have := x2.isLt; have := x3.isLt; have := x4.isLt; have := x5.isLt; have := x6.isLt; have := x7.isLt; have := x8.isLt
  simp only [decodeVaF, VaF.mk.injEq]
  dsimp only at e
  refine ⟨?_, ?_, ?_, ?_, ?_, ?_, ?_, ?_, ?_⟩ <;> rw [slotWord_arg _ _ _ _ _ (by decide)] <;> apply part_eq <;>
    rw [e] <;> omega

theorem VlF_bits_toNat (o : VlF) : o.bits.toNat = (((((o.vd.toNat * 2 ^ 5 + o.sa.toNat) * 2 ^ 12 + o.off.toNat) * 2 ^ 4 + o.arr.toNat) * 2 ^ 3 + o.m.toNat) * 2 ^ 2 + o.ord.toNat) * 2 ^ 3 + o.xc.toNat := by
  show BitVec.toNat (w := 5 + 5 + 12 + 4 + 3 + 2 + 3) (o.vd ++ o.sa ++ o.off ++ o.arr ++ o.m ++ o.ord ++ o.xc) = _
  simp only [toNat_join]

theorem decodeVlF_slotWord (h : Slot) (op : BitVec 8) (o : VlF) : decodeVlF (slotWord h op o.bits) = o := by
  have e := VlF_bits_toNat o
  obtain ⟨x0, x1, x2, x3, x4, x5, x6⟩ := o
  have := x0.isLt; have := x1.isLt; have := x2.isLt; have := x3.isLt; have := x4.isLt; have := x5.isLt; have := x6.isLt
  simp only [decodeVlF, VlF.mk.injEq]
  dsimp only at e
  refine ⟨?_, ?_, ?_, ?_, ?_, ?_, ?_⟩ <;> rw [slotWord_arg _ _ _ _ _ (by decide)] <;> apply part_eq <;>
    rw [e] <;> omega

theorem HqF_bits_toNat (o : HqF) : o.bits.toNat = (((((o.hn.toNat * 2 ^ 5 + o.sa.toNat) * 2 ^ 5 + o.sx.toNat) * 2 ^ 13 + o.cnt.toNat) * 2 ^ 3 + o.qn.toNat) * 2 ^ 2 + o.pk.toNat) * 2 ^ 2 + o.z.toNat := by
  show BitVec.toNat (w := 4 + 5 + 5 + 13 + 3 + 2 + 2) (o.hn ++ o.sa ++ o.sx ++ o.cnt ++ o.qn ++ o.pk ++ o.z) = _
  simp only [toNat_join]

theorem decodeHqF_slotWord (h : Slot) (op : BitVec 8) (o : HqF) : decodeHqF (slotWord h op o.bits) = o := by
  have e := HqF_bits_toNat o
  obtain ⟨x0, x1, x2, x3, x4, x5, x6⟩ := o
  have := x0.isLt; have := x1.isLt; have := x2.isLt; have := x3.isLt; have := x4.isLt; have := x5.isLt; have := x6.isLt
  simp only [decodeHqF, HqF.mk.injEq]
  dsimp only at e
  refine ⟨?_, ?_, ?_, ?_, ?_, ?_, ?_⟩ <;> rw [slotWord_arg _ _ _ _ _ (by decide)] <;> apply part_eq <;>
    rw [e] <;> omega

theorem EnF_bits_toNat (o : EnF) : o.bits.toNat = ((((o.cf.toNat * 2 ^ 1 + o.ce.toNat) * 2 ^ 2 + o.wl.toNat) * 2 ^ 1 + o.ac.toNat) * 2 ^ 5 + o.sa.toNat) * 2 ^ 21 + o.prm.toNat := by
  show BitVec.toNat (w := 4 + 1 + 2 + 1 + 5 + 21) (o.cf ++ o.ce ++ o.wl ++ o.ac ++ o.sa ++ o.prm) = _
  simp only [toNat_join]

theorem decodeEnF_slotWord (h : Slot) (op : BitVec 8) (o : EnF) : decodeEnF (slotWord h op o.bits) = o := by
  have e := EnF_bits_toNat o
  obtain ⟨x0, x1, x2, x3, x4, x5⟩ := o
  have := x0.isLt; have := x1.isLt; have := x2.isLt; have := x3.isLt; have := x4.isLt; have := x5.isLt
  simp only [decodeEnF, EnF.mk.injEq]
  dsimp only at e
  refine ⟨?_, ?_, ?_, ?_, ?_, ?_⟩ <;> rw [slotWord_arg _ _ _ _ _ (by decide)] <;> apply part_eq <;>
    rw [e] <;> omega

/-- A decoded word whose fields are well-formed is that instruction. -/
theorem decodeSlot_of_raw {pos : BitVec 5} {w : Parcel} {i : Instr} (h : decodeRaw pos w = some i) (hw : i.wf = true) :
    decodeSlot pos w = .ok i := by
  simp [decodeSlot, h, hw]

theorem slot_Sc {h : Slot} {op : BitVec 8} {x : BitVec 34} {i : Instr} (hw : i.wf = true) (hp : h.isSc = true)
    (h0 : op.toNat ≠ 0) (hd : decodeSc h (slotWord h op x) op.toNat = some i) :
    decodeSlot h.pos (slotWord h op x) = .ok i := by
  refine decodeSlot_of_raw ?_ hw
  have hp' := hp
  simp only [Slot.isSc, Bool.and_eq_true, decide_eq_true_eq] at hp'
  simp only [decodeRaw, slotWord_op, decodeCommon_slotWord, if_neg h0]
  rw [← hd]
  repeat' split
  all_goals first | rfl | omega

theorem slot_Sm {h : Slot} {op : BitVec 8} {x : BitVec 34} {i : Instr} (hw : i.wf = true) (hp : h.isSm = true)
    (h0 : op.toNat ≠ 0) (hd : decodeSm h (slotWord h op x) op.toNat = some i) :
    decodeSlot h.pos (slotWord h op x) = .ok i := by
  refine decodeSlot_of_raw ?_ hw
  have hp' := hp
  simp only [Slot.isSm, Bool.and_eq_true, decide_eq_true_eq] at hp'
  simp only [decodeRaw, slotWord_op, decodeCommon_slotWord, if_neg h0]
  rw [← hd]
  repeat' split
  all_goals first | rfl | omega

theorem slot_Br {h : Slot} {op : BitVec 8} {x : BitVec 34} {i : Instr} (hw : i.wf = true) (hp : h.isBr = true)
    (h0 : op.toNat ≠ 0) (hd : decodeBr h (slotWord h op x) op.toNat = some i) :
    decodeSlot h.pos (slotWord h op x) = .ok i := by
  refine decodeSlot_of_raw ?_ hw
  have hp' := hp
  simp only [Slot.isBr, Bool.and_eq_true, decide_eq_true_eq] at hp'
  simp only [decodeRaw, slotWord_op, decodeCommon_slotWord, if_neg h0]
  rw [← hd]
  repeat' split
  all_goals first | rfl | omega

theorem slot_Va {h : Slot} {op : BitVec 8} {x : BitVec 34} {i : Instr} (hw : i.wf = true) (hp : h.isVa = true)
    (h0 : op.toNat ≠ 0) (hd : decodeVa h (slotWord h op x) op.toNat = some i) :
    decodeSlot h.pos (slotWord h op x) = .ok i := by
  refine decodeSlot_of_raw ?_ hw
  have hp' := hp
  simp only [Slot.isVa, Bool.and_eq_true, decide_eq_true_eq] at hp'
  simp only [decodeRaw, slotWord_op, decodeCommon_slotWord, if_neg h0]
  rw [← hd]
  repeat' split
  all_goals first | rfl | omega

theorem slot_Vl {h : Slot} {op : BitVec 8} {x : BitVec 34} {i : Instr} (hw : i.wf = true) (hp : h.isVl = true)
    (h0 : op.toNat ≠ 0) (hd : decodeVl h (slotWord h op x) op.toNat = some i) :
    decodeSlot h.pos (slotWord h op x) = .ok i := by
  refine decodeSlot_of_raw ?_ hw
  have hp' := hp
  simp only [Slot.isVl, Bool.and_eq_true, decide_eq_true_eq] at hp'
  simp only [decodeRaw, slotWord_op, decodeCommon_slotWord, if_neg h0]
  rw [← hd]
  repeat' split
  all_goals first | rfl | omega

theorem slot_Mx {h : Slot} {op : BitVec 8} {x : BitVec 34} {i : Instr} (hw : i.wf = true) (hp : h.isMx = true)
    (h0 : op.toNat ≠ 0) (hd : decodeMx h (slotWord h op x) op.toNat = some i) :
    decodeSlot h.pos (slotWord h op x) = .ok i := by
  refine decodeSlot_of_raw ?_ hw
  have hp' := hp
  simp only [Slot.isMx, Bool.and_eq_true, decide_eq_true_eq] at hp'
  simp only [decodeRaw, slotWord_op, decodeCommon_slotWord, if_neg h0]
  rw [← hd]
  repeat' split
  all_goals first | rfl | omega

theorem slot_Cp {h : Slot} {op : BitVec 8} {x : BitVec 34} {i : Instr} (hw : i.wf = true) (hp : h.isCp = true)
    (h0 : op.toNat ≠ 0) (hd : decodeCp h (slotWord h op x) op.toNat = some i) :
    decodeSlot h.pos (slotWord h op x) = .ok i := by
  refine decodeSlot_of_raw ?_ hw
  have hp' := hp
  simp only [Slot.isCp, Bool.and_eq_true, decide_eq_true_eq] at hp'
  simp only [decodeRaw, slotWord_op, decodeCommon_slotWord, if_neg h0]
  rw [← hd]
  repeat' split
  all_goals first | rfl | omega

theorem slot_Tx {h : Slot} {op : BitVec 8} {x : BitVec 34} {i : Instr} (hw : i.wf = true) (hp : h.isTx = true)
    (h0 : op.toNat ≠ 0) (hd : decodeTx h (slotWord h op x) op.toNat = some i) :
    decodeSlot h.pos (slotWord h op x) = .ok i := by
  refine decodeSlot_of_raw ?_ hw
  have hp' := hp
  simp only [Slot.isTx, Bool.and_eq_true, decide_eq_true_eq] at hp'
  simp only [decodeRaw, slotWord_op, decodeCommon_slotWord, if_neg h0]
  rw [← hd]
  repeat' split
  all_goals first | rfl | omega

theorem slot_Hq {h : Slot} {op : BitVec 8} {x : BitVec 34} {i : Instr} (hw : i.wf = true) (hp : h.isHq = true)
    (h0 : op.toNat ≠ 0) (hd : decodeHq h (slotWord h op x) op.toNat = some i) :
    decodeSlot h.pos (slotWord h op x) = .ok i := by
  refine decodeSlot_of_raw ?_ hw
  have hp' := hp
  simp only [Slot.isHq, Bool.and_eq_true, decide_eq_true_eq] at hp'
  simp only [decodeRaw, slotWord_op, decodeCommon_slotWord, if_neg h0]
  rw [← hd]
  repeat' split
  all_goals first | rfl | omega

end Sys2Proof.Laws
end

