-- ==== Sys2Proof/Laws/PerInstr.lean ====
section
/-!
SUPPORT. The round trip per instruction: the word that the encoder writes for a well-formed slot instruction decodes to
it at its position; an event has no word.
-/
namespace Sys2Proof.Laws.RoundTrip
set_option Elab.async false

/-- A well-formed slot instruction has a word, which decodes to it at its position; an event has none. -/
def Statement (i : Instr) : Prop :=
  match i.slot? with
  | some h => i.wf = true → ∃ w, encode i = some w ∧ decodeSlot h.pos w = .ok i
  | none => encode i = none

theorem nop (h : Slot) : Statement (.nop h) := by
  intro hw
  exact ⟨_, rfl, decodeSlot_of_raw (by simp [decodeRaw, slotWord_op, slotWord_arg, decodeCommon_slotWord]) hw⟩

theorem add (h : Slot) (o : ScR) : Statement (.add h o) := by
  intro hw
  refine ⟨_, rfl, slot_Sc hw (by simp only [Instr.wf, Bool.and_eq_true] at hw; simp [hw]) (by decide) ?_⟩
  exact congrArg (fun x => some (Instr.add h x)) (decodeScR_slotWord h _ o)

theorem sub (h : Slot) (o : ScR) : Statement (.sub h o) := by
  intro hw
  refine ⟨_, rfl, slot_Sc hw (by simp only [Instr.wf, Bool.and_eq_true] at hw; simp [hw]) (by decide) ?_⟩
  exact congrArg (fun x => some (Instr.sub h x)) (decodeScR_slotWord h _ o)

theorem addi (h : Slot) (o : ScI) : Statement (.addi h o) := by
  intro hw
  refine ⟨_, rfl, slot_Sc hw (by simp only [Instr.wf, Bool.and_eq_true] at hw; simp [hw]) (by decide) ?_⟩
  exact congrArg (fun x => some (Instr.addi h x)) (decodeScI_slotWord h _ o)

theorem and (h : Slot) (o : ScR) : Statement (.and h o) := by
  intro hw
  refine ⟨_, rfl, slot_Sc hw (by simp only [Instr.wf, Bool.and_eq_true] at hw; simp [hw]) (by decide) ?_⟩
  exact congrArg (fun x => some (Instr.and h x)) (decodeScR_slotWord h _ o)

theorem or (h : Slot) (o : ScR) : Statement (.or h o) := by
  intro hw
  refine ⟨_, rfl, slot_Sc hw (by simp only [Instr.wf, Bool.and_eq_true] at hw; simp [hw]) (by decide) ?_⟩
  exact congrArg (fun x => some (Instr.or h x)) (decodeScR_slotWord h _ o)

theorem xor (h : Slot) (o : ScR) : Statement (.xor h o) := by
  intro hw
  refine ⟨_, rfl, slot_Sc hw (by simp only [Instr.wf, Bool.and_eq_true] at hw; simp [hw]) (by decide) ?_⟩
  exact congrArg (fun x => some (Instr.xor h x)) (decodeScR_slotWord h _ o)

theorem andi (h : Slot) (o : ScI) : Statement (.andi h o) := by
  intro hw
  refine ⟨_, rfl, slot_Sc hw (by simp only [Instr.wf, Bool.and_eq_true] at hw; simp [hw]) (by decide) ?_⟩
  exact congrArg (fun x => some (Instr.andi h x)) (decodeScI_slotWord h _ o)

theorem ori (h : Slot) (o : ScI) : Statement (.ori h o) := by
  intro hw
  refine ⟨_, rfl, slot_Sc hw (by simp only [Instr.wf, Bool.and_eq_true] at hw; simp [hw]) (by decide) ?_⟩
  exact congrArg (fun x => some (Instr.ori h x)) (decodeScI_slotWord h _ o)

theorem xori (h : Slot) (o : ScI) : Statement (.xori h o) := by
  intro hw
  refine ⟨_, rfl, slot_Sc hw (by simp only [Instr.wf, Bool.and_eq_true] at hw; simp [hw]) (by decide) ?_⟩
  exact congrArg (fun x => some (Instr.xori h x)) (decodeScI_slotWord h _ o)

theorem shl (h : Slot) (o : ScR) : Statement (.shl h o) := by
  intro hw
  refine ⟨_, rfl, slot_Sc hw (by simp only [Instr.wf, Bool.and_eq_true] at hw; simp [hw]) (by decide) ?_⟩
  exact congrArg (fun x => some (Instr.shl h x)) (decodeScR_slotWord h _ o)

theorem shr (h : Slot) (o : ScR) : Statement (.shr h o) := by
  intro hw
  refine ⟨_, rfl, slot_Sc hw (by simp only [Instr.wf, Bool.and_eq_true] at hw; simp [hw]) (by decide) ?_⟩
  exact congrArg (fun x => some (Instr.shr h x)) (decodeScR_slotWord h _ o)

theorem sra (h : Slot) (o : ScR) : Statement (.sra h o) := by
  intro hw
  refine ⟨_, rfl, slot_Sc hw (by simp only [Instr.wf, Bool.and_eq_true] at hw; simp [hw]) (by decide) ?_⟩
  exact congrArg (fun x => some (Instr.sra h x)) (decodeScR_slotWord h _ o)

theorem shli (h : Slot) (o : ScI) : Statement (.shli h o) := by
  intro hw
  refine ⟨_, rfl, slot_Sc hw (by simp only [Instr.wf, Bool.and_eq_true] at hw; simp [hw]) (by decide) ?_⟩
  exact congrArg (fun x => some (Instr.shli h x)) (decodeScI_slotWord h _ o)

theorem shri (h : Slot) (o : ScI) : Statement (.shri h o) := by
  intro hw
  refine ⟨_, rfl, slot_Sc hw (by simp only [Instr.wf, Bool.and_eq_true] at hw; simp [hw]) (by decide) ?_⟩
  exact congrArg (fun x => some (Instr.shri h x)) (decodeScI_slotWord h _ o)

theorem srai (h : Slot) (o : ScI) : Statement (.srai h o) := by
  intro hw
  refine ⟨_, rfl, slot_Sc hw (by simp only [Instr.wf, Bool.and_eq_true] at hw; simp [hw]) (by decide) ?_⟩
  exact congrArg (fun x => some (Instr.srai h x)) (decodeScI_slotWord h _ o)

theorem mul (h : Slot) (o : ScR) : Statement (.mul h o) := by
  intro hw
  refine ⟨_, rfl, slot_Sc hw (by simp only [Instr.wf, Bool.and_eq_true] at hw; simp [hw]) (by decide) ?_⟩
  exact congrArg (fun x => some (Instr.mul h x)) (decodeScR_slotWord h _ o)

theorem mulh (h : Slot) (o : ScR) : Statement (.mulh h o) := by
  intro hw
  refine ⟨_, rfl, slot_Sc hw (by simp only [Instr.wf, Bool.and_eq_true] at hw; simp [hw]) (by decide) ?_⟩
  exact congrArg (fun x => some (Instr.mulh h x)) (decodeScR_slotWord h _ o)

theorem mulhz (h : Slot) (o : ScR) : Statement (.mulhz h o) := by
  intro hw
  refine ⟨_, rfl, slot_Sc hw (by simp only [Instr.wf, Bool.and_eq_true] at hw; simp [hw]) (by decide) ?_⟩
  exact congrArg (fun x => some (Instr.mulhz h x)) (decodeScR_slotWord h _ o)

theorem div (h : Slot) (o : ScR) : Statement (.div h o) := by
  intro hw
  refine ⟨_, rfl, slot_Sc hw (by simp only [Instr.wf, Bool.and_eq_true] at hw; simp [hw]) (by decide) ?_⟩
  exact congrArg (fun x => some (Instr.div h x)) (decodeScR_slotWord h _ o)

theorem divz (h : Slot) (o : ScR) : Statement (.divz h o) := by
  intro hw
  refine ⟨_, rfl, slot_Sc hw (by simp only [Instr.wf, Bool.and_eq_true] at hw; simp [hw]) (by decide) ?_⟩
  exact congrArg (fun x => some (Instr.divz h x)) (decodeScR_slotWord h _ o)

theorem rem (h : Slot) (o : ScR) : Statement (.rem h o) := by
  intro hw
  refine ⟨_, rfl, slot_Sc hw (by simp only [Instr.wf, Bool.and_eq_true] at hw; simp [hw]) (by decide) ?_⟩
  exact congrArg (fun x => some (Instr.rem h x)) (decodeScR_slotWord h _ o)

theorem remz (h : Slot) (o : ScR) : Statement (.remz h o) := by
  intro hw
  refine ⟨_, rfl, slot_Sc hw (by simp only [Instr.wf, Bool.and_eq_true] at hw; simp [hw]) (by decide) ?_⟩
  exact congrArg (fun x => some (Instr.remz h x)) (decodeScR_slotWord h _ o)

theorem min (h : Slot) (o : ScR) : Statement (.min h o) := by
  intro hw
  refine ⟨_, rfl, slot_Sc hw (by simp only [Instr.wf, Bool.and_eq_true] at hw; simp [hw]) (by decide) ?_⟩
  exact congrArg (fun x => some (Instr.min h x)) (decodeScR_slotWord h _ o)

theorem max (h : Slot) (o : ScR) : Statement (.max h o) := by
  intro hw
  refine ⟨_, rfl, slot_Sc hw (by simp only [Instr.wf, Bool.and_eq_true] at hw; simp [hw]) (by decide) ?_⟩
  exact congrArg (fun x => some (Instr.max h x)) (decodeScR_slotWord h _ o)

theorem minz (h : Slot) (o : ScR) : Statement (.minz h o) := by
  intro hw
  refine ⟨_, rfl, slot_Sc hw (by simp only [Instr.wf, Bool.and_eq_true] at hw; simp [hw]) (by decide) ?_⟩
  exact congrArg (fun x => some (Instr.minz h x)) (decodeScR_slotWord h _ o)

theorem maxz (h : Slot) (o : ScR) : Statement (.maxz h o) := by
  intro hw
  refine ⟨_, rfl, slot_Sc hw (by simp only [Instr.wf, Bool.and_eq_true] at hw; simp [hw]) (by decide) ?_⟩
  exact congrArg (fun x => some (Instr.maxz h x)) (decodeScR_slotWord h _ o)

theorem cmp (h : Slot) (o : ScR) : Statement (.cmp h o) := by
  intro hw
  refine ⟨_, rfl, slot_Sc hw (by simp only [Instr.wf, Bool.and_eq_true] at hw; simp [hw]) (by decide) ?_⟩
  exact congrArg (fun x => some (Instr.cmp h x)) (decodeScR_slotWord h _ o)

theorem cmpi (h : Slot) (o : ScI) : Statement (.cmpi h o) := by
  intro hw
  refine ⟨_, rfl, slot_Sc hw (by simp only [Instr.wf, Bool.and_eq_true] at hw; simp [hw]) (by decide) ?_⟩
  exact congrArg (fun x => some (Instr.cmpi h x)) (decodeScI_slotWord h _ o)

theorem csel (h : Slot) (o : ScR) : Statement (.csel h o) := by
  intro hw
  refine ⟨_, rfl, slot_Sc hw (by simp only [Instr.wf, Bool.and_eq_true] at hw; simp [hw]) (by decide) ?_⟩
  exact congrArg (fun x => some (Instr.csel h x)) (decodeScR_slotWord h _ o)

theorem movi (h : Slot) (o : ScL) : Statement (.movi h o) := by
  intro hw
  refine ⟨_, rfl, slot_Sc hw (by simp only [Instr.wf, Bool.and_eq_true] at hw; simp [hw]) (by decide) ?_⟩
  exact congrArg (fun x => some (Instr.movi h x)) (decodeScL_slotWord h _ o)

theorem movs (h : Slot) (o : ScL) : Statement (.movs h o) := by
  intro hw
  refine ⟨_, rfl, slot_Sc hw (by simp only [Instr.wf, Bool.and_eq_true] at hw; simp [hw]) (by decide) ?_⟩
  exact congrArg (fun x => some (Instr.movs h x)) (decodeScL_slotWord h _ o)

theorem clz (h : Slot) (o : ScR) : Statement (.clz h o) := by
  intro hw
  refine ⟨_, rfl, slot_Sc hw (by simp only [Instr.wf, Bool.and_eq_true] at hw; simp [hw]) (by decide) ?_⟩
  exact congrArg (fun x => some (Instr.clz h x)) (decodeScR_slotWord h _ o)

theorem popc (h : Slot) (o : ScR) : Statement (.popc h o) := by
  intro hw
  refine ⟨_, rfl, slot_Sc hw (by simp only [Instr.wf, Bool.and_eq_true] at hw; simp [hw]) (by decide) ?_⟩
  exact congrArg (fun x => some (Instr.popc h x)) (decodeScR_slotWord h _ o)

theorem bfx (h : Slot) (o : ScI) : Statement (.bfx h o) := by
  intro hw
  refine ⟨_, rfl, slot_Sc hw (by simp only [Instr.wf, Bool.and_eq_true] at hw; simp [hw]) (by decide) ?_⟩
  exact congrArg (fun x => some (Instr.bfx h x)) (decodeScI_slotWord h _ o)

theorem bfi (h : Slot) (o : ScI) : Statement (.bfi h o) := by
  intro hw
  refine ⟨_, rfl, slot_Sc hw (by simp only [Instr.wf, Bool.and_eq_true] at hw; simp [hw]) (by decide) ?_⟩
  exact congrArg (fun x => some (Instr.bfi h x)) (decodeScI_slotWord h _ o)

theorem fadd (h : Slot) (o : ScR) : Statement (.fadd h o) := by
  intro hw
  refine ⟨_, rfl, slot_Sc hw (by simp only [Instr.wf, Bool.and_eq_true] at hw; simp [hw]) (by decide) ?_⟩
  exact congrArg (fun x => some (Instr.fadd h x)) (decodeScR_slotWord h _ o)

theorem fsub (h : Slot) (o : ScR) : Statement (.fsub h o) := by
  intro hw
  refine ⟨_, rfl, slot_Sc hw (by simp only [Instr.wf, Bool.and_eq_true] at hw; simp [hw]) (by decide) ?_⟩
  exact congrArg (fun x => some (Instr.fsub h x)) (decodeScR_slotWord h _ o)

theorem fmul (h : Slot) (o : ScR) : Statement (.fmul h o) := by
  intro hw
  refine ⟨_, rfl, slot_Sc hw (by simp only [Instr.wf, Bool.and_eq_true] at hw; simp [hw]) (by decide) ?_⟩
  exact congrArg (fun x => some (Instr.fmul h x)) (decodeScR_slotWord h _ o)

theorem ffma (h : Slot) (o : ScR) : Statement (.ffma h o) := by
  intro hw
  refine ⟨_, rfl, slot_Sc hw (by simp only [Instr.wf, Bool.and_eq_true] at hw; simp [hw]) (by decide) ?_⟩
  exact congrArg (fun x => some (Instr.ffma h x)) (decodeScR_slotWord h _ o)

theorem fmin (h : Slot) (o : ScR) : Statement (.fmin h o) := by
  intro hw
  refine ⟨_, rfl, slot_Sc hw (by simp only [Instr.wf, Bool.and_eq_true] at hw; simp [hw]) (by decide) ?_⟩
  exact congrArg (fun x => some (Instr.fmin h x)) (decodeScR_slotWord h _ o)

theorem fmax (h : Slot) (o : ScR) : Statement (.fmax h o) := by
  intro hw
  refine ⟨_, rfl, slot_Sc hw (by simp only [Instr.wf, Bool.and_eq_true] at hw; simp [hw]) (by decide) ?_⟩
  exact congrArg (fun x => some (Instr.fmax h x)) (decodeScR_slotWord h _ o)

theorem fcmp (h : Slot) (o : ScR) : Statement (.fcmp h o) := by
  intro hw
  refine ⟨_, rfl, slot_Sc hw (by simp only [Instr.wf, Bool.and_eq_true] at hw; simp [hw]) (by decide) ?_⟩
  exact congrArg (fun x => some (Instr.fcmp h x)) (decodeScR_slotWord h _ o)

theorem fcvt (h : Slot) (o : ScR) : Statement (.fcvt h o) := by
  intro hw
  refine ⟨_, rfl, slot_Sc hw (by simp only [Instr.wf, Bool.and_eq_true] at hw; simp [hw]) (by decide) ?_⟩
  exact congrArg (fun x => some (Instr.fcvt h x)) (decodeScR_slotWord h _ o)

theorem fsgn (h : Slot) (o : ScR) : Statement (.fsgn h o) := by
  intro hw
  refine ⟨_, rfl, slot_Sc hw (by simp only [Instr.wf, Bool.and_eq_true] at hw; simp [hw]) (by decide) ?_⟩
  exact congrArg (fun x => some (Instr.fsgn h x)) (decodeScR_slotWord h _ o)

theorem pset (h : Slot) (o : ScR) : Statement (.pset h o) := by
  intro hw
  refine ⟨_, rfl, slot_Sc hw (by simp only [Instr.wf, Bool.and_eq_true] at hw; simp [hw]) (by decide) ?_⟩
  exact congrArg (fun x => some (Instr.pset h x)) (decodeScR_slotWord h _ o)

theorem pclr (h : Slot) (o : ScR) : Statement (.pclr h o) := by
  intro hw
  refine ⟨_, rfl, slot_Sc hw (by simp only [Instr.wf, Bool.and_eq_true] at hw; simp [hw]) (by decide) ?_⟩
  exact congrArg (fun x => some (Instr.pclr h x)) (decodeScR_slotWord h _ o)

theorem pand (h : Slot) (o : ScR) : Statement (.pand h o) := by
  intro hw
  refine ⟨_, rfl, slot_Sc hw (by simp only [Instr.wf, Bool.and_eq_true] at hw; simp [hw]) (by decide) ?_⟩
  exact congrArg (fun x => some (Instr.pand h x)) (decodeScR_slotWord h _ o)

theorem por (h : Slot) (o : ScR) : Statement (.por h o) := by
  intro hw
  refine ⟨_, rfl, slot_Sc hw (by simp only [Instr.wf, Bool.and_eq_true] at hw; simp [hw]) (by decide) ?_⟩
  exact congrArg (fun x => some (Instr.por h x)) (decodeScR_slotWord h _ o)

theorem pnot (h : Slot) (o : ScR) : Statement (.pnot h o) := by
  intro hw
  refine ⟨_, rfl, slot_Sc hw (by simp only [Instr.wf, Bool.and_eq_true] at hw; simp [hw]) (by decide) ?_⟩
  exact congrArg (fun x => some (Instr.pnot h x)) (decodeScR_slotWord h _ o)

theorem bra (h : Slot) (o : BrD) : Statement (.bra h o) := by
  intro hw
  refine ⟨_, rfl, slot_Br hw (by simp only [Instr.wf, Bool.and_eq_true] at hw; simp [hw]) (by decide) ?_⟩
  exact congrArg (fun x => some (Instr.bra h x)) (decodeBrD_slotWord h _ o)

theorem brf (h : Slot) (o : BrD) : Statement (.brf h o) := by
  intro hw
  refine ⟨_, rfl, slot_Br hw (by simp only [Instr.wf, Bool.and_eq_true] at hw; simp [hw]) (by decide) ?_⟩
  exact congrArg (fun x => some (Instr.brf h x)) (decodeBrD_slotWord h _ o)

theorem call (h : Slot) (o : BrD) : Statement (.call h o) := by
  intro hw
  refine ⟨_, rfl, slot_Br hw (by simp only [Instr.wf, Bool.and_eq_true] at hw; simp [hw]) (by decide) ?_⟩
  exact congrArg (fun x => some (Instr.call h x)) (decodeBrD_slotWord h _ o)

theorem ret (h : Slot) (o : BrR) : Statement (.ret h o) := by
  intro hw
  refine ⟨_, rfl, slot_Br hw (by simp only [Instr.wf, Bool.and_eq_true] at hw; simp [hw]) (by decide) ?_⟩
  exact congrArg (fun x => some (Instr.ret h x)) (decodeBrR_slotWord h _ o)

theorem jmp (h : Slot) (o : BrR) : Statement (.jmp h o) := by
  intro hw
  refine ⟨_, rfl, slot_Br hw (by simp only [Instr.wf, Bool.and_eq_true] at hw; simp [hw]) (by decide) ?_⟩
  exact congrArg (fun x => some (Instr.jmp h x)) (decodeBrR_slotWord h _ o)

theorem loop (h : Slot) (o : BrL) : Statement (.loop h o) := by
  intro hw
  refine ⟨_, rfl, slot_Br hw (by simp only [Instr.wf, Bool.and_eq_true] at hw; simp [hw]) (by decide) ?_⟩
  exact congrArg (fun x => some (Instr.loop h x)) (decodeBrL_slotWord h _ o)

theorem loopi (h : Slot) (o : BrL) : Statement (.loopi h o) := by
  intro hw
  refine ⟨_, rfl, slot_Br hw (by simp only [Instr.wf, Bool.and_eq_true] at hw; simp [hw]) (by decide) ?_⟩
  exact congrArg (fun x => some (Instr.loopi h x)) (decodeBrL_slotWord h _ o)

theorem lbrk (h : Slot) (o : BrR) : Statement (.lbrk h o) := by
  intro hw
  refine ⟨_, rfl, slot_Br hw (by simp only [Instr.wf, Bool.and_eq_true] at hw; simp [hw]) (by decide) ?_⟩
  exact congrArg (fun x => some (Instr.lbrk h x)) (decodeBrR_slotWord h _ o)

theorem done (h : Slot) (o : BrR) : Statement (.done h o) := by
  intro hw
  refine ⟨_, rfl, slot_Br hw (by simp only [Instr.wf, Bool.and_eq_true] at hw; simp [hw]) (by decide) ?_⟩
  exact congrArg (fun x => some (Instr.done h x)) (decodeBrR_slotWord h _ o)

theorem trap (h : Slot) (o : BrR) : Statement (.trap h o) := by
  intro hw
  refine ⟨_, rfl, slot_Br hw (by simp only [Instr.wf, Bool.and_eq_true] at hw; simp [hw]) (by decide) ?_⟩
  exact congrArg (fun x => some (Instr.trap h x)) (decodeBrR_slotWord h _ o)

theorem eret (h : Slot) (o : BrR) : Statement (.eret h o) := by
  intro hw
  refine ⟨_, rfl, slot_Br hw (by simp only [Instr.wf, Bool.and_eq_true] at hw; simp [hw]) (by decide) ?_⟩
  exact congrArg (fun x => some (Instr.eret h x)) (decodeBrR_slotWord h _ o)

theorem yield (h : Slot) (o : BrR) : Statement (.yield h o) := by
  intro hw
  refine ⟨_, rfl, slot_Br hw (by simp only [Instr.wf, Bool.and_eq_true] at hw; simp [hw]) (by decide) ?_⟩
  exact congrArg (fun x => some (Instr.yield h x)) (decodeBrR_slotWord h _ o)

theorem ld (h : Slot) (o : SmF) : Statement (.ld h o) := by
  intro hw
  refine ⟨_, rfl, slot_Sm hw (by simp only [Instr.wf, Bool.and_eq_true] at hw; simp [hw]) (by decide) ?_⟩
  exact congrArg (fun x => some (Instr.ld h x)) (decodeSmF_slotWord h _ o)

theorem st (h : Slot) (o : SmF) : Statement (.st h o) := by
  intro hw
  refine ⟨_, rfl, slot_Sm hw (by simp only [Instr.wf, Bool.and_eq_true] at hw; simp [hw]) (by decide) ?_⟩
  exact congrArg (fun x => some (Instr.st h x)) (decodeSmF_slotWord h _ o)

theorem ldx (h : Slot) (o : SmF) : Statement (.ldx h o) := by
  intro hw
  refine ⟨_, rfl, slot_Sm hw (by simp only [Instr.wf, Bool.and_eq_true] at hw; simp [hw]) (by decide) ?_⟩
  exact congrArg (fun x => some (Instr.ldx h x)) (decodeSmF_slotWord h _ o)

theorem stx (h : Slot) (o : SmF) : Statement (.stx h o) := by
  intro hw
  refine ⟨_, rfl, slot_Sm hw (by simp only [Instr.wf, Bool.and_eq_true] at hw; simp [hw]) (by decide) ?_⟩
  exact congrArg (fun x => some (Instr.stx h x)) (decodeSmF_slotWord h _ o)

theorem stg (h : Slot) (o : SmF) : Statement (.stg h o) := by
  intro hw
  refine ⟨_, rfl, slot_Sm hw (by simp only [Instr.wf, Bool.and_eq_true] at hw; simp [hw]) (by decide) ?_⟩
  exact congrArg (fun x => some (Instr.stg h x)) (decodeSmF_slotWord h _ o)

theorem ldg (h : Slot) (o : SmF) : Statement (.ldg h o) := by
  intro hw
  refine ⟨_, rfl, slot_Sm hw (by simp only [Instr.wf, Bool.and_eq_true] at hw; simp [hw]) (by decide) ?_⟩
  exact congrArg (fun x => some (Instr.ldg h x)) (decodeSmF_slotWord h _ o)

theorem aadd (h : Slot) (o : SmF) : Statement (.aadd h o) := by
  intro hw
  refine ⟨_, rfl, slot_Sm hw (by simp only [Instr.wf, Bool.and_eq_true] at hw; simp [hw]) (by decide) ?_⟩
  exact congrArg (fun x => some (Instr.aadd h x)) (decodeSmF_slotWord h _ o)

theorem aand (h : Slot) (o : SmF) : Statement (.aand h o) := by
  intro hw
  refine ⟨_, rfl, slot_Sm hw (by simp only [Instr.wf, Bool.and_eq_true] at hw; simp [hw]) (by decide) ?_⟩
  exact congrArg (fun x => some (Instr.aand h x)) (decodeSmF_slotWord h _ o)

theorem aor (h : Slot) (o : SmF) : Statement (.aor h o) := by
  intro hw
  refine ⟨_, rfl, slot_Sm hw (by simp only [Instr.wf, Bool.and_eq_true] at hw; simp [hw]) (by decide) ?_⟩
  exact congrArg (fun x => some (Instr.aor h x)) (decodeSmF_slotWord h _ o)

theorem axor (h : Slot) (o : SmF) : Statement (.axor h o) := by
  intro hw
  refine ⟨_, rfl, slot_Sm hw (by simp only [Instr.wf, Bool.and_eq_true] at hw; simp [hw]) (by decide) ?_⟩
  exact congrArg (fun x => some (Instr.axor h x)) (decodeSmF_slotWord h _ o)

theorem amin (h : Slot) (o : SmF) : Statement (.amin h o) := by
  intro hw
  refine ⟨_, rfl, slot_Sm hw (by simp only [Instr.wf, Bool.and_eq_true] at hw; simp [hw]) (by decide) ?_⟩
  exact congrArg (fun x => some (Instr.amin h x)) (decodeSmF_slotWord h _ o)

theorem amax (h : Slot) (o : SmF) : Statement (.amax h o) := by
  intro hw
  refine ⟨_, rfl, slot_Sm hw (by simp only [Instr.wf, Bool.and_eq_true] at hw; simp [hw]) (by decide) ?_⟩
  exact congrArg (fun x => some (Instr.amax h x)) (decodeSmF_slotWord h _ o)

theorem aminz (h : Slot) (o : SmF) : Statement (.aminz h o) := by
  intro hw
  refine ⟨_, rfl, slot_Sm hw (by simp only [Instr.wf, Bool.and_eq_true] at hw; simp [hw]) (by decide) ?_⟩
  exact congrArg (fun x => some (Instr.aminz h x)) (decodeSmF_slotWord h _ o)

theorem amaxz (h : Slot) (o : SmF) : Statement (.amaxz h o) := by
  intro hw
  refine ⟨_, rfl, slot_Sm hw (by simp only [Instr.wf, Bool.and_eq_true] at hw; simp [hw]) (by decide) ?_⟩
  exact congrArg (fun x => some (Instr.amaxz h x)) (decodeSmF_slotWord h _ o)

theorem axch (h : Slot) (o : SmF) : Statement (.axch h o) := by
  intro hw
  refine ⟨_, rfl, slot_Sm hw (by simp only [Instr.wf, Bool.and_eq_true] at hw; simp [hw]) (by decide) ?_⟩
  exact congrArg (fun x => some (Instr.axch h x)) (decodeSmF_slotWord h _ o)

theorem acas (h : Slot) (o : SmF) : Statement (.acas h o) := by
  intro hw
  refine ⟨_, rfl, slot_Sm hw (by simp only [Instr.wf, Bool.and_eq_true] at hw; simp [hw]) (by decide) ?_⟩
  exact congrArg (fun x => some (Instr.acas h x)) (decodeSmF_slotWord h _ o)

theorem afadd (h : Slot) (o : SmF) : Statement (.afadd h o) := by
  intro hw
  refine ⟨_, rfl, slot_Sm hw (by simp only [Instr.wf, Bool.and_eq_true] at hw; simp [hw]) (by decide) ?_⟩
  exact congrArg (fun x => some (Instr.afadd h x)) (decodeSmF_slotWord h _ o)

theorem mjld (h : Slot) (o : SmF) : Statement (.mjld h o) := by
  intro hw
  refine ⟨_, rfl, slot_Sm hw (by simp only [Instr.wf, Bool.and_eq_true] at hw; simp [hw]) (by decide) ?_⟩
  exact congrArg (fun x => some (Instr.mjld h x)) (decodeSmF_slotWord h _ o)

theorem mjst (h : Slot) (o : SmF) : Statement (.mjst h o) := by
  intro hw
  refine ⟨_, rfl, slot_Sm hw (by simp only [Instr.wf, Bool.and_eq_true] at hw; simp [hw]) (by decide) ?_⟩
  exact congrArg (fun x => some (Instr.mjst h x)) (decodeSmF_slotWord h _ o)

theorem fenceAcquire (h : Slot) (o : SmF) : Statement (.fenceAcquire h o) := by
  intro hw
  have hs := hw
  simp only [Instr.wf, SmF.fenceOk, Bool.and_eq_true, decide_eq_true_eq] at hs
  have ho : ((slotWord h 0x14 o.bits).extractLsb' 10 9).toNat = 0 := by
    rw [show (slotWord h 0x14 o.bits).extractLsb' 10 9 = (decodeSmF (slotWord h 0x14 o.bits)).off from rfl,
      decodeSmF_slotWord]
    simp [hs]
  refine ⟨_, rfl, slot_Sm hw (by simp [hs]) (by decide) ?_⟩
  show decodeSm h _ 0x14 = _
  simp only [decodeSm, ho, decodeSmF_slotWord]

theorem fenceRelease (h : Slot) (o : SmF) : Statement (.fenceRelease h o) := by
  intro hw
  have hs := hw
  simp only [Instr.wf, SmF.fenceOk, Bool.and_eq_true, decide_eq_true_eq] at hs
  have ho : ((slotWord h 0x14 o.bits).extractLsb' 10 9).toNat = 1 := by
    rw [show (slotWord h 0x14 o.bits).extractLsb' 10 9 = (decodeSmF (slotWord h 0x14 o.bits)).off from rfl,
      decodeSmF_slotWord]
    simp [hs]
  refine ⟨_, rfl, slot_Sm hw (by simp [hs]) (by decide) ?_⟩
  show decodeSm h _ 0x14 = _
  simp only [decodeSm, ho, decodeSmF_slotWord]

theorem fenceFull (h : Slot) (o : SmF) : Statement (.fenceFull h o) := by
  intro hw
  have hs := hw
  simp only [Instr.wf, SmF.fenceOk, Bool.and_eq_true, decide_eq_true_eq] at hs
  have ho : ((slotWord h 0x14 o.bits).extractLsb' 10 9).toNat = 2 := by
    rw [show (slotWord h 0x14 o.bits).extractLsb' 10 9 = (decodeSmF (slotWord h 0x14 o.bits)).off from rfl,
      decodeSmF_slotWord]
    simp [hs]
  refine ⟨_, rfl, slot_Sm hw (by simp [hs]) (by decide) ?_⟩
  show decodeSm h _ 0x14 = _
  simp only [decodeSm, ho, decodeSmF_slotWord]

theorem fenceEngineComplete (h : Slot) (o : SmF) : Statement (.fenceEngineComplete h o) := by
  intro hw
  have hs := hw
  simp only [Instr.wf, SmF.fenceOk, Bool.and_eq_true, decide_eq_true_eq] at hs
  have ho : ((slotWord h 0x14 o.bits).extractLsb' 10 9).toNat = 3 := by
    rw [show (slotWord h 0x14 o.bits).extractLsb' 10 9 = (decodeSmF (slotWord h 0x14 o.bits)).off from rfl,
      decodeSmF_slotWord]
    simp [hs]
  refine ⟨_, rfl, slot_Sm hw (by simp [hs]) (by decide) ?_⟩
  show decodeSm h _ 0x14 = _
  simp only [decodeSm, ho, decodeSmF_slotWord]

theorem fencePublishVisible (h : Slot) (o : SmF) : Statement (.fencePublishVisible h o) := by
  intro hw
  have hs := hw
  simp only [Instr.wf, SmF.fenceOk, Bool.and_eq_true, decide_eq_true_eq] at hs
  have ho : ((slotWord h 0x14 o.bits).extractLsb' 10 9).toNat = 4 := by
    rw [show (slotWord h 0x14 o.bits).extractLsb' 10 9 = (decodeSmF (slotWord h 0x14 o.bits)).off from rfl,
      decodeSmF_slotWord]
    simp [hs]
  refine ⟨_, rfl, slot_Sm hw (by simp [hs]) (by decide) ?_⟩
  show decodeSm h _ 0x14 = _
  simp only [decodeSm, ho, decodeSmF_slotWord]

theorem bar (h : Slot) (o : SmF) : Statement (.bar h o) := by
  intro hw
  refine ⟨_, rfl, slot_Sm hw (by simp only [Instr.wf, Bool.and_eq_true] at hw; simp [hw]) (by decide) ?_⟩
  exact congrArg (fun x => some (Instr.bar h x)) (decodeSmF_slotWord h _ o)

theorem evpop (h : Slot) (o : SmF) : Statement (.evpop h o) := by
  intro hw
  refine ⟨_, rfl, slot_Sm hw (by simp only [Instr.wf, Bool.and_eq_true] at hw; simp [hw]) (by decide) ?_⟩
  exact congrArg (fun x => some (Instr.evpop h x)) (decodeSmF_slotWord h _ o)

theorem evpost (h : Slot) (o : SmF) : Statement (.evpost h o) := by
  intro hw
  refine ⟨_, rfl, slot_Sm hw (by simp only [Instr.wf, Bool.and_eq_true] at hw; simp [hw]) (by decide) ?_⟩
  exact congrArg (fun x => some (Instr.evpost h x)) (decodeSmF_slotWord h _ o)

theorem launch (h : Slot) (o : SmF) : Statement (.launch h o) := by
  intro hw
  refine ⟨_, rfl, slot_Sm hw (by simp only [Instr.wf, Bool.and_eq_true] at hw; simp [hw]) (by decide) ?_⟩
  exact congrArg (fun x => some (Instr.launch h x)) (decodeSmF_slotWord h _ o)

theorem sysr (h : Slot) (o : SmF) : Statement (.sysr h o) := by
  intro hw
  refine ⟨_, rfl, slot_Sm hw (by simp only [Instr.wf, Bool.and_eq_true] at hw; simp [hw]) (by decide) ?_⟩
  exact congrArg (fun x => some (Instr.sysr h x)) (decodeSmF_slotWord h _ o)

theorem sysw (h : Slot) (o : SmF) : Statement (.sysw h o) := by
  intro hw
  refine ⟨_, rfl, slot_Sm hw (by simp only [Instr.wf, Bool.and_eq_true] at hw; simp [hw]) (by decide) ?_⟩
  exact congrArg (fun x => some (Instr.sysw h x)) (decodeSmF_slotWord h _ o)

theorem tq (h : Slot) (o : SmF) : Statement (.tq h o) := by
  intro hw
  refine ⟨_, rfl, slot_Sm hw (by simp only [Instr.wf, Bool.and_eq_true] at hw; simp [hw]) (by decide) ?_⟩
  exact congrArg (fun x => some (Instr.tq h x)) (decodeSmF_slotWord h _ o)

theorem chsigReady (h : Slot) (o : SmF) : Statement (.chsigReady h o) := by
  intro hw
  have hs := hw
  simp only [Instr.wf, SmF.fenceOk, Bool.and_eq_true, decide_eq_true_eq] at hs
  have ho : ((slotWord h 0x1C o.bits).extractLsb' 10 9).toNat = 0 := by
    rw [show (slotWord h 0x1C o.bits).extractLsb' 10 9 = (decodeSmF (slotWord h 0x1C o.bits)).off from rfl,
      decodeSmF_slotWord]
    simp [hs]
  refine ⟨_, rfl, slot_Sm hw (by simp [hs]) (by decide) ?_⟩
  show decodeSm h _ 0x1C = _
  simp only [decodeSm, ho, decodeSmF_slotWord]

theorem chsigReturn (h : Slot) (o : SmF) : Statement (.chsigReturn h o) := by
  intro hw
  have hs := hw
  simp only [Instr.wf, SmF.fenceOk, Bool.and_eq_true, decide_eq_true_eq] at hs
  have ho : ((slotWord h 0x1C o.bits).extractLsb' 10 9).toNat = 1 := by
    rw [show (slotWord h 0x1C o.bits).extractLsb' 10 9 = (decodeSmF (slotWord h 0x1C o.bits)).off from rfl,
      decodeSmF_slotWord]
    simp [hs]
  refine ⟨_, rfl, slot_Sm hw (by simp [hs]) (by decide) ?_⟩
  show decodeSm h _ 0x1C = _
  simp only [decodeSm, ho, decodeSmF_slotWord]

theorem brel (h : Slot) (o : SmF) : Statement (.brel h o) := by
  intro hw
  refine ⟨_, rfl, slot_Sm hw (by simp only [Instr.wf, Bool.and_eq_true] at hw; simp [hw]) (by decide) ?_⟩
  exact congrArg (fun x => some (Instr.brel h x)) (decodeSmF_slotWord h _ o)

theorem vadd (h : Slot) (o : VaF) : Statement (.vadd h o) := by
  intro hw
  refine ⟨_, rfl, slot_Va hw (by simp only [Instr.wf, Bool.and_eq_true] at hw; simp [hw]) (by decide) ?_⟩
  exact congrArg (fun x => some (Instr.vadd h x)) (decodeVaF_slotWord h _ o)

theorem vsub (h : Slot) (o : VaF) : Statement (.vsub h o) := by
  intro hw
  refine ⟨_, rfl, slot_Va hw (by simp only [Instr.wf, Bool.and_eq_true] at hw; simp [hw]) (by decide) ?_⟩
  exact congrArg (fun x => some (Instr.vsub h x)) (decodeVaF_slotWord h _ o)

theorem vmul (h : Slot) (o : VaF) : Statement (.vmul h o) := by
  intro hw
  refine ⟨_, rfl, slot_Va hw (by simp only [Instr.wf, Bool.and_eq_true] at hw; simp [hw]) (by decide) ?_⟩
  exact congrArg (fun x => some (Instr.vmul h x)) (decodeVaF_slotWord h _ o)

theorem vmulh (h : Slot) (o : VaF) : Statement (.vmulh h o) := by
  intro hw
  refine ⟨_, rfl, slot_Va hw (by simp only [Instr.wf, Bool.and_eq_true] at hw; simp [hw]) (by decide) ?_⟩
  exact congrArg (fun x => some (Instr.vmulh h x)) (decodeVaF_slotWord h _ o)

theorem vfma (h : Slot) (o : VaF) : Statement (.vfma h o) := by
  intro hw
  refine ⟨_, rfl, slot_Va hw (by simp only [Instr.wf, Bool.and_eq_true] at hw; simp [hw]) (by decide) ?_⟩
  exact congrArg (fun x => some (Instr.vfma h x)) (decodeVaF_slotWord h _ o)

theorem vfms (h : Slot) (o : VaF) : Statement (.vfms h o) := by
  intro hw
  refine ⟨_, rfl, slot_Va hw (by simp only [Instr.wf, Bool.and_eq_true] at hw; simp [hw]) (by decide) ?_⟩
  exact congrArg (fun x => some (Instr.vfms h x)) (decodeVaF_slotWord h _ o)

theorem vfnma (h : Slot) (o : VaF) : Statement (.vfnma h o) := by
  intro hw
  refine ⟨_, rfl, slot_Va hw (by simp only [Instr.wf, Bool.and_eq_true] at hw; simp [hw]) (by decide) ?_⟩
  exact congrArg (fun x => some (Instr.vfnma h x)) (decodeVaF_slotWord h _ o)

theorem vmin (h : Slot) (o : VaF) : Statement (.vmin h o) := by
  intro hw
  refine ⟨_, rfl, slot_Va hw (by simp only [Instr.wf, Bool.and_eq_true] at hw; simp [hw]) (by decide) ?_⟩
  exact congrArg (fun x => some (Instr.vmin h x)) (decodeVaF_slotWord h _ o)

theorem vmax (h : Slot) (o : VaF) : Statement (.vmax h o) := by
  intro hw
  refine ⟨_, rfl, slot_Va hw (by simp only [Instr.wf, Bool.and_eq_true] at hw; simp [hw]) (by decide) ?_⟩
  exact congrArg (fun x => some (Instr.vmax h x)) (decodeVaF_slotWord h _ o)

theorem vabs (h : Slot) (o : VaF) : Statement (.vabs h o) := by
  intro hw
  refine ⟨_, rfl, slot_Va hw (by simp only [Instr.wf, Bool.and_eq_true] at hw; simp [hw]) (by decide) ?_⟩
  exact congrArg (fun x => some (Instr.vabs h x)) (decodeVaF_slotWord h _ o)

theorem vneg (h : Slot) (o : VaF) : Statement (.vneg h o) := by
  intro hw
  refine ⟨_, rfl, slot_Va hw (by simp only [Instr.wf, Bool.and_eq_true] at hw; simp [hw]) (by decide) ?_⟩
  exact congrArg (fun x => some (Instr.vneg h x)) (decodeVaF_slotWord h _ o)

theorem vand (h : Slot) (o : VaF) : Statement (.vand h o) := by
  intro hw
  refine ⟨_, rfl, slot_Va hw (by simp only [Instr.wf, Bool.and_eq_true] at hw; simp [hw]) (by decide) ?_⟩
  exact congrArg (fun x => some (Instr.vand h x)) (decodeVaF_slotWord h _ o)

theorem vor (h : Slot) (o : VaF) : Statement (.vor h o) := by
  intro hw
  refine ⟨_, rfl, slot_Va hw (by simp only [Instr.wf, Bool.and_eq_true] at hw; simp [hw]) (by decide) ?_⟩
  exact congrArg (fun x => some (Instr.vor h x)) (decodeVaF_slotWord h _ o)

theorem vxor (h : Slot) (o : VaF) : Statement (.vxor h o) := by
  intro hw
  refine ⟨_, rfl, slot_Va hw (by simp only [Instr.wf, Bool.and_eq_true] at hw; simp [hw]) (by decide) ?_⟩
  exact congrArg (fun x => some (Instr.vxor h x)) (decodeVaF_slotWord h _ o)

theorem vshl (h : Slot) (o : VaF) : Statement (.vshl h o) := by
  intro hw
  refine ⟨_, rfl, slot_Va hw (by simp only [Instr.wf, Bool.and_eq_true] at hw; simp [hw]) (by decide) ?_⟩
  exact congrArg (fun x => some (Instr.vshl h x)) (decodeVaF_slotWord h _ o)

theorem vshr (h : Slot) (o : VaF) : Statement (.vshr h o) := by
  intro hw
  refine ⟨_, rfl, slot_Va hw (by simp only [Instr.wf, Bool.and_eq_true] at hw; simp [hw]) (by decide) ?_⟩
  exact congrArg (fun x => some (Instr.vshr h x)) (decodeVaF_slotWord h _ o)

theorem vsra (h : Slot) (o : VaF) : Statement (.vsra h o) := by
  intro hw
  refine ⟨_, rfl, slot_Va hw (by simp only [Instr.wf, Bool.and_eq_true] at hw; simp [hw]) (by decide) ?_⟩
  exact congrArg (fun x => some (Instr.vsra h x)) (decodeVaF_slotWord h _ o)

theorem vcmp (h : Slot) (o : VaF) : Statement (.vcmp h o) := by
  intro hw
  refine ⟨_, rfl, slot_Va hw (by simp only [Instr.wf, Bool.and_eq_true] at hw; simp [hw]) (by decide) ?_⟩
  exact congrArg (fun x => some (Instr.vcmp h x)) (decodeVaF_slotWord h _ o)

theorem vsel (h : Slot) (o : VaF) : Statement (.vsel h o) := by
  intro hw
  refine ⟨_, rfl, slot_Va hw (by simp only [Instr.wf, Bool.and_eq_true] at hw; simp [hw]) (by decide) ?_⟩
  exact congrArg (fun x => some (Instr.vsel h x)) (decodeVaF_slotWord h _ o)

theorem vclamp (h : Slot) (o : VaF) : Statement (.vclamp h o) := by
  intro hw
  refine ⟨_, rfl, slot_Va hw (by simp only [Instr.wf, Bool.and_eq_true] at hw; simp [hw]) (by decide) ?_⟩
  exact congrArg (fun x => some (Instr.vclamp h x)) (decodeVaF_slotWord h _ o)

theorem vmov (h : Slot) (o : VaF) : Statement (.vmov h o) := by
  intro hw
  refine ⟨_, rfl, slot_Va hw (by simp only [Instr.wf, Bool.and_eq_true] at hw; simp [hw]) (by decide) ?_⟩
  exact congrArg (fun x => some (Instr.vmov h x)) (decodeVaF_slotWord h _ o)

theorem vbcs (h : Slot) (o : VaF) : Statement (.vbcs h o) := by
  intro hw
  refine ⟨_, rfl, slot_Va hw (by simp only [Instr.wf, Bool.and_eq_true] at hw; simp [hw]) (by decide) ?_⟩
  exact congrArg (fun x => some (Instr.vbcs h x)) (decodeVaF_slotWord h _ o)

theorem vext (h : Slot) (o : VaF) : Statement (.vext h o) := by
  intro hw
  refine ⟨_, rfl, slot_Va hw (by simp only [Instr.wf, Bool.and_eq_true] at hw; simp [hw]) (by decide) ?_⟩
  exact congrArg (fun x => some (Instr.vext h x)) (decodeVaF_slotWord h _ o)

theorem vins (h : Slot) (o : VaF) : Statement (.vins h o) := by
  intro hw
  refine ⟨_, rfl, slot_Va hw (by simp only [Instr.wf, Bool.and_eq_true] at hw; simp [hw]) (by decide) ?_⟩
  exact congrArg (fun x => some (Instr.vins h x)) (decodeVaF_slotWord h _ o)

theorem vred (h : Slot) (o : VaF) : Statement (.vred h o) := by
  intro hw
  refine ⟨_, rfl, slot_Va hw (by simp only [Instr.wf, Bool.and_eq_true] at hw; simp [hw]) (by decide) ?_⟩
  exact congrArg (fun x => some (Instr.vred h x)) (decodeVaF_slotWord h _ o)

theorem vshuf (h : Slot) (o : VaF) : Statement (.vshuf h o) := by
  intro hw
  refine ⟨_, rfl, slot_Va hw (by simp only [Instr.wf, Bool.and_eq_true] at hw; simp [hw]) (by decide) ?_⟩
  exact congrArg (fun x => some (Instr.vshuf h x)) (decodeVaF_slotWord h _ o)

theorem vrmg (h : Slot) (o : VaF) : Statement (.vrmg h o) := by
  intro hw
  refine ⟨_, rfl, slot_Va hw (by simp only [Instr.wf, Bool.and_eq_true] at hw; simp [hw]) (by decide) ?_⟩
  exact congrArg (fun x => some (Instr.vrmg h x)) (decodeVaF_slotWord h _ o)

theorem vcvt (h : Slot) (o : VaF) : Statement (.vcvt h o) := by
  intro hw
  refine ⟨_, rfl, slot_Va hw (by simp only [Instr.wf, Bool.and_eq_true] at hw; simp [hw]) (by decide) ?_⟩
  exact congrArg (fun x => some (Instr.vcvt h x)) (decodeVaF_slotWord h _ o)

theorem vpack (h : Slot) (o : VaF) : Statement (.vpack h o) := by
  intro hw
  refine ⟨_, rfl, slot_Va hw (by simp only [Instr.wf, Bool.and_eq_true] at hw; simp [hw]) (by decide) ?_⟩
  exact congrArg (fun x => some (Instr.vpack h x)) (decodeVaF_slotWord h _ o)

theorem vunpk (h : Slot) (o : VaF) : Statement (.vunpk h o) := by
  intro hw
  refine ⟨_, rfl, slot_Va hw (by simp only [Instr.wf, Bool.and_eq_true] at hw; simp [hw]) (by decide) ?_⟩
  exact congrArg (fun x => some (Instr.vunpk h x)) (decodeVaF_slotWord h _ o)

theorem vqnt (h : Slot) (o : VaF) : Statement (.vqnt h o) := by
  intro hw
  refine ⟨_, rfl, slot_Va hw (by simp only [Instr.wf, Bool.and_eq_true] at hw; simp [hw]) (by decide) ?_⟩
  exact congrArg (fun x => some (Instr.vqnt h x)) (decodeVaF_slotWord h _ o)

theorem vdqnt (h : Slot) (o : VaF) : Statement (.vdqnt h o) := by
  intro hw
  refine ⟨_, rfl, slot_Va hw (by simp only [Instr.wf, Bool.and_eq_true] at hw; simp [hw]) (by decide) ?_⟩
  exact congrArg (fun x => some (Instr.vdqnt h x)) (decodeVaF_slotWord h _ o)

theorem vdot4 (h : Slot) (o : VaF) : Statement (.vdot4 h o) := by
  intro hw
  refine ⟨_, rfl, slot_Va hw (by simp only [Instr.wf, Bool.and_eq_true] at hw; simp [hw]) (by decide) ?_⟩
  exact congrArg (fun x => some (Instr.vdot4 h x)) (decodeVaF_slotWord h _ o)

theorem vexp2 (h : Slot) (o : VaF) : Statement (.vexp2 h o) := by
  intro hw
  refine ⟨_, rfl, slot_Va hw (by simp only [Instr.wf, Bool.and_eq_true] at hw; simp [hw]) (by decide) ?_⟩
  exact congrArg (fun x => some (Instr.vexp2 h x)) (decodeVaF_slotWord h _ o)

theorem vlog2 (h : Slot) (o : VaF) : Statement (.vlog2 h o) := by
  intro hw
  refine ⟨_, rfl, slot_Va hw (by simp only [Instr.wf, Bool.and_eq_true] at hw; simp [hw]) (by decide) ?_⟩
  exact congrArg (fun x => some (Instr.vlog2 h x)) (decodeVaF_slotWord h _ o)

theorem vrcp (h : Slot) (o : VaF) : Statement (.vrcp h o) := by
  intro hw
  refine ⟨_, rfl, slot_Va hw (by simp only [Instr.wf, Bool.and_eq_true] at hw; simp [hw]) (by decide) ?_⟩
  exact congrArg (fun x => some (Instr.vrcp h x)) (decodeVaF_slotWord h _ o)

theorem vrsq (h : Slot) (o : VaF) : Statement (.vrsq h o) := by
  intro hw
  refine ⟨_, rfl, slot_Va hw (by simp only [Instr.wf, Bool.and_eq_true] at hw; simp [hw]) (by decide) ?_⟩
  exact congrArg (fun x => some (Instr.vrsq h x)) (decodeVaF_slotWord h _ o)

theorem vsqrt (h : Slot) (o : VaF) : Statement (.vsqrt h o) := by
  intro hw
  refine ⟨_, rfl, slot_Va hw (by simp only [Instr.wf, Bool.and_eq_true] at hw; simp [hw]) (by decide) ?_⟩
  exact congrArg (fun x => some (Instr.vsqrt h x)) (decodeVaF_slotWord h _ o)

theorem vtanh (h : Slot) (o : VaF) : Statement (.vtanh h o) := by
  intro hw
  refine ⟨_, rfl, slot_Va hw (by simp only [Instr.wf, Bool.and_eq_true] at hw; simp [hw]) (by decide) ?_⟩
  exact congrArg (fun x => some (Instr.vtanh h x)) (decodeVaF_slotWord h _ o)

theorem vmand (h : Slot) (o : VaF) : Statement (.vmand h o) := by
  intro hw
  refine ⟨_, rfl, slot_Va hw (by simp only [Instr.wf, Bool.and_eq_true] at hw; simp [hw]) (by decide) ?_⟩
  exact congrArg (fun x => some (Instr.vmand h x)) (decodeVaF_slotWord h _ o)

theorem vmor (h : Slot) (o : VaF) : Statement (.vmor h o) := by
  intro hw
  refine ⟨_, rfl, slot_Va hw (by simp only [Instr.wf, Bool.and_eq_true] at hw; simp [hw]) (by decide) ?_⟩
  exact congrArg (fun x => some (Instr.vmor h x)) (decodeVaF_slotWord h _ o)

theorem vmnot (h : Slot) (o : VaF) : Statement (.vmnot h o) := by
  intro hw
  refine ⟨_, rfl, slot_Va hw (by simp only [Instr.wf, Bool.and_eq_true] at hw; simp [hw]) (by decide) ?_⟩
  exact congrArg (fun x => some (Instr.vmnot h x)) (decodeVaF_slotWord h _ o)

theorem vmpop (h : Slot) (o : VaF) : Statement (.vmpop h o) := by
  intro hw
  refine ⟨_, rfl, slot_Va hw (by simp only [Instr.wf, Bool.and_eq_true] at hw; simp [hw]) (by decide) ?_⟩
  exact congrArg (fun x => some (Instr.vmpop h x)) (decodeVaF_slotWord h _ o)

theorem vrng (h : Slot) (o : VaF) : Statement (.vrng h o) := by
  intro hw
  refine ⟨_, rfl, slot_Va hw (by simp only [Instr.wf, Bool.and_eq_true] at hw; simp [hw]) (by decide) ?_⟩
  exact congrArg (fun x => some (Instr.vrng h x)) (decodeVaF_slotWord h _ o)

theorem vld (h : Slot) (o : VlF) : Statement (.vld h o) := by
  intro hw
  refine ⟨_, rfl, slot_Vl hw (by simp only [Instr.wf, Bool.and_eq_true] at hw; simp [hw]) (by decide) ?_⟩
  exact congrArg (fun x => some (Instr.vld h x)) (decodeVlF_slotWord h _ o)

theorem vst (h : Slot) (o : VlF) : Statement (.vst h o) := by
  intro hw
  refine ⟨_, rfl, slot_Vl hw (by simp only [Instr.wf, Bool.and_eq_true] at hw; simp [hw]) (by decide) ?_⟩
  exact congrArg (fun x => some (Instr.vst h x)) (decodeVlF_slotWord h _ o)

theorem vstm (h : Slot) (o : VlF) : Statement (.vstm h o) := by
  intro hw
  refine ⟨_, rfl, slot_Vl hw (by simp only [Instr.wf, Bool.and_eq_true] at hw; simp [hw]) (by decide) ?_⟩
  exact congrArg (fun x => some (Instr.vstm h x)) (decodeVlF_slotWord h _ o)

theorem vldt (h : Slot) (o : VlF) : Statement (.vldt h o) := by
  intro hw
  refine ⟨_, rfl, slot_Vl hw (by simp only [Instr.wf, Bool.and_eq_true] at hw; simp [hw]) (by decide) ?_⟩
  exact congrArg (fun x => some (Instr.vldt h x)) (decodeVlF_slotWord h _ o)

theorem vldh (h : Slot) (o : VlF) : Statement (.vldh h o) := by
  intro hw
  refine ⟨_, rfl, slot_Vl hw (by simp only [Instr.wf, Bool.and_eq_true] at hw; simp [hw]) (by decide) ?_⟩
  exact congrArg (fun x => some (Instr.vldh h x)) (decodeVlF_slotWord h _ o)

theorem vsth (h : Slot) (o : VlF) : Statement (.vsth h o) := by
  intro hw
  refine ⟨_, rfl, slot_Vl hw (by simp only [Instr.wf, Bool.and_eq_true] at hw; simp [hw]) (by decide) ?_⟩
  exact congrArg (fun x => some (Instr.vsth h x)) (decodeVlF_slotWord h _ o)

theorem vldx (h : Slot) (o : VlF) : Statement (.vldx h o) := by
  intro hw
  refine ⟨_, rfl, slot_Vl hw (by simp only [Instr.wf, Bool.and_eq_true] at hw; simp [hw]) (by decide) ?_⟩
  exact congrArg (fun x => some (Instr.vldx h x)) (decodeVlF_slotWord h _ o)

theorem vstx (h : Slot) (o : VlF) : Statement (.vstx h o) := by
  intro hw
  refine ⟨_, rfl, slot_Vl hw (by simp only [Instr.wf, Bool.and_eq_true] at hw; simp [hw]) (by decide) ?_⟩
  exact congrArg (fun x => some (Instr.vstx h x)) (decodeVlF_slotWord h _ o)

theorem vxfer (h : Slot) (o : VlF) : Statement (.vxfer h o) := by
  intro hw
  refine ⟨_, rfl, slot_Vl hw (by simp only [Instr.wf, Bool.and_eq_true] at hw; simp [hw]) (by decide) ?_⟩
  exact congrArg (fun x => some (Instr.vxfer h x)) (decodeVlF_slotWord h _ o)

theorem vqpush (h : Slot) (o : VlF) : Statement (.vqpush h o) := by
  intro hw
  refine ⟨_, rfl, slot_Vl hw (by simp only [Instr.wf, Bool.and_eq_true] at hw; simp [hw]) (by decide) ?_⟩
  exact congrArg (fun x => some (Instr.vqpush h x)) (decodeVlF_slotWord h _ o)

theorem vbld (h : Slot) (o : VlF) : Statement (.vbld h o) := by
  intro hw
  refine ⟨_, rfl, slot_Vl hw (by simp only [Instr.wf, Bool.and_eq_true] at hw; simp [hw]) (by decide) ?_⟩
  exact congrArg (fun x => some (Instr.vbld h x)) (decodeVlF_slotWord h _ o)

theorem mlw (h : Slot) (o : EnF) : Statement (.mlw h o) := by
  intro hw
  refine ⟨_, rfl, slot_Mx hw (by simp only [Instr.wf, Bool.and_eq_true] at hw; simp [hw]) (by decide) ?_⟩
  exact congrArg (fun x => some (Instr.mlw h x)) (decodeEnF_slotWord h _ o)

theorem mma (h : Slot) (o : EnF) : Statement (.mma h o) := by
  intro hw
  refine ⟨_, rfl, slot_Mx hw (by simp only [Instr.wf, Bool.and_eq_true] at hw; simp [hw]) (by decide) ?_⟩
  exact congrArg (fun x => some (Instr.mma h x)) (decodeEnF_slotWord h _ o)

theorem mmar (h : Slot) (o : EnF) : Statement (.mmar h o) := by
  intro hw
  refine ⟨_, rfl, slot_Mx hw (by simp only [Instr.wf, Bool.and_eq_true] at hw; simp [hw]) (by decide) ?_⟩
  exact congrArg (fun x => some (Instr.mmar h x)) (decodeEnF_slotWord h _ o)

theorem mzr (h : Slot) (o : EnF) : Statement (.mzr h o) := by
  intro hw
  refine ⟨_, rfl, slot_Mx hw (by simp only [Instr.wf, Bool.and_eq_true] at hw; simp [hw]) (by decide) ?_⟩
  exact congrArg (fun x => some (Instr.mzr h x)) (decodeEnF_slotWord h _ o)

theorem mst (h : Slot) (o : EnF) : Statement (.mst h o) := by
  intro hw
  refine ⟨_, rfl, slot_Mx hw (by simp only [Instr.wf, Bool.and_eq_true] at hw; simp [hw]) (by decide) ?_⟩
  exact congrArg (fun x => some (Instr.mst h x)) (decodeEnF_slotWord h _ o)

theorem mscl (h : Slot) (o : EnF) : Statement (.mscl h o) := by
  intro hw
  refine ⟨_, rfl, slot_Mx hw (by simp only [Instr.wf, Bool.and_eq_true] at hw; simp [hw]) (by decide) ?_⟩
  exact congrArg (fun x => some (Instr.mscl h x)) (decodeEnF_slotWord h _ o)

theorem mnest (h : Slot) (o : EnF) : Statement (.mnest h o) := by
  intro hw
  refine ⟨_, rfl, slot_Mx hw (by simp only [Instr.wf, Bool.and_eq_true] at hw; simp [hw]) (by decide) ?_⟩
  exact congrArg (fun x => some (Instr.mnest h x)) (decodeEnF_slotWord h _ o)

theorem mcop (h : Slot) (o : EnF) : Statement (.mcop h o) := by
  intro hw
  refine ⟨_, rfl, slot_Mx hw (by simp only [Instr.wf, Bool.and_eq_true] at hw; simp [hw]) (by decide) ?_⟩
  exact congrArg (fun x => some (Instr.mcop h x)) (decodeEnF_slotWord h _ o)

theorem smv (h : Slot) (o : EnF) : Statement (.smv h o) := by
  intro hw
  refine ⟨_, rfl, slot_Mx hw (by simp only [Instr.wf, Bool.and_eq_true] at hw; simp [hw]) (by decide) ?_⟩
  exact congrArg (fun x => some (Instr.smv h x)) (decodeEnF_slotWord h _ o)

theorem cpy (h : Slot) (o : EnF) : Statement (.cpy h o) := by
  intro hw
  refine ⟨_, rfl, slot_Cp hw (by simp only [Instr.wf, Bool.and_eq_true] at hw; simp [hw]) (by decide) ?_⟩
  exact congrArg (fun x => some (Instr.cpy h x)) (decodeEnF_slotWord h _ o)

theorem cpg (h : Slot) (o : EnF) : Statement (.cpg h o) := by
  intro hw
  refine ⟨_, rfl, slot_Cp hw (by simp only [Instr.wf, Bool.and_eq_true] at hw; simp [hw]) (by decide) ?_⟩
  exact congrArg (fun x => some (Instr.cpg h x)) (decodeEnF_slotWord h _ o)

theorem cps (h : Slot) (o : EnF) : Statement (.cps h o) := by
  intro hw
  refine ⟨_, rfl, slot_Cp hw (by simp only [Instr.wf, Bool.and_eq_true] at hw; simp [hw]) (by decide) ?_⟩
  exact congrArg (fun x => some (Instr.cps h x)) (decodeEnF_slotWord h _ o)

theorem cptOffload (h : Slot) (o : EnF) : Statement (.cptOffload h o) := by
  intro hw
  have hs := hw
  simp only [Instr.wf, Bool.and_eq_true] at hs
  refine ⟨_, rfl, slot_Cp hw (by simp_all) (by decide) ?_⟩
  have ho : (slotWord h 0x04 o.bits).getLsbD 10 = o.prm.getLsbD 10 := by
    conv => rhs; rw [← decodeEnF_slotWord h 0x04 o]
    simp [decodeEnF, BitVec.getLsbD_extractLsb']
  show some (if (slotWord h 0x04 o.bits).getLsbD 10 then Instr.cptFetch h (decodeEnF (slotWord h 0x04 o.bits))
    else Instr.cptOffload h (decodeEnF (slotWord h 0x04 o.bits))) = _
  rw [ho, decodeEnF_slotWord]
  simp_all

theorem cptFetch (h : Slot) (o : EnF) : Statement (.cptFetch h o) := by
  intro hw
  have hs := hw
  simp only [Instr.wf, Bool.and_eq_true] at hs
  refine ⟨_, rfl, slot_Cp hw (by simp_all) (by decide) ?_⟩
  have ho : (slotWord h 0x04 o.bits).getLsbD 10 = o.prm.getLsbD 10 := by
    conv => rhs; rw [← decodeEnF_slotWord h 0x04 o]
    simp [decodeEnF, BitVec.getLsbD_extractLsb']
  show some (if (slotWord h 0x04 o.bits).getLsbD 10 then Instr.cptFetch h (decodeEnF (slotWord h 0x04 o.bits))
    else Instr.cptOffload h (decodeEnF (slotWord h 0x04 o.bits))) = _
  rw [ho, decodeEnF_slotWord]
  simp_all

theorem cpz (h : Slot) (o : EnF) : Statement (.cpz h o) := by
  intro hw
  refine ⟨_, rfl, slot_Cp hw (by simp only [Instr.wf, Bool.and_eq_true] at hw; simp [hw]) (by decide) ?_⟩
  exact congrArg (fun x => some (Instr.cpz h x)) (decodeEnF_slotWord h _ o)

theorem coll (h : Slot) (o : EnF) : Statement (.coll h o) := by
  intro hw
  refine ⟨_, rfl, slot_Cp hw (by simp only [Instr.wf, Bool.and_eq_true] at hw; simp [hw]) (by decide) ?_⟩
  exact congrArg (fun x => some (Instr.coll h x)) (decodeEnF_slotWord h _ o)

theorem pub (h : Slot) (o : EnF) : Statement (.pub h o) := by
  intro hw
  refine ⟨_, rfl, slot_Cp hw (by simp only [Instr.wf, Bool.and_eq_true] at hw; simp [hw]) (by decide) ?_⟩
  exact congrArg (fun x => some (Instr.pub h x)) (decodeEnF_slotWord h _ o)

theorem cpf (h : Slot) (o : EnF) : Statement (.cpf h o) := by
  intro hw
  refine ⟨_, rfl, slot_Cp hw (by simp only [Instr.wf, Bool.and_eq_true] at hw; simp [hw]) (by decide) ?_⟩
  exact congrArg (fun x => some (Instr.cpf h x)) (decodeEnF_slotWord h _ o)

theorem cpc (h : Slot) (o : EnF) : Statement (.cpc h o) := by
  intro hw
  refine ⟨_, rfl, slot_Cp hw (by simp only [Instr.wf, Bool.and_eq_true] at hw; simp [hw]) (by decide) ?_⟩
  exact congrArg (fun x => some (Instr.cpc h x)) (decodeEnF_slotWord h _ o)

theorem txp (h : Slot) (o : EnF) : Statement (.txp h o) := by
  intro hw
  refine ⟨_, rfl, slot_Tx hw (by simp only [Instr.wf, Bool.and_eq_true] at hw; simp [hw]) (by decide) ?_⟩
  exact congrArg (fun x => some (Instr.txp h x)) (decodeEnF_slotWord h _ o)

theorem txw (h : Slot) (o : EnF) : Statement (.txw h o) := by
  intro hw
  refine ⟨_, rfl, slot_Tx hw (by simp only [Instr.wf, Bool.and_eq_true] at hw; simp [hw]) (by decide) ?_⟩
  exact congrArg (fun x => some (Instr.txw h x)) (decodeEnF_slotWord h _ o)

theorem hdef (h : Slot) (o : HqF) : Statement (.hdef h o) := by
  intro hw
  refine ⟨_, rfl, slot_Hq hw (by simp only [Instr.wf, Bool.and_eq_true] at hw; simp [hw]) (by decide) ?_⟩
  exact congrArg (fun x => some (Instr.hdef h x)) (decodeHqF_slotWord h _ o)

theorem hadv (h : Slot) (o : HqF) : Statement (.hadv h o) := by
  intro hw
  refine ⟨_, rfl, slot_Hq hw (by simp only [Instr.wf, Bool.and_eq_true] at hw; simp [hw]) (by decide) ?_⟩
  exact congrArg (fun x => some (Instr.hadv h x)) (decodeHqF_slotWord h _ o)

theorem hqry (h : Slot) (o : HqF) : Statement (.hqry h o) := by
  intro hw
  refine ⟨_, rfl, slot_Hq hw (by simp only [Instr.wf, Bool.and_eq_true] at hw; simp [hw]) (by decide) ?_⟩
  exact congrArg (fun x => some (Instr.hqry h x)) (decodeHqF_slotWord h _ o)

theorem qcfg (h : Slot) (o : HqF) : Statement (.qcfg h o) := by
  intro hw
  refine ⟨_, rfl, slot_Hq hw (by simp only [Instr.wf, Bool.and_eq_true] at hw; simp [hw]) (by decide) ?_⟩
  exact congrArg (fun x => some (Instr.qcfg h x)) (decodeHqF_slotWord h _ o)

theorem qspl (h : Slot) (o : HqF) : Statement (.qspl h o) := by
  intro hw
  refine ⟨_, rfl, slot_Hq hw (by simp only [Instr.wf, Bool.and_eq_true] at hw; simp [hw]) (by decide) ?_⟩
  exact congrArg (fun x => some (Instr.qspl h x)) (decodeHqF_slotWord h _ o)

theorem bundle (k : Found) : Statement (.bundle k) := rfl

theorem emptyBundle (k : Sid) : Statement (.emptyBundle k) := rfl

theorem residencyChange (ctx region : Nat) (res : BitVec 2) : Statement (.residencyChange ctx region res) := rfl

theorem blockEntry (k : Sid) : Statement (.blockEntry k) := rfl

theorem clearingTokenGrant (rail : Nat) : Statement (.clearingTokenGrant rail) := rfl

theorem startTokenGrant (rail : Nat) : Statement (.startTokenGrant rail) := rfl

theorem regulatorStep (core : Nat) : Statement (.regulatorStep core) := rfl

theorem writeBack (core : Nat) : Statement (.writeBack core) := rfl

theorem landing (core : Nat) : Statement (.landing core) := rfl

theorem lockstepCompare (core : Nat) (agree : Bool) (slot : BitVec 5) : Statement (.lockstepCompare core agree slot) := rfl

theorem rowStage (core : Nat) : Statement (.rowStage core) := rfl

theorem engineCompletion (core : Nat) (eng : BitVec 2) : Statement (.engineCompletion core eng) := rfl

theorem repeatIteration (core : Nat) : Statement (.repeatIteration core) := rfl

theorem nestCommand (core : Nat) : Statement (.nestCommand core) := rfl

theorem handleRowProduced (core : Nat) (eng : BitVec 2) : Statement (.handleRowProduced core eng) := rfl

theorem queueArrival (i : Nat) : Statement (.queueArrival i) := rfl

theorem handlePointerUpdate (i : Nat) : Statement (.handlePointerUpdate i) := rfl

theorem eventRecordArrival (i : Nat) : Statement (.eventRecordArrival i) := rfl

theorem barrierCompletion (i : Nat) : Statement (.barrierCompletion i) := rfl

theorem accessPerformed (core i : Nat) : Statement (.accessPerformed core i) := rfl

theorem atomicAtUnit (core i : Nat) : Statement (.atomicAtUnit core i) := rfl

theorem replayTimeout (ctx : Nat) (unit : Nat) : Statement (.replayTimeout ctx unit) := rfl

theorem majorityCompletion (k : Sid) : Statement (.majorityCompletion k) := rfl

theorem majorityRepair (set : Nat) : Statement (.majorityRepair set) := rfl

theorem majorityWalk (set : Nat) : Statement (.majorityWalk set) := rfl

theorem publishFlip (f : FlipAt) : Statement (.publishFlip f) := rfl

theorem bankOwnershipPass (core bank : Nat) : Statement (.bankOwnershipPass core bank) := rfl

theorem intakeWrite (ctx q : Nat) (row : Row) : Statement (.intakeWrite ctx q row) := rfl

theorem slotConsume (ctx q : Nat) : Statement (.slotConsume ctx q) := rfl

theorem hubCopyComplete (ctx q : Nat) : Statement (.hubCopyComplete ctx q) := rfl

theorem nodePlacement (prio : Nat) : Statement (.nodePlacement prio) := rfl

theorem launchStart (core : Nat) : Statement (.launchStart core) := rfl

theorem taskEntry (core : Nat) : Statement (.taskEntry core) := rfl

theorem nodeCompletion (ctx node : Nat) : Statement (.nodeCompletion ctx node) := rfl

theorem priorityPreemption (ctx node : Nat) : Statement (.priorityPreemption ctx node) := rfl

theorem restore (core : Nat) : Statement (.restore core) := rfl

theorem contextCreate (ctx : Nat) (v : Word) : Statement (.contextCreate ctx v) := rfl

theorem teardown (ctx : Nat) : Statement (.teardown ctx) := rfl

theorem teardownComplete (ctx : Nat) : Statement (.teardownComplete ctx) := rfl

theorem containment (ctx node : Nat) : Statement (.containment ctx node) := rfl

theorem raceTagSweep (core : Nat) : Statement (.raceTagSweep core) := rfl

theorem canopyPeriod (p : PeriodInput) : Statement (.canopyPeriod p) := rfl

theorem islandRailOff (island : Nat) : Statement (.islandRailOff island) := rfl

theorem functionReady (bit : Nat) (r : Report) : Statement (.functionReady bit r) := rfl

theorem portEnable (p : Nat) : Statement (.portEnable p) := rfl

theorem portTrained (p : Nat) (pkg : BitVec 8) (prt : BitVec 6) : Statement (.portTrained p pkg prt) := rfl

theorem flitReceive (p : Nat) (flit : BitVec 2048) : Statement (.flitReceive p flit) := rfl

theorem portFailure (p : PathLoss) : Statement (.portFailure p) := rfl

theorem laneShed (p : Nat) : Statement (.laneShed p) := rfl

theorem linkRetrained (p : Nat) : Statement (.linkRetrained p) := rfl

theorem packetReceive (hdr : BitVec 256) (data : Row) : Statement (.packetReceive hdr data) := rfl

theorem ackReceive (hdr : BitVec 256) (data : Row) : Statement (.ackReceive hdr data) := rfl

theorem retransmitTimeout (pkg : Nat) (unordered : Bool) : Statement (.retransmitTimeout pkg unordered) := rfl

theorem routeInstall (pkg : Nat) (rt : Word) : Statement (.routeInstall pkg rt) := rfl

theorem refusalReplay (pkg : Nat) (unordered : Bool) : Statement (.refusalReplay pkg unordered) := rfl

theorem collStepFailure (core : Nat) : Statement (.collStepFailure core) := rfl

theorem secondTierNoRoute (core : Nat) : Statement (.secondTierNoRoute core) := rfl

theorem secondTierPortTrain (t : Nat) (found : TierDevice) : Statement (.secondTierPortTrain t found) := rfl

theorem chainTick : Statement (.chainTick) := rfl

theorem chainEntryComplete (ctx i : Nat) : Statement (.chainEntryComplete ctx i) := rfl

theorem chainNotification (ctx : Nat) (ctr : BitVec 8) (amt : BitVec 16) : Statement (.chainNotification ctx ctr amt) := rfl

theorem slotReturn (ctx : Nat) (amt : BitVec 16) : Statement (.slotReturn ctx amt) := rfl

theorem migrationPhase (m : Nat) (writeFails : Bool) : Statement (.migrationPhase m writeFails) := rfl

theorem mhsWrite (set i : Nat) (v : BitVec 2) : Statement (.mhsWrite set i v) := rfl

theorem majorityMemberDown (set i : Nat) : Statement (.majorityMemberDown set i) := rfl

theorem sramScrub (pa : Nat) (found : ScrubRead) : Statement (.sramScrub pa found) := rfl

theorem hbmScrub (pa : Nat) (found : ScrubRead) : Statement (.hbmScrub pa found) := rfl

theorem thermalSample (temps : List (Nat × Int)) : Statement (.thermalSample temps) := rfl

theorem partWrite (p : Nat) (v : Word) : Statement (.partWrite p v) := rfl

theorem tdecWrite (d : Nat) (w0 w1 : Word) : Statement (.tdecWrite d w0 w1) := rfl

theorem erackWrite (ctx : Nat) (v : BitVec 32) : Statement (.erackWrite ctx v) := rfl

theorem peackWrite (v : BitVec 32) : Statement (.peackWrite v) := rfl

theorem tlackWrite (v : BitVec 32) : Statement (.tlackWrite v) := rfl

theorem chainGo (ctx : Nat) : Statement (.chainGo ctx) := rfl

theorem chainStop (ctx : Nat) : Statement (.chainStop ctx) := rfl

theorem cslotWrite (ctx : Nat) (v : BitVec 16) : Statement (.cslotWrite ctx v) := rfl

theorem smaxWrite (ctx : Nat) (v : BitVec 8) : Statement (.smaxWrite ctx v) := rfl

theorem chainRegisterWrite (ctx off : Nat) (v : Word) : Statement (.chainRegisterWrite ctx off v) := rfl

theorem migrationStart (m : Nat) : Statement (.migrationStart m) := rfl

theorem migrationReset (m : Nat) : Statement (.migrationReset m) := rfl

theorem hostMemoryAccess (a : HostAccess) : Statement (.hostMemoryAccess a) := rfl

theorem hostAtomic (a : HostAtomic) : Statement (.hostAtomic a) := rfl

theorem registerWrite (off : Nat) (v : Word) : Statement (.registerWrite off v) := rfl

theorem logAcknowledgment (ctx n : Nat) : Statement (.logAcknowledgment ctx n) := rfl

theorem preemptNode (ctx node : Nat) : Statement (.preemptNode ctx node) := rfl

theorem resumeNode (ctx node : Nat) : Statement (.resumeNode ctx node) := rfl

theorem eventCounterWrite (ctx : Nat) (num : BitVec 16) (amt : BitVec 32) : Statement (.eventCounterWrite ctx num amt) := rfl

theorem packageReset (v : BitVec 16) : Statement (.packageReset v) := rfl

theorem setIslandSlope : Statement (.setIslandSlope) := rfl

theorem setPackageSlope : Statement (.setPackageSlope) := rfl

theorem setPowerLimit : Statement (.setPowerLimit) := rfl

theorem gateIsland : Statement (.gateIsland) := rfl

theorem ungateIsland : Statement (.ungateIsland) := rfl

theorem appendRetiredRange : Statement (.appendRetiredRange) := rfl

theorem attestationReport : Statement (.attestationReport) := rfl

theorem packageHalt : Statement (.packageHalt) := rfl

theorem powerOn : Statement (.powerOn) := rfl

end Sys2Proof.Laws.RoundTrip
end

