-- ==== Sys2Proof/Safety.lean ====
section
/-!
DEFINITION. The terms in which claims are made: the invariant of every step, runs without a stop, what an issued memory
request and a landing look like, and when an access of a slot meets no trap and no wait.
-/
namespace Sys2Proof.Machine

/-- The invariant of every step: memory is in its one canonical form. -/
def Inv (s : State) : Prop := memWf s.mem = true

/-- No step of the first `n` stops. -/
def Safe : Nat → State → Prop
  | 0, _ => True
  | n + 1, s => ∃ t, step s = .next t ∧ Safe n t

/-- The last request of the issuing stream's core in `t` is the one new since `s`, and it is `r`. -/
def NewReq (s t : State) (r : Req) : Prop :=
  (archOf t s.focus.core).reqs = (archOf s s.focus.core).reqs ++ [r]

/-- The last operation in flight of the issuing stream in `t` is the one new since `s`, and it is `x`. -/
def NewOp (s t : State) (x : Flight) : Prop :=
  (strmOf t s.focus).pipe.ops = (strmOf s s.focus).pipe.ops ++ [x]

/-- A row of a handle's buffer is reached at `q`: through the entry that maps it, where one does, else by itself (R292, R300). -/
def RowReaches (s : State) (a : Ask) (pa q : Nat) : Prop :=
  match rowVa (archOf s s.focus.core).tab s.focus.core pa with
  | some va => ∃ i e, access s s.focus.core a (BitVec.ofNat 64 va) = .ok (i, e, q)
  | none => shutRow s pa = false ∧ q = pa

/-- An access of the issuing core reaches a physical address through a resident entry with every check passed. -/
def Reaches (s : State) (a : Ask) (va : Word) (pa : Nat) : Prop :=
  ∃ i e, access s s.focus.core a va = .ok (i, e, pa)

/-- An access through an entry is checked for races: the block checks them, the entry is one of a checked region, and the row
lies in a slice of this package (R64, R316). -/
def Checked (s : State) (e : TEntry) (pa : Nat) : Prop :=
  (strmOf s s.focus).blk.rrg = true ∧ e.rck = true ∧ paSpace pa = 0 ∧ paPkg pa = s.pkg.toNat

/-- What a checked access of the issuing core finds and makes of the tag of a row: none is a race (R318). -/
def TagOutcome (s : State) (pa : Nat) (wr : Bool) : Option Tag :=
  meetTag (archOf s s.focus.core) s.focus.core wr (tagOf (tget 0 s.tags (pa / 64)))

/-- Nothing holds the race check of the issuing stream: no acquire is outstanding, and the bundle is not one that a later
condition has held (R136, R317). -/
def CheckNow (s : State) : Prop :=
  (∀ r ∈ (archOf s s.focus.core).reqs, r.side = s.focus.side → r.acq = false) ∧ (strmOf s s.focus).tabAt = none

/-- The tags after an access: that of its row as the check makes it; an unchecked store resets that of a row of a checked
region; every other tag stands (R316, R318). -/
def TagsAfter (s t : State) (e : TEntry) (pa : Nat) (wr : Bool) : Prop :=
  (∀ r, r ≠ pa / 64 → tget 0 t.tags r = tget 0 s.tags r) ∧
  (Checked s e pa → ∀ y, TagOutcome s pa wr = some y → tget 0 t.tags (pa / 64) = y.bits) ∧
  (¬Checked s e pa → wr = true → e.rck = true → paSpace pa = 0 → paPkg pa = s.pkg.toNat →
    tget 0 t.tags (pa / 64) = tget 0 s.tags (pa / 64) &&& ~~~8) ∧
  (¬Checked s e pa → wr = false ∨ e.rck = false → t.tags = s.tags)

/-- An instruction whose access reaches `pa` completes, with what `done` says of the state after it and the tags as its check makes
them, when the access is not checked or its check finds no race; one that races is the race trap of its slot, whose argument is
the row's address (R316, R318; the argument: log 28). -/
def AccessCompletes (s : State) (h : Slot) (i : Instr) (a : Ask) (va : Word) (pa : Nat) (done : State → Prop) : Prop :=
  ∀ n e, access s s.focus.core a va = .ok (n, e, pa) →
    ((Checked s e pa → CheckNow s ∧ TagOutcome s pa a.wr ≠ none) →
      ∃ t, exec i s = .next t ∧ TagsAfter s t e pa a.wr ∧ done t) ∧
    (Checked s e pa → CheckNow s → TagOutcome s pa a.wr = none →
      exec i s = .next (takeTrap s s.focus (mkTrap s h 5 4 (BitVec.ofNat 64 (va.toNat % 2 ^ 48 / 64 * 64)) 0)))

/-- The bank of an address is owned or needs no owner (R136 condition 7). -/
def BankFree (s : State) (pa : Nat) : Prop := ownsBank s s.focus.core pa = true

/-- A landing entry is free on the side of a slot (R26). -/
def EntryFree (s : State) (side : Nat) : Prop := landFree s side = true

/-- The outbound buffer has room for what the bundle sends (R160, R406). -/
def OutFree (s : State) : Prop :=
  outUsed s s.focus.core + (if s.iss.outs = 0 then 1 else s.iss.outs) ≤ 8

/-- What the machine is made of beside its cores stands as before. -/
def SameOutside (s t : State) : Prop :=
  t.agenda = s.agenda ∧ t.focus = s.focus ∧ t.pkg = s.pkg ∧ t.mem = s.mem ∧ t.poison = s.poison ∧ t.net = s.net ∧
    t.hub = s.hub ∧ t.fab = s.fab ∧ t.can = s.can ∧ t.health = s.health ∧ t.flaws = s.flaws ∧ t.replies = s.replies

/-- Every core but one stands as before. -/
def SameCores (s t : State) (core : Nat) : Prop := ∀ c, c ≠ core → coreOf t c = coreOf s c

/-- No operand code names an empty queue head (R59). -/
def HeadsFull (s : State) (codes : List (BitVec 6)) : Prop := ∀ c, c ∈ codes → emptyHead s c = false

/-- The counted cycles that an operation of latency `l` is put in flight with: the opening of its own cycle takes one. A
result of latency 1 is then written at the end of that cycle, a later one before the bundle that may first read it (R28). -/
def inFlight (l : Nat) : Nat := if l ≤ 1 then 1 else l + 1

/-- An instruction completes by putting one operation of a slot in flight, and changes nothing else: the operation writes
a register, and the result latch its group has, with a latency; of the elements of width `w`, those with `on` are written, each
with its value, and the others are not; the flags it raises are those of the written elements together (R15, R16, R17, R23,
R111). -/
def WritesElements (s : State) (i : Instr) (h : Slot) (dst : Dst) (l w : Nat) (on : Nat → Bool) (val : Nat → Nat × Flags)
    (latch : Latched) : Prop :=
  ∃ x : Flight, exec i s = .next (emit s x) ∧ x.slot = h.pos ∧ x.dst = dst ∧ x.rem = inFlight l ∧ x.landing = false ∧
    x.latch = latch ∧ x.hid = 0 ∧
    x.flags = (List.range (512 / w)).foldl (fun f e => if on e then f ||| (val e).2 else f) 0 ∧
    ∀ e, e < 512 / w → elem w x.mask e = (if on e then 2 ^ w - 1 else 0) ∧ (on e = true → elem w x.val e = (val e).1 % 2 ^ w)

/-- An instruction completes by putting one operation of a slot in flight that writes whole bits of a row under a bit
mask and raises no flag, and changes nothing else. -/
def WritesRow (s : State) (i : Instr) (h : Slot) (dst : Dst) (l : Nat) (val mask : Row) : Prop :=
  ∃ x : Flight, exec i s = .next (emit s x) ∧ x.slot = h.pos ∧ x.dst = dst ∧ x.rem = inFlight l ∧ x.landing = false ∧
    x.val = val ∧ x.mask = mask ∧ x.flags = 0 ∧ x.latch = .none

/-- Element `n` of a copy command's source has format `f`, bits `b` and header `h`: those of the source row that holds it (R46,
R49, R301). -/
def SourceElem (s : State) (c : Nat) (x : CpCmd) (n f b h : Nat) : Prop :=
  ∃ g ∈ cpSrcSegs s c x, g.lo ≤ n ∧ n < g.lo + g.n ∧ f = rFmt g.e.reg ∧ h = cpHdr s x g.e (n - g.lo) ∧
    b = fld (cpRow s c x (x.adr 0 / 64 * 64 + 64 * g.i)).toNat ((n - g.lo) * g.w) g.w

/-- What an element of format `f` becomes in format `fd` under header `hd`: its bits, or decoded and encoded (R49). -/
def movedBits (f b h fd hd : Nat) : Nat :=
  if f = fd ∨ f = 0 ∨ fd = 0 then b else (encodeE fd hd (decodeE f b h).1).1

/-- A copy command writes, in order, the rows of a range that an entry maps, and of each the bytes of its elements: `v` says what
element `j` of a row is (R184, R301). -/
def FillsRows (l : List CpWr) (dst : List CpSeg) (add : Nat) (v : CpSeg → Nat → Nat → Prop) : Prop :=
  l.map (·.pa) = (dst.filter (fun g => !g.gap)).map (·.e.pa) ∧
  ∀ g ∈ dst, g.gap = false → ∃ w ∈ l, w.pa = g.e.pa ∧ w.mask = bytesMask (cdiv (g.n * g.w) 8) ∧ w.add = add ∧
    ∀ j < g.n, v g j (elem g.w w.data j)

/-- A row of a record becomes `d` at `pa`: its bits, or its elements moved between the formats of the two rows (R49, R188). -/
def RecordRow (s : State) (c : Nat) (x : CpCmd) (va pa : Nat) (d : Row) : Prop :=
  let e := cpEnd s c x false va
  let z : CpEnd := { reg := bankReg s x.fmts pa, pa := pa }
  if rawMove (rFmt e.reg) (rFmt z.reg) then d = cpRow s c x va
  else ∀ j < 512 / bW (rFmt e.reg), elem (bW (rFmt z.reg)) d j = movedBits (rFmt e.reg)
    (elem (bW (rFmt e.reg)) (cpRow s c x va) j) (cpHdr s x e j) (rFmt z.reg) (cpHdr s x z j) % 2 ^ bW (rFmt z.reg)

/-- An operation of a stream has written its destination, and the result latch of its group with the bits that no later-issued
operation has hidden; every other register, flag, element, mask and latch bit of its core stands (R10, R16, R17). -/
def Written (s t : State) (k : Sid) (x : Flight) : Prop :=
  let cl := fun (s : State) (c : Nat) => tget Cluster.idle (archOf s k.core).cl c
  (∀ m : BitVec 5, (strmOf t k).reg m = if m ≠ 0 ∧ x.dst = .s m.toNat then x.val.setWidth 64 else (strmOf s k).reg m) ∧
  (∀ m : BitVec 4, (strmOf t k).flag m = if m ≠ 0 ∧ x.dst = .f m.toNat then x.val.getLsbD 0 else (strmOf s k).flag m) ∧
  ∀ c,
    (∀ n, ∀ i < 512, (tget 0 (cl t c).v n).getLsbD i =
      if x.dst = .v c n ∧ x.mask.getLsbD i = true then x.val.getLsbD i else (tget 0 (cl s c).v n).getLsbD i) ∧
    (∀ n, ∀ i < 16, ((cl t c).maskReg n).getLsbD i =
      if n ≠ 0 ∧ x.dst = .m c n ∧ x.mask.getLsbD i = true then x.val.getLsbD i else ((cl s c).maskReg n).getLsbD i) ∧
    ∀ i < 512, let on := (∃ n, x.dst = .v c n) ∧ x.mask.getLsbD i = true ∧ x.hid.getLsbD i = false
      (on → x.latch = .la → (cl t c).la.getLsbD i = x.val.getLsbD i) ∧
      (on → x.latch = .lm → (cl t c).lm.getLsbD i = x.val.getLsbD i) ∧
      (¬(on ∧ x.latch = .la) → (cl t c).la.getLsbD i = (cl s c).la.getLsbD i) ∧
      (¬(on ∧ x.latch = .lm) → (cl t c).lm.getLsbD i = (cl s c).lm.getLsbD i)

/-- No register, flag, vector or mask register or latch of a stream's core has been written. -/
def Unwritten (s t : State) (k : Sid) : Prop :=
  (strmOf t k).s = (strmOf s k).s ∧ (strmOf t k).f = (strmOf s k).f ∧ (archOf t k.core).cl = (archOf s k.core).cl

/-- Memory and its marks, the fabric, the canopy, the agenda and what names the machine stand as before. -/
def SameStorage (s t : State) : Prop :=
  t.agenda = s.agenda ∧ t.focus = s.focus ∧ t.pkg = s.pkg ∧ t.mem = s.mem ∧ t.poison = s.poison ∧ t.fab = s.fab ∧
    t.can = s.can ∧ t.health = s.health ∧ t.flaws = s.flaws ∧ t.replies = s.replies

/-- Beside operations in flight, the streams of the issuing core stand as before. -/
def OnlyOps (s t : State) : Prop := ∀ sd, (archOf t s.focus.core).stream sd =
  { (archOf s s.focus.core).stream sd with
    pipe := { ((archOf s s.focus.core).stream sd).pipe with ops := ((archOf t s.focus.core).stream sd).pipe.ops } }

/-- An instruction has put operations in flight, and changed nothing else. -/
def OnlyComputes (s t : State) : Prop :=
  SameOutside s t ∧ SameCores s t s.focus.core ∧ OnlyOps s t ∧ coreOf t s.focus.core = { coreOf s s.focus.core with
    arch := { archOf s s.focus.core with main := (archOf t s.focus.core).main, side := (archOf t s.focus.core).side } }

/-- An instruction has put operations in flight, issued requests and counted translations in the core's table; of the
hub, of messages and of race tags it says nothing. -/
def OnlyAsks (s t : State) : Prop :=
  SameStorage s t ∧ SameCores s t s.focus.core ∧ OnlyOps s t ∧ coreOf t s.focus.core = { coreOf s s.focus.core with
    arch := { archOf s s.focus.core with main := (archOf t s.focus.core).main, side := (archOf t s.focus.core).side
                                         reqs := (archOf t s.focus.core).reqs, tab := (archOf t s.focus.core).tab } }

/-- A landing that awaits a request is new in flight: its destination, what of it is written, the shape of the data and the
arrival cycle (R26, R134). -/
def Lands (s t : State) (h : Slot) (r : Req) (dst : Dst) (mask : Row) (shape : Shape) (arr : Nat) : Prop :=
  ∃ x, NewOp s t x ∧ x.slot = h.pos ∧ x.dst = dst ∧ x.mask = mask ∧ x.shape = shape ∧ x.rem = arr + 1 ∧
    x.landing = true ∧ x.got = false ∧ x.req = r.id

/-- A request of an access with what it does, its address and its bytes. -/
def IsReq (s t : State) (r : Req) (op : ReqOp) (pa len : Nat) : Prop :=
  NewReq s t r ∧ r.op = op ∧ r.pa = pa ∧ r.len = len ∧ r.side = s.focus.side

end Sys2Proof.Machine
end

