-- ==== Sys2Proof/Certificates/Slice0/Obligations.lean ====
section
/-!
DEFINITION. The statements of this model, each a proposition named `Obligations.<Name>` whose docstring names the rules
it formalises.
-/
open Sys2Proof
open Sys2Proof.Machine

/-- R87: the integer register and immediate forms read their operands as they stood before the bundle, and put one result in
flight: the low 64 bits of the exact result, with the latency of R86 and `IOV` when the exact signed result lies outside
S64; an immediate is SExt(imm24), the shifts take imm24[5:0]. Nothing else of the state changes. -/
def Obligations.ScalarIntegerResults : Prop :=
  (∀ (h : Slot) (o : ScR) (s : State), slotOn s h = true →
    let a := rs s o.sa
    let b := rs s o.sb
    let n := b.toNat % 64
    exec (.add h o) s = .next (emitS s s h 0x01 o.sd (BitVec.ofInt 64 (a.toInt + b.toInt)) 1 (iovS64 (a.toInt + b.toInt))) ∧
    exec (.sub h o) s = .next (emitS s s h 0x02 o.sd (BitVec.ofInt 64 (a.toInt - b.toInt)) 1 (iovS64 (a.toInt - b.toInt))) ∧
    exec (.and h o) s = .next (emitS s s h 0x04 o.sd (a &&& b) 1 0) ∧
    exec (.or h o) s = .next (emitS s s h 0x05 o.sd (a ||| b) 1 0) ∧
    exec (.xor h o) s = .next (emitS s s h 0x06 o.sd (a ^^^ b) 1 0) ∧
    exec (.shl h o) s = .next (emitS s s h 0x0A o.sd (BitVec.ofNat 64 (a.toNat * 2 ^ n)) 1 0) ∧
    exec (.shr h o) s = .next (emitS s s h 0x0B o.sd (BitVec.ofNat 64 (a.toNat / 2 ^ n)) 1 0) ∧
    exec (.sra h o) s = .next (emitS s s h 0x0C o.sd (BitVec.ofInt 64 (a.toInt / 2 ^ n)) 1 0) ∧
    exec (.mul h o) s = .next (emitS s s h 0x10 o.sd (BitVec.ofInt 64 (a.toInt * b.toInt)) (lat s s.focus 3 2)
      (iovS64 (a.toInt * b.toInt))) ∧
    exec (.mulh h o) s = .next (emitS s s h 0x11 o.sd (BitVec.ofInt 64 (a.toInt * b.toInt / 2 ^ 64)) (lat s s.focus 3 2) 0) ∧
    exec (.mulhz h o) s = .next (emitS s s h 0x12 o.sd (BitVec.ofNat 64 (a.toNat * b.toNat / 2 ^ 64)) (lat s s.focus 3 2) 0) ∧
    exec (.min h o) s = .next (emitS s s h 0x17 o.sd (BitVec.ofInt 64 (Min.min a.toInt b.toInt)) 1 0) ∧
    exec (.max h o) s = .next (emitS s s h 0x18 o.sd (BitVec.ofInt 64 (Max.max a.toInt b.toInt)) 1 0) ∧
    exec (.minz h o) s = .next (emitS s s h 0x19 o.sd (BitVec.ofNat 64 (Min.min a.toNat b.toNat)) 1 0) ∧
    exec (.maxz h o) s = .next (emitS s s h 0x1A o.sd (BitVec.ofNat 64 (Max.max a.toNat b.toNat)) 1 0)) ∧
  (∀ (h : Slot) (o : ScI) (s : State), slotOn s h = true →
    let a := rs s o.sa
    let i := o.imm.signExtend 64
    let n := o.imm.toNat % 64
    exec (.addi h o) s = .next (emitS s s h 0x03 o.sd (BitVec.ofInt 64 (a.toInt + o.imm.toInt)) 1 (iovS64 (a.toInt + o.imm.toInt))) ∧
    exec (.andi h o) s = .next (emitS s s h 0x07 o.sd (a &&& i) 1 0) ∧
    exec (.ori h o) s = .next (emitS s s h 0x08 o.sd (a ||| i) 1 0) ∧
    exec (.xori h o) s = .next (emitS s s h 0x09 o.sd (a ^^^ i) 1 0) ∧
    exec (.shli h o) s = .next (emitS s s h 0x0D o.sd (BitVec.ofNat 64 (a.toNat * 2 ^ n)) 1 0) ∧
    exec (.shri h o) s = .next (emitS s s h 0x0E o.sd (BitVec.ofNat 64 (a.toNat / 2 ^ n)) 1 0) ∧
    exec (.srai h o) s = .next (emitS s s h 0x0F o.sd (BitVec.ofInt 64 (a.toInt / 2 ^ n)) 1 0))

/-- R88: quotients truncate toward zero, remainders take the sign of the dividend, a zero divisor gives the listed value
and `IOV`, and -2^63 / -1 gives -2^63 with `IOV`. -/
def Obligations.ScalarDivideResults : Prop := ∀ (h : Slot) (o : ScR) (s : State), slotOn s h = true →
  let a := rs s o.sa
  let b := rs s o.sb
  let l := lat s s.focus 18 9
  (b = 0 →
    exec (.div h o) s = .next (emitS s s h 0x13 o.sd (BitVec.allOnes 64) l fIov) ∧
    exec (.divz h o) s = .next (emitS s s h 0x14 o.sd (BitVec.allOnes 64) l fIov) ∧
    exec (.rem h o) s = .next (emitS s s h 0x15 o.sd a l fIov) ∧
    exec (.remz h o) s = .next (emitS s s h 0x16 o.sd a l fIov)) ∧
  (b ≠ 0 →
    exec (.div h o) s = .next (emitS s s h 0x13 o.sd (BitVec.ofInt 64 (a.toInt.tdiv b.toInt)) l
      (if a.toInt = -2 ^ 63 ∧ b.toInt = -1 then fIov else 0)) ∧
    exec (.divz h o) s = .next (emitS s s h 0x14 o.sd (BitVec.ofNat 64 (a.toNat / b.toNat)) l 0) ∧
    exec (.rem h o) s = .next (emitS s s h 0x15 o.sd (BitVec.ofInt 64 (a.toInt - a.toInt.tdiv b.toInt * b.toInt)) l 0) ∧
    exec (.remz h o) s = .next (emitS s s h 0x16 o.sd (BitVec.ofNat 64 (a.toNat - a.toNat / b.toNat * b.toNat)) l 0))

/-- R89, R90, R91, R93, R94: compares write f[fx] at commit; selection, constants and bit operations write s[sd] with
latency 1. -/
def Obligations.CompareSelectBits : Prop :=
  (∀ (h : Slot) (o : ScR) (s : State), slotOn s h = true →
    let a := rs s o.sa
    let b := rs s o.sb
    exec (.cmp h o) s = .next (emitF s s h 0x1B o.fx (condOf o.cc.toNat a b) 0) ∧
    exec (.csel h o) s = .next (emitS s s h 0x1D o.sd (if (strmOf s s.focus).flag o.fx then a else b) 1 0) ∧
    (∃ k : Nat, exec (.clz h o) s = .next (emitS s s h 0x20 o.sd (BitVec.ofNat 64 k) 1 0) ∧
      k ≤ 64 ∧ a.toNat < 2 ^ (64 - k) ∧ (a ≠ 0 → 2 ^ (63 - k) ≤ a.toNat) ∧ (a = 0 → k = 64)) ∧
    exec (.popc h o) s = .next (emitS s s h 0x21 o.sd
      (BitVec.ofNat 64 ((List.range 64).filter (fun i => a.getLsbD i)).length) 1 0)) ∧
  (∀ (h : Slot) (o : ScI) (s : State), slotOn s h = true →
    let a := rs s o.sa
    let w := (o.imm.extractLsb' 6 7).toNat
    let p := (o.imm.extractLsb' 0 6).toNat
    exec (.cmpi h o) s = .next (emitF s s h 0x1C (o.imm.extractLsb' 16 4)
      (condOf (o.imm.extractLsb' 20 4).toNat a ((o.imm.extractLsb' 0 16).signExtend 64)) 0) ∧
    exec (.bfx h o) s = .next (emitS s s h 0x22 o.sd (if o.imm.getLsbD 13 then BitVec.ofInt 64 (sgn w (a.toNat / 2 ^ p % 2 ^ w))
      else BitVec.ofNat 64 (a.toNat / 2 ^ p % 2 ^ w)) 1 0) ∧
    (∃ v : Word, exec (.bfi h o) s = .next (emitS s s h 0x23 o.sd v 1 0) ∧
      (p + w ≤ 64 → ∀ i < 64, v.getLsbD i = if p ≤ i ∧ i < p + w then a.getLsbD (i - p) else (rs s o.sd).getLsbD i))) ∧
  (∀ (h : Slot) (o : ScL) (s : State), slotOn s h = true →
    exec (.movi h o) s = .next (emitS s s h 0x1E o.sd (o.imm.signExtend 64) 1 0) ∧
    exec (.movs h o) s = .next (emitS s s h 0x1F o.sd (BitVec.ofNat 64 ((rs s o.sd).toNat * 2 ^ 29 + o.imm.toNat)) 1 0))

/-- R96 to R99: the scalar float forms compute on the low bits of their operands in the format of `xt`, in the mode of
`rn`, rounded once; `fcvt` converts from the type `cc` to the type `xt`, a signed integer result sign-extended and an unsigned
one zero-extended to 64 bits; `fcmp` writes a flag at commit; `fsgn` moves bits with latency 1 and raises nothing. -/
def Obligations.ScalarFloatResults : Prop := ∀ (h : Slot) (o : ScR) (s : State), slotOn s h = true →
  let f := scFmt o.xt.toNat
  let a := wf (rs s o.sa) 0 f.w
  let b := wf (rs s o.sb) 0 f.w
  let c := wf (rs s o.sc) 0 f.w
  let m := modeOf s o.rn
  let z := s.iss.fz
  let out := fun (opc : BitVec 8) (r : Nat × Flags) =>
    Host.Outcome.next (φ := Fault) (ρ := Refusal) (emitS s s h opc o.sd (BitVec.ofNat 64 r.1) (lat s s.focus 4 2) r.2)
  (o.xt.toNat ≤ 2 → exec (.fadd h o) s = out 0x24 (fAdd f m z a b) ∧
  exec (.fsub h o) s = out 0x25 (fSub f m z a b) ∧
  exec (.fmul h o) s = out 0x26 (fMul f m z a b) ∧
  exec (.ffma h o) s = out 0x27 (fFma f m z false false a b c) ∧
  exec (.fmin h o) s = out 0x28 (fMinMax f z false a b) ∧
  exec (.fmax h o) s = out 0x29 (fMinMax f z true a b) ∧
  exec (.fcmp h o) s = .next (emitF s s h 0x2A o.fx (fCmp f z o.cc.toNat a b).1 (fCmp f z o.cc.toNat a b).2) ∧
  (∃ v, exec (.fsgn h o) s = .next (emitS s s h 0x2C o.sd (BitVec.ofNat 64 v) 1 0) ∧ v % 2 ^ (f.w - 1) = a % 2 ^ (f.w - 1) ∧
    v / 2 ^ (f.w - 1) = (if o.cc = 0 then b / 2 ^ (f.w - 1) else if o.cc = 1 then 1 - b / 2 ^ (f.w - 1)
      else (a / 2 ^ (f.w - 1) + b / 2 ^ (f.w - 1)) % 2))) ∧
  (let src := o.cc.toNat
   let g := scFmt src
   let x := wf (rs s o.sa) 0 g.w
   let w := if o.xt.toNat ≤ 4 then 32 else 64
   let cvt := fun (v : Word) (fl : Flags) => exec (.fcvt h o) s = .next (emitS s s h 0x2B o.sd v (lat s s.focus 4 2) fl)
   (src ≤ 2 → o.xt.toNat ≤ 2 → cvt (BitVec.ofNat 64 (fConv g f m z x).1) (fConv g f m z x).2) ∧
   (src ≤ 2 → o.xt = 3 ∨ o.xt = 13 →
     cvt (BitVec.ofInt 64 (sgn w (fToI g m z w true x).1)) (fToI g m z w true x).2) ∧
   (src ≤ 2 → o.xt = 4 ∨ o.xt = 14 → cvt (BitVec.ofNat 64 (fToI g m z w false x).1) (fToI g m z w false x).2) ∧
   (o.xt.toNat ≤ 2 → ∀ v : Int, (src = 3 ∧ v = ((rs s o.sa).setWidth 32).toInt) ∨ (src = 4 ∧ v = ((rs s o.sa).setWidth 32).toNat) ∨
     (src = 13 ∧ v = (rs s o.sa).toInt) ∨ (src = 14 ∧ v = (rs s o.sa).toNat) →
     cvt (BitVec.ofNat 64 (iToF f m z v).1) (iToF f m z v).2))

/-- R92: the flag operations write f[fx] at commit from flags as they stood before the bundle, and leave `sd`, `sa`, `sb`, `sc`
and `rn` zero. (`nop` does nothing, R69.) -/
def Obligations.FlagOperations : Prop := ∀ (h : Slot) (o : ScR) (s : State),
  (∀ i ∈ [Instr.pset h o, .pclr h o, .pand h o, .por h o, .pnot h o], i.wf = true →
    o.sd = 0 ∧ o.sa = 0 ∧ o.sb = 0 ∧ o.sc = 0 ∧ o.rn = 0) ∧
  (slotOn s h = true →
    let f := fun (n : BitVec 4) => (strmOf s s.focus).flag n
    exec (.pset h o) s = .next (emitF s s h 0x2D o.fx true 0) ∧
    exec (.pclr h o) s = .next (emitF s s h 0x2E o.fx false 0) ∧
    exec (.pand h o) s = .next (emitF s s h 0x2F o.fx (f o.cc && f o.xt) 0) ∧
    exec (.por h o) s = .next (emitF s s h 0x30 o.fx (f o.cc || f o.xt) 0) ∧
    exec (.pnot h o) s = .next (emitF s s h 0x31 o.fx (!f o.cc) 0) ∧
    exec (.nop h) s = .next s)

/-- R59: a slot whose predicate does not hold has no effect: the state after it is the state before it, whatever the
instruction. -/
def Obligations.PredicatedOffDoesNothing : Prop := ∀ (i : Instr) (h : Slot) (s : State),
  i.slot? = some h → slotOn s h = false → exec i s = .next s

/-- R10, R17, R28, R57: an `add` and the counted cycle it opens: when nothing else is in flight the next bundle reads the
sum in s[sd], every other scalar register reads as before, and a write of `s0` is discarded. -/
def Obligations.AddIsReadByTheNextBundle : Prop := ∀ (h : Slot) (o : ScR) (s : State) (m : Nat), slotOn s h = true →
  s.focus.side = false → (strmOf s s.focus).pipe = Pipe.empty → (strmOf s s.focus).cyc = [] →
  (coreOf s s.focus.core).roll = [] →
  ∃ t u, exec (.add h o) s = .next t ∧ exec (.writeBack s.focus.core) (openCycle t s.focus m false) = .next u ∧
    ∀ n : BitVec 5, (strmOf u s.focus).reg n = if n = o.sd ∧ n ≠ 0 then rs s o.sa + rs s o.sb else (strmOf s s.focus).reg n

/-- R101, R102: the transfers set the bundle's target and nothing else; `call` also links E in s[ln] with latency 1; the
targets of `call` and `ret` must hold a block header. -/
def Obligations.ControlTransfers : Prop :=
  (∀ (h : Slot) (o : BrD) (s : State), slotOn s h = true →
    let t := s.iss.pc + o.dsp.signExtend 48
    exec (.bra h o) s = .next (transfer s t false) ∧
    exec (.brf h o) s = .next (if (strmOf s s.focus).flag o.bf != (o.bn == 1) then transfer s t false else s) ∧
    exec (.call h o) s = .next (transfer (emitS s s h 0x03 o.ln ((strmOf s s.focus).blk.ext.setWidth 64) 1 0) t true)) ∧
  (∀ (h : Slot) (o : BrR) (s : State), slotOn s h = true →
    exec (.ret h o) s = .next (transfer s ((rs s o.sa).setWidth 48) true) ∧
    exec (.jmp h o) s = .next (transfer s ((rs s o.sa).setWidth 48 + o.imm.signExtend 48) false))

/-- R103: a loop set-up that is not illegal writes the count, the start (the bundle after it) and the end of its level; a
count of 0 transfers past the end; a count of 2^32 or more is a repeat-bounds trap. That this trap is one of group 4 of R83 is
the model's reading (log 24), and so is the length of a last bundle whose header cannot be fetched (log 30). -/
def Obligations.LoopSetup : Prop := ∀ (h : Slot) (o : BrL) (s : State), slotOn s h = true → loopIllegal s o.dsp = false →
  let b := s.iss.pc + BitVec.ofNat 48 s.iss.len
  let e := s.iss.pc + BitVec.ofNat 48 (6 * o.dsp.toNat)
  let put := fun (n : Nat) => modStrm s s.focus (fun x => if o.lv = 1 then { x with lc1 := BitVec.ofNat 32 n, lb1 := b, le1 := e }
    else { x with lc0 := BitVec.ofNat 32 n, lb0 := b, le0 := e })
  let out := fun (n : Nat) => if n = 0 then transfer (put 0) (e + BitVec.ofNat 48 (bundleLen s s.focus.core e)) false else put n
  exec (.loopi h o) s = .next (out o.cnt.toNat) ∧
  ((rs s (o.cnt.extractLsb' 8 5)).toNat < 2 ^ 32 → exec (.loop h o) s = .next (out (rs s (o.cnt.extractLsb' 8 5)).toNat)) ∧
  (2 ^ 32 ≤ (rs s (o.cnt.extractLsb' 8 5)).toNat →
    exec (.loop h o) s = .next (takeTrap s s.focus (mkTrap s h 8 4 0 0)))

/-- R105 to R109: `lbrk` clears the running levels it names and transfers past the end of the outermost one it leaves;
`done`, `yield` and `trap` leave what the end of their bundle does; `eret` returns from an active frame, and is an illegal
instruction without one. At the boundary after such a bundle, with nothing else to take there, the stream drains; then `done`
freezes until what the task asked for is done, and retires the task or stops the side stream, `yield` goes on, `eret` returns
from the frame into its block; a software trap is taken with its code and argument, at the bundle that would have issued next. -/
def Obligations.LoopBreakAndEnds : Prop := (∀ (h : Slot) (o : BrR) (s : State), slotOn s h = true →
  let x := strmOf s s.focus
  (∀ e, ((o.imm = 1 ∧ x.lc1 ≠ 0 ∧ e = x.le1) ∨ (¬(o.imm = 1 ∧ x.lc1 ≠ 0) ∧ x.lc0 ≠ 0 ∧ e = x.le0)) →
    ∃ t, exec (.lbrk h o) s = .next t ∧ (strmOf t s.focus).lc0 = 0 ∧ (o.imm = 1 → (strmOf t s.focus).lc1 = 0) ∧
      (o.imm ≠ 1 → (strmOf t s.focus).lc1 = x.lc1) ∧
      t.iss.jump = some (e + BitVec.ofNat 48 (bundleLen s s.focus.core e), false) ∧ SameOutside s t) ∧
  (x.lc0 = 0 → (o.imm = 1 → x.lc1 = 0) → exec (.lbrk h o) s = .next s) ∧
  exec (.done h o) s = .next { s with iss := { s.iss with ends := 1 } } ∧
  exec (.trap h o) s = .next { s with iss := { s.iss with soft := some (o.imm, rs s o.sa) } } ∧
  exec (.yield h o) s = .next (if s.focus.side then s else { s with iss := { s.iss with ends := 2 } }) ∧
  (x.frame.act = true → exec (.eret h o) s = .next { s with iss := { s.iss with ends := 3 } }) ∧
  (x.frame.act = false → exec (.eret h o) s = .next (takeTrap s s.focus (mkTrap s h 1 2 0 0)))) ∧
  (∀ (x : Machine.Stream) (i : Issue), (i.ends = 1 → (flow x i).due = .done) ∧ (i.ends = 2 → (flow x i).due = .yield) ∧
    (i.ends = 3 → (flow x i).due = .eret)) ∧
  (∀ (s : State) (k : Sid), s.focus = k → mayAct s k = true → (strmOf s k).pend = [] → (archOf s k.core).preq = [] →
    (strmOf s k).anyDue = false → (k.side = false → (strmOf s k).resto = false) →
    let x := strmOf s k
    let a := archOf s k.core
    let t := streamAct s k
    (x.pipe.idle = false → x.due = .done ∨ x.due = .yield ∨ x.due = .eret → t = drainCycle s k true) ∧
    (x.pipe.idle = true →
      (x.due = .done →
        let free := (∀ r ∈ a.reqs, r.side ≠ k.side) ∧ (k.side = true ∨ (a.cp = [] ∧ a.smv = [] ∧ (coreOf s k.core).roll = []))
        (¬free → t = s) ∧ (free → k.side = false → t = retireTask s k.core) ∧
        (free → k.side = true → strmOf t k = { x with due := .nothing, frame := Frame.empty } ∧ SameOutside s t ∧
          SameCores s t k.core)) ∧
      (x.due = .yield → strmOf t k = { x with due :=
          if x.blk.hdr.toNat + 12 ≤ x.pc.toNat ∧ x.pc.toNat < x.blk.ext.toNat then .bundle else .header } ∧ SameOutside s t ∧
        SameCores s t k.core) ∧
      (x.due = .eret → ∀ d, blockAt s k.core x.frame.tblk = .ok d → (k.side = false → d.pt = x.frame.clr.pt) →
        t = returnFrame s k (blockOf x.frame.tblk d) false))) ∧
  (∀ (s : State) (k : Sid) (c : BitVec 16) (v : Word) (p : BitVec 48), (strmOf s k).landsBad = false →
    (strmOf s k).pend = [(BitVec.ofNat 64 (12 + 3 * 2 ^ 8 + c.toNat * 2 ^ 32), p, v)] →
    boundary s k = some (takeTrap (modStrm s k (fun y => { y with pend := [] })) k
      { code := 12, slot := 3, grp := 0, tpc := (strmOf s k).pc, tfa := p, targ := v, aux := 0, swc := c }))

/-- R13, R14, R100: where a committed bundle goes on: a taken transfer goes before the loop hardware; at the end of a level
whose count is above 1 the level goes back to its start and counts down; a last pass leaves the level and goes on in
sequence; level 0 stands inside level 1. So it is for a bundle that drains at its end too. -/
def Obligations.SequencingAfterCommit : Prop := ∀ (x : Machine.Stream) (i : Issue),
  (∀ t hd, i.jump = some (t, hd) → (flow x i).pc = t ∧ (flow x i).lc0 = x.lc0 ∧ (flow x i).lc1 = x.lc1) ∧
  (i.jump = none → (x.lc0 = 0 ∨ x.le0 ≠ i.pc) → (x.lc1 = 0 ∨ x.le1 ≠ i.pc) → (flow x i).pc = i.pc + BitVec.ofNat 48 i.len ∧
    (flow x i).lc0 = x.lc0 ∧ (flow x i).lc1 = x.lc1) ∧
  (i.jump = none → x.lc0 ≠ 0 → x.le0 = i.pc → x.lc0 ≠ 1 → (flow x i).pc = x.lb0 ∧ (flow x i).lc0 = x.lc0 - 1 ∧ (flow x i).lc1 = x.lc1) ∧
  (i.jump = none → x.lc0 = 1 → x.le0 = i.pc → (x.lc1 = 0 ∨ x.le1 ≠ i.pc) →
    (flow x i).pc = i.pc + BitVec.ofNat 48 i.len ∧ (flow x i).lc0 = 0) ∧
  (i.jump = none → x.lc0 = 1 → x.le0 = i.pc → x.lc1 ≠ 0 → x.le1 = i.pc → x.lc1 ≠ 1 →
    (flow x i).pc = x.lb1 ∧ (flow x i).lc0 = 0 ∧ (flow x i).lc1 = x.lc1 - 1)

/-- R210, R211: H-trap entry of the main stream: the frame holds cause, addresses, flags, `FPC`, block and loops; the loops are
cleared, `FPC` keeps `RM` alone, and the stream stands at the handler's block header; scalar registers, flags, memory and
every other core stand as before. An H trap while the frame is active kills the node: no stream of the core goes on, and
the frame is not written again. -/
def Obligations.TrapEntry : Prop :=
  (∀ (s : State) (k : Sid) (t : Trap) (hnd : BitVec 48), k.side = false →
    takerOf t.code = .handler → (strmOf s k).frame.act = false → handlerOf s k = some hnd →
    let x := strmOf s k
    let u := takeTrap s k t
    let y := strmOf u k
    y.frame.tpc = t.tpc ∧ y.frame.tfa = t.tfa ∧ y.frame.targ = t.targ ∧ y.frame.tflg = x.f ||| 1 ∧
    y.frame.tfpc = (archOf s k.core).fpc ∧ y.frame.tblk = x.blk.hdr ∧
    y.frame.tlc0 = x.lc0 ∧ y.frame.tlb0 = x.lb0 ∧ y.frame.tle0 = x.le0 ∧ y.frame.tlc1 = x.lc1 ∧ y.frame.tlb1 = x.lb1 ∧ y.frame.tle1 = x.le1 ∧
    y.frame.held = x.pipe ∧ y.frame.act = true ∧ (y.frame.tcause.toNat % 256 = t.code % 256) ∧
    y.lc0 = 0 ∧ y.lc1 = 0 ∧ (archOf u k.core).fpc = (archOf s k.core).fpc &&& 3 ∧ y.pc = hnd ∧ y.due = .header ∧
    y.s = x.s ∧ y.f = x.f ∧ u.mem = s.mem ∧ SameCores s u k.core) ∧
  (∀ (s : State) (k : Sid) (t : Trap), takerOf t.code = .handler →
    (strmOf s k).frame.act = true → (archOf s k.core).run = .running →
    (archOf (takeTrap s k t) k.core).run = .stopped ∧ (strmOf (takeTrap s k t) k).due = .nothing ∧
    (strmOf (takeTrap s k t) k).frame = (strmOf s k).frame)

/-- R212: the return from a frame into the interrupted block restores the program counter, flags, loops and block, drops
the snapshots of an enabled exception and reinstates the others, and leaves the frame inactive; `RM` and `EN` come back
and no sticky flag is lost. -/
def Obligations.TrapReturn : Prop := ∀ (s : State) (k : Sid) (b : Block),
  let f := (strmOf s k).frame
  let u := returnFrame s k b false
  let y := strmOf u k
  y.pc = f.tpc ∧ y.f = f.tflg ||| 1 ∧ y.lc0 = f.tlc0 ∧ y.lb0 = f.tlb0 ∧ y.le0 = f.tle0 ∧ y.lc1 = f.tlc1 ∧ y.lb1 = f.tlb1 ∧
  y.le1 = f.tle1 ∧ y.blk = b ∧ y.frame.act = false ∧ (∀ z ∈ y.pipe.ops, z.fpx = false) ∧
  (∀ z ∈ f.held.ops, z.fpx = false → z ∈ y.pipe.ops) ∧ y.s = (strmOf s k).s ∧
  (archOf u k.core).fpc.extractLsb' 0 8 = f.tfpc.extractLsb' 0 8 ∧
  (archOf u k.core).fpc.extractLsb' 8 6 = f.tfpc.extractLsb' 8 6 ||| (archOf s k.core).fpc.extractLsb' 8 6 ∧
  u.mem = s.mem ∧ SameCores s u k.core

/-- R17, R23, R111, R113 to R119, R128, R129: the elementwise cluster forms: element e of the written lanes is the operation on
elements e of the operands, with the latency of its group, and its result latch is `la` or `lm`; elements whose lane mask bit
is zero are not written, the flags are those of the written elements, and nothing else changes. -/
def Obligations.VectorElementwise : Prop := ∀ (h : Slot) (o : VaF) (s : State), slotOn s h = true →
  HeadsFull s [o.va, o.vb, o.vc] →
  let c := vaC h
  let t := o.ft.toNat
  let w := etW t
  let m := vMask s c o.m
  let a := elem w (vOperand s c o.va)
  let b := elem w (vOperand s c o.vb)
  let d := elem w (vOperand s c o.vc)
  let l := fun (full merged : Nat) => lat s s.focus full merged
  let li := if t < 3 then l 4 2 else 1
  let go := fun (i : Instr) (n : Nat) (la : Latched) (op : Nat → Nat × Flags) =>
    WritesElements s i h (.v c o.vd.toNat) n w (fun e => m.getLsbD (e * w / 32)) op la
  let f := scFmt t
  let md := modeOf s o.rn
  let z := s.iss.fz
  let fit := fun (x : Int) => (fitT t (o.sat == 1) x)
  let v := etVal t
  let still := fun (x : Nat) => (x, (0 : Flags))
  go (.vadd h o) li .la (fun e => if t < 3 then fAdd f md z (a e) (b e) else fit (v (a e) + v (b e))) ∧
  go (.vsub h o) li .la (fun e => if t < 3 then fSub f md z (a e) (b e) else fit (v (a e) - v (b e))) ∧
  go (.vmul h o) (if t < 3 then l 4 2 else l 3 2) .lm
    (fun e => if t < 3 then fMul f md z (a e) (b e) else fit (v (a e) * v (b e))) ∧
  go (.vmulh h o) (l 3 2) .lm (fun e => still ((v (a e) * v (b e) / 2 ^ w) % 2 ^ w).toNat) ∧
  go (.vfma h o) (l 5 3) .lm (fun e => fFma f md z false false (a e) (b e) (d e)) ∧
  go (.vfms h o) (l 5 3) .lm (fun e => fFma f md z false true (a e) (b e) (d e)) ∧
  go (.vfnma h o) (l 5 3) .lm (fun e => fFma f md z true false (a e) (b e) (d e)) ∧
  go (.vmin h o) li .la (fun e => eMinMax s t false (a e) (b e)) ∧
  go (.vmax h o) li .la (fun e => eMinMax s t true (a e) (b e)) ∧
  go (.vabs h o) li .la (fun e => if t < 3 then eSign t z false (a e) else fit (v (a e)).natAbs) ∧
  go (.vneg h o) li .la (fun e => if t < 3 then eSign t z true (a e) else fit (-(v (a e)))) ∧
  go (.vand h o) 1 .la (fun e => still (a e &&& b e)) ∧
  go (.vor h o) 1 .la (fun e => still (a e ||| b e)) ∧
  go (.vxor h o) 1 .la (fun e => still (a e ^^^ b e)) ∧
  go (.vshl h o) 1 .la (fun e => still (a e * 2 ^ (b e % w))) ∧
  go (.vshr h o) 1 .la (fun e => still (a e / 2 ^ (b e % w))) ∧
  go (.vsra h o) 1 .la (fun e => still ((sgn w (a e) / 2 ^ (b e % w)) % 2 ^ w).toNat) ∧
  go (.vclamp h o) li .la (fun e =>
    let x := eMinMax s t true (a e) (b e)
    let y := eMinMax s t false x.1 (d e)
    (y.1, x.2 ||| y.2))

/-- R120 to R124: selection, copies, splats, insertion, shuffle and byte rotation: none raises a flag, and selections and copies
alone have a result latch (R17). -/
def Obligations.VectorMoves : Prop := ∀ (h : Slot) (o : VaF) (s : State), slotOn s h = true →
  HeadsFull s [o.va, o.vb] →
  let c := vaC h
  let w := etW o.ft.toNat
  let m := vMask s c o.m
  let on := fun e => m.getLsbD (e * w / 32)
  let a := vOperand s c o.va
  let b := vOperand s c o.vb
  let go := fun (i : Instr) (w : Nat) (on : Nat → Bool) (la : Latched) (op : Nat → Nat) =>
    WritesElements s i h (.v c o.vd.toNat) 1 w on (fun e => (op e, 0)) la
  go (.vsel h o) 32 (fun _ => true) .la (fun k => if m.getLsbD k then elem 32 a k else elem 32 b k) ∧
  go (.vmov h o) 32 (fun k => m.getLsbD k) .la (fun k => elem 32 a k) ∧
  go (.vbcs h o) w on .none (fun _ => (rs s (o.va.setWidth 5)).toNat % 2 ^ w) ∧
  go (.vext h o) w on .none (fun _ => elem w a o.vb.toNat) ∧
  go (.vins h o) w (fun e => e == o.vb.toNat) .none (fun _ => (rs s (o.va.setWidth 5)).toNat % 2 ^ w) ∧
  go (.vshuf h o) w on .none (fun e => elem w a (elem w b e % (512 / w))) ∧
  go (.vrmg h o) 32 (fun k => m.getLsbD k) .none
    (fun k => (a.toNat + 2 ^ 512 * b.toNat) / 2 ^ (8 * o.vc.toNat + 32 * k) % 2 ^ 32)

/-- R122, R129, R131: the reduction, the five transcendental functions with `vsqrt`, and the random numbers, in every lane of
width 32 that is written, with the flags of the lanes written and no result latch (R17, R23). -/
def Obligations.VectorLaneFunctions : Prop := ∀ (h : Slot) (o : VaF) (s : State), slotOn s h = true →
  HeadsFull s [o.va, o.vb] →
  let c := vaC h
  let m := vMask s c o.m
  let a := vOperand s c o.va
  let x := elem 32 a
  let l := lat s s.focus 12 6
  let z := s.iss.fz
  let go := fun (i : Instr) (n : Nat) (op : Nat → Nat × Flags) =>
    WritesElements s i h (.v c o.vd.toNat) n 32 (fun k => m.getLsbD k) op .none
  go (.vred h o) (lat s s.focus 6 3) (fun _ => reduce s o a) ∧
  (o.ft = 0 → go (.vexp2 h o) l (fun k => fExp2 z (x k)) ∧ go (.vlog2 h o) l (fun k => fLog2 z (x k)) ∧
    go (.vrcp h o) l (fun k => fRcp z (x k)) ∧ go (.vrsq h o) l (fun k => fRsq z (x k)) ∧
    go (.vsqrt h o) l (fun k => fSqrt z (x k)) ∧ go (.vtanh h o) l (fun k => fTanh z (x k))) ∧
  go (.vrng h o) (lat s s.focus 3 2)
    (fun k => ((mix32 (a.setWidth 64) ((vOperand s c o.vb).setWidth 64) (16 * c + k)).toNat, 0))

/-- R125 to R128: conversions between element types, packing, unpacking, quantizing, dequantizing and the four-way dot
product, each with the flags of the elements written (R23); the dot product alone has a result latch (R17). -/
def Obligations.VectorConversions : Prop := ∀ (h : Slot) (o : VaF) (s : State), slotOn s h = true →
  HeadsFull s [o.va, o.vb, o.vc] →
  let c := vaC h
  let t := o.ft.toNat
  let w := etW t
  let m := vMask s c o.m
  let a := vOperand s c o.va
  let b := vOperand s c o.vb
  let hd := elem 32 (vOperand s c o.vc) 0
  let dst := Dst.v c o.vd.toNat
  let l := lat s s.focus 3 2
  let z := s.iss.fz
  let u := o.vc.toNat % 16
  let ns := 512 / w
  let nd := 512 / etW u
  let cv := fun j => eConv (modeOf s o.rn) z t u (elem w a j)
  WritesElements s (.vcvt h o) h dst l (etW u)
    (fun e => m.getLsbD (e * etW u / 32) && (if ns < nd then decide (e / ns = o.vb.toNat) else true))
    (fun e => cv (if ns < nd then e % ns else if nd < ns then o.vb.toNat * nd + e else e)) .none ∧
  (w ≤ 16 → WritesElements s (.vpack h o) h dst 1 w (fun e => m.getLsbD (e * w / 32)) (fun j =>
    let y := if j < ns / 2 then elem (2 * w) a j else elem (2 * w) b (j - ns / 2)
    fitT t (o.sat == 1) (if etS t then sgn (2 * w) y else (y : Int))) .none) ∧
  (w ≤ 16 → WritesElements s (.vunpk h o) h dst 1 (2 * w) (fun e => m.getLsbD (e * (2 * w) / 32)) (fun j =>
    (((etVal t (elem w a (o.vb.toNat * (ns / 2) + j))) % (2 ^ (2 * w) : Int)).toNat, 0)) .none) ∧
  WritesElements s (.vqnt h o) h dst l w (fun e => m.getLsbD (e * w / 32) && decide (e / 16 = o.vb.toNat)) (fun e =>
    let q := quant (fpRead fp32 z (elem 32 a (e % 16))) hd (-(2 ^ (w - 1))) (2 ^ (w - 1) - 1)
    ((q.1 % (2 ^ w : Int)).toNat, q.2.1)) .none ∧
  WritesElements s (.vdqnt h o) h dst l 32 (fun k => m.getLsbD k)
    (fun k => dequant (sgn w (elem w a (16 * o.vb.toNat + k))) hd) .none ∧
  WritesElements s (.vdot4 h o) h dst l 32 (fun k => m.getLsbD k) (fun k =>
    let t32 := if etS t then 3 else 4
    let p := fun i => etVal t (elem 8 a (4 * k + i)) * etVal t (elem 8 b (4 * k + i))
    fitT t32 (o.sat == 1) (etVal t32 (elem 32 (vOperand s c o.vc) k) + p 0 + p 1 + p 2 + p 3)) .lm

/-- R119, R130: compares and mask operations write mask registers (a write of `m0` is in flight as any other, and its write-back
discards it, R16); a compare has the flags of the lanes written; `vmpop` counts the ones of a mask. -/
def Obligations.VectorMasks : Prop := ∀ (h : Slot) (o : VaF) (s : State), slotOn s h = true →
  HeadsFull s [o.va, o.vb] →
  let c := vaC h
  let t := o.ft.toNat
  let w := etW t
  let m := vMask s c o.m
  let dst := Dst.m c o.vd.toNat
  let mk := fun (n : BitVec 6) => ((archOf s s.focus.core).clus c).maskReg n.toNat
  let all := BitVec.ofNat 512 0xFFFF
  WritesElements s (.vcmp h o) h dst (if t < 3 then lat s s.focus 4 2 else 1) 1 (fun k => decide (k < 16) && m.getLsbD k) (fun k =>
    let r := (List.range (32 / w)).map (fun i => eCond s t o.vc.toNat (elem w (vOperand s c o.va) (k * (32 / w) + i))
      (elem w (vOperand s c o.vb) (k * (32 / w) + i)))
    ((r.all (·.1)).toNat, r.foldl (fun f x => f ||| x.2) 0)) .none ∧
  WritesRow s (.vmand h o) h dst 1 ((mk o.va &&& mk o.vb).setWidth 512) all ∧
  WritesRow s (.vmor h o) h dst 1 ((mk o.va ||| mk o.vb).setWidth 512) all ∧
  WritesRow s (.vmnot h o) h dst 1 ((~~~(mk o.va)).setWidth 512) all ∧
  WritesElements s (.vmpop h o) h (.v c o.vd.toNat) 1 32 (fun k => m.getLsbD k)
    (fun _ => (((List.range 16).filter (fun i => (mk o.va).getLsbD i)).length, 0)) .none

/-- R134, R135, R139, R144, R316 to R318: a timed load whose access is allowed, with a landing entry free and its bank owned,
issues one request for the row or word its effective address reaches, and puts its landing in flight: `vld` at N0 of the point
in force, the others at `arr`. Memory, the hub and every register stand as before. In a block that checks races a load of a
checked region meets its row's tag, which it changes, or it is the race trap; what a checked access of either kind makes of
a tag is what the table of R318 says, its first rows first. (That the check waits for the stream's acquires is log 62, the
trap's argument log 28.) -/
def Obligations.TimedLoadsIssue : Prop := (∀ (h : Slot) (s : State) (pa : Nat), slotOn s h = true →
  BankFree s pa → EntryFree s (if h.pos = 2 then 8 else h.pos.toNat - 12) →
  let go := fun (i : Instr) (va : Word) (ord : BitVec 2) (len : Nat) (dst : Dst) (mask : Row) (shape : Shape) (arr : Nat) =>
    AccessCompletes s h i askLoad va pa fun t => ∃ r, IsReq s t r .load pa len ∧ (r.acq = true ↔ ord = 1) ∧
      Lands s t h r dst mask shape arr ∧ OnlyAsks s t ∧ t.hub = s.hub ∧ t.net = s.net
  (∀ o : VlF, let va := rs s o.sa + o.off.signExtend 64 * 64
    go (.vld h o) va o.ord 64 (.v (vlC h) o.vd.toNat) (vlMask s h o.m) .row (n0 (ptNow s s.focus.core)) ∧
    go (.vldt h o) va o.ord 64 (.v (vlC h) o.vd.toNat) (vlMask s h o.m) .row o.arr.toNat) ∧
  (∀ o : VlF, go (.vbld h o) (rs s o.sa + o.off.signExtend 64 * 8) o.ord 8 (.v (vlC h) o.vd.toNat) (vlMask s h o.m) .bcast
    o.arr.toNat) ∧
  (∀ o : SmF, go (.ld h o) (rs s o.sa + o.off.signExtend 64 * 8) o.ord 8 (if o.sd = 0 then .none else .s o.sd.toNat) mask64
    .word o.arr.toNat)) ∧
  (∀ (a : Arch) (y : Nat) (wr : Bool) (t : Tag),
    let ordered := fun (x : Nat) => x = y ∨ inAset a x = true
    let races := t.wp = true ∧ ¬ordered t.w
    (t.v = false ∨ t.ph ≠ a.phn.toNat → meetTag a y wr t = some
      { ph := a.phn.toNat, v := true, rp := !wr, wp := wr, rd := if wr then 0 else y, w := if wr then y else 0 }) ∧
    (t.v = true → t.ph = a.phn.toNat →
      (races → meetTag a y wr t = none) ∧
      (¬races → t.rp = true → t.rd = 0x3FF → meetTag a y wr t = if wr then none else some t) ∧
      (¬races → t.rp = true → t.rd ≠ 0x3FF → ¬ordered t.rd → meetTag a y wr t = if wr then none else some { t with rd := 0x3FF }) ∧
      (¬races → (t.rp = true → t.rd ≠ 0x3FF ∧ ordered t.rd) →
        meetTag a y wr t = some (if wr then { t with wp := true, w := y, rp := false, rd := 0 }
          else if t.rp = false then { t with rp := true, rd := y } else if t.rd = y then t else { t with rd := 0x3FF }))))

/-- R140, R144, R310, R312, R316, R318: a store whose access is allowed issues one request that carries its data and its bytes
to the address its effective address reaches: all of a row, the lanes of the mask, or a word. No byte of memory changes at
issue, and no register does. It waits for the stream's earlier accesses at every scope at which it is a release, by its own order
or after a release fence. In a block that checks races a store to a checked region meets its row's tag, which it changes, or it
is the race trap; in another block it resets that tag. (The trap's argument is log 28.) -/
def Obligations.StoresIssue : Prop := ∀ (h : Slot) (s : State) (pa : Nat), slotOn s h = true →
  BankFree s pa → (paPkg pa = s.pkg.toNat ∨ OutFree s) →
  let go := fun (i : Instr) (va : Word) (ord : BitVec 2) (scp len : Nat) (data : Row) (mask : BitVec 64) =>
    AccessCompletes s h i askStore va pa fun t => ∃ r, IsReq s t r .store pa len ∧ r.data = data ∧ r.mask = mask ∧
      (r.rel = true ↔ ord = 2) ∧ OnlyAsks s t ∧ t.net = s.net ∧ (strmOf t s.focus).pipe = (strmOf s s.focus).pipe ∧
      ∀ q ∈ (archOf s s.focus.core).reqs, q.side = s.focus.side → q.eng = false →
        (ord = 2 ∧ scopeHolds s s.focus.core scp q.pa = true) ∨
          (∃ f, (strmOf s s.focus).relF = some f ∧ scopeHolds s s.focus.core f q.pa = true) → q.id ∈ r.wait
  (∀ o : VlF, let va := rs s o.sa + o.off.signExtend 64 * 64
    go (.vst h o) va o.ord 5 64 (vlV s h o.vd) (BitVec.allOnes 64) ∧
    (∃ m : BitVec 64, go (.vstm h o) va o.ord 5 64 (vlV s h o.vd) m ∧
      ∀ i < 64, m.getLsbD i = (vMask s (vlC h) o.m).getLsbD (i / 4))) ∧
  (∀ o : SmF, go (.st h o) (rs s o.sa + o.off.signExtend 64 * 8) o.ord o.scp.toNat 8 ((rs s o.sb).setWidth 512) 0xFF)

/-- R154, R292: an access through a handle that is valid for its side of the buffer, at an index below the buffer size, reads the
row at `CNS` + off once it is filled, or writes the row at `PRD` + off once it is free, through the entry that maps the row
where one does (log 97: an inference, R292 speaks of accesses through an entry). -/
def Obligations.HandleAccesses : Prop := ∀ (h : Slot) (o : VlF) (s : State), slotOn s h = true →
  let x := handleReg s o.sa.toNat
  let off := o.off.toNat
  (handleBad s x off false = false → off + 1 ≤ x.filled → EntryFree s (vlC h) →
    ∀ pa, RowReaches s askLoad (sliceRow s.pkg s.focus.core (x.base + (x.cns + off) % x.size)) pa → BankFree s pa →
    ∃ t r, exec (.vldh h o) s = .next t ∧ IsReq s t r .load pa 64 ∧ r.hnd = some o.sa.toNat ∧
      Lands s t h r (.v (vlC h) o.vd.toNat) (vlMask s h o.m) .row (n0 (ptNow s s.focus.core)) ∧ OnlyAsks s t ∧ t.hub = s.hub) ∧
  (handleBad s x off true = false → off + 1 ≤ x.free →
    ∀ pa, RowReaches s askStore (sliceRow s.pkg (bufferCore s x true) (x.base + (x.prd + off) % x.size)) pa → BankFree s pa →
    ∃ t r, exec (.vsth h o) s = .next t ∧ IsReq s t r .store pa 64 ∧ r.hnd = some o.sa.toNat ∧ r.data = vlV s h o.vd ∧
      r.mask = BitVec.allOnes 64 ∧ OnlyAsks s t ∧ (strmOf t s.focus).pipe = (strmOf s s.focus).pipe)

/-- R146, R149: an atomic whose access is allowed issues one request that carries its opcode, s[sb] and s[sd]; with `arr` = 0
it lands nothing, else the old value lands in s[sd] at `arr`. -/
def Obligations.AtomicsIssue : Prop := ∀ (h : Slot) (o : SmF) (s : State) (pa : Nat), slotOn s h = true →
  Reaches s (askAtomic (decide (o.arr ≠ 0))) (rs s o.sa + o.off.signExtend 64 * 8) pa → BankFree s pa →
  (paPkg pa = s.pkg.toNat ∨ OutFree s) → (o.arr ≠ 0 → EntryFree s 8) →
  ∀ x ∈ [(Instr.aadd h o, 7), (.aand h o, 8), (.aor h o, 9), (.axor h o, 10), (.amin h o, 11), (.amax h o, 12),
      (.aminz h o, 13), (.amaxz h o, 14), (.axch h o, 15), (.acas h o, 16), (.afadd h o, (17 : BitVec 8))],
    ∃ t r, exec x.1 s = .next t ∧ IsReq s t r (.atom x.2) pa 8 ∧ r.data = (rs s o.sb).setWidth 512 ∧ r.cmp = rs s o.sd ∧
      OnlyAsks s t ∧ t.hub = s.hub ∧ t.net = s.net ∧
      (o.arr = 0 → (strmOf t s.focus).pipe = (strmOf s s.focus).pipe) ∧
      (o.arr ≠ 0 → ∃ sh, Lands s t h r (if o.sd = 0 then .none else .s o.sd.toNat) mask64 sh o.arr.toNat ∧
        (x.2 ≠ 17 → sh = .word) ∧ (x.2 = 17 → sh = .half (pa.testBit 2)))

/-- R139, R144, R307: a load of this package that may be performed reads its row or word at its home, and every landing that
awaits it has its data; no byte of memory changes. -/
def Obligations.LoadsAreRead : Prop := ∀ (core i : Nat) (r : Req) (s : State), (archOf s core).reqs[i]? = some r →
  r.op = .load → reqReady (archOf s core) r = true → paPkg r.pa = s.pkg.toNat → storageOk s r.pa = true →
  tierUp s r.pa = true → poisoned s r.pa = false →
  ∃ t, exec (.accessPerformed core i) s = .next t ∧ t.mem = s.mem ∧ t.poison = s.poison ∧ SameCores s t core ∧
    (∀ q ∈ (archOf t core).reqs, q.id ≠ r.id) ∧
    ∀ (sd : Bool) (n : Nat) (x : Flight), (strmOf s ⟨core, sd⟩).pipe.ops[n]? = some x →
      ∃ y, (strmOf t ⟨core, sd⟩).pipe.ops[n]? = some y ∧ (x.landing = false ∨ x.req ≠ r.id → y = x) ∧
        (x.landing = true → x.req = r.id → y.got = true ∧ y.dst = x.dst ∧ y.mask = x.mask ∧ y.rem = x.rem ∧
          (x.shape = .row → r.len = 64 → y.val = rowAt s r.pa) ∧
          (x.shape = .word → r.len = 8 → y.val = (wordAt s r.pa).setWidth 512) ∧
          (x.shape = .bcast → r.len = 8 → ∀ k < 8, elem 64 y.val k = (wordAt s r.pa).toNat))

/-- R140, R307: a store of this package that may be performed writes at its home the bytes of its data that its mask names;
every other byte of memory reads as before. -/
def Obligations.StoresAreWritten : Prop := ∀ (core i : Nat) (r : Req) (s : State), Inv s →
  (archOf s core).reqs[i]? = some r → r.op = .store → reqReady (archOf s core) r = true → paPkg r.pa = s.pkg.toNat →
  storageOk s r.pa = true → tierUp s r.pa = true → (r.len = 64 ∨ r.len = 8) →
  let n := r.len
  let a := canon (r.pa / n * n)
  ∃ t, exec (.accessPerformed core i) s = .next t ∧ (∀ k : Sid, k.core ≠ core → strmOf t k = strmOf s k) ∧ (∀ q ∈ (archOf t core).reqs, q.id ≠ r.id) ∧
    (∀ j < n, cellAt t.mem (a + j) = if r.mask.getLsbD j then r.data.extractLsb' (8 * j) 8 else cellAt s.mem (a + j)) ∧
    (∀ b, b < a ∨ a + n ≤ b → cellAt t.mem b = cellAt s.mem b)

/-- R146, R147, R148, R394: an atomic of this package that may be executed changes its word as its opcode says, lands the old
word where it is awaited, and leaves every other byte of memory as it was, beside the undo record of a restartable node's
atomic outside its banks, whose place is free (log 69) and is taken not to be the word. (Of an `afadd` in a context that
records its order, R357, this says nothing: it also writes a record.) -/
def Obligations.AtomicsAreExecuted : Prop := ∀ (core i : Nat) (r : Req) (c : BitVec 8) (s : State), Inv s →
  (archOf s core).reqs[i]? = some r → r.op = .atom c → reqReady (archOf s core) r = true → paPkg r.pa = s.pkg.toNat →
  storageOk s r.pa = true → poisoned s r.pa = false →
  (c = 17 → mayArrive s r.ctx r.node 1 (r.pa / 8 * 8) (agentBits s.pkg core r.side) = true ∧
    (ctxOf s r.ctx).logm ≠ 1) →
  let x := wordAt s r.pa
  let b : Word := r.data.setWidth 64
  let a := canon (r.pa / 8 * 8)
  let n := (r.ctx, r.node)
  let undone := ∃ z, nodeOf s n.1 n.2 = some z ∧ z.restart = true ∧ nodeOwns s z r.pa = false
  let u := canon (recN (ctxOf s n.1).record 56 8 + 0xAA000000 + 16 * (Config.undoPlace s.fresh % 2 ^ 22))
  (undone → u + 16 ≤ a ∨ a + 8 ≤ u) →
  ∃ t, exec (.atomicAtUnit core i) s = .next t ∧ (∀ q ∈ (archOf t core).reqs, q.id ≠ r.id) ∧
    (let y := wordAt t r.pa
     (c = 7 → y = x + b) ∧ (c = 8 → y = x &&& b) ∧ (c = 9 → y = x ||| b) ∧ (c = 10 → y = x ^^^ b) ∧
     (c = 11 → y.toInt = Min.min x.toInt b.toInt) ∧ (c = 12 → y.toInt = Max.max x.toInt b.toInt) ∧
     (c = 13 → y.toNat = Min.min x.toNat b.toNat) ∧ (c = 14 → y.toNat = Max.max x.toNat b.toNat) ∧
     (c = 15 → y = b) ∧ (c = 16 → y = if x = r.cmp then b else x) ∧
     (c = 17 → r.pa.testBit 2 = false → y = x.extractLsb' 32 32 ++
       BitVec.ofNat 32 (fAdd fp32 0 false (x.extractLsb' 0 32).toNat (b.extractLsb' 0 32).toNat).1) ∧
     (c = 17 → r.pa.testBit 2 = true → y =
       BitVec.ofNat 32 (fAdd fp32 0 false (x.extractLsb' 32 32).toNat (b.extractLsb' 0 32).toNat).1 ++ x.extractLsb' 0 32)) ∧
    (∀ j, j < a ∨ a + 8 ≤ j → (undone → j < u ∨ u + 16 ≤ j) → cellAt t.mem j = cellAt s.mem j) ∧
    (∀ (sd : Bool) (n : Nat) (z : Flight), (strmOf s ⟨core, sd⟩).pipe.ops[n]? = some z → z.landing = true → z.req = r.id →
      z.shape = .word → ∃ y, (strmOf t ⟨core, sd⟩).pipe.ops[n]? = some y ∧ y.got = true ∧ y.val = x.setWidth 512)

/-- R141, R142, R144, R145: the understory rows and words, the staging words and the cluster exchange. -/
def Obligations.LocalStorage : Prop :=
  (∀ (h : Slot) (o : VlF) (s : State), slotOn s h = true →
    let und := fun (u : State) (c n : Nat) => tget 0 ((archOf u s.focus.core).clus c).und n
    WritesRow s (.vldx h o) h (.v (vlC h) o.vd.toNat) 1 (und s (vlC h) o.off.toNat) maskAll ∧
    (∃ t, exec (.vstx h o) s = .next t ∧ SameOutside s t ∧ SameCores s t s.focus.core ∧ strmOf t s.focus = strmOf s s.focus ∧
      ∀ c, ((archOf t s.focus.core).clus c).v = ((archOf s s.focus.core).clus c).v ∧
        ((archOf t s.focus.core).clus c).m = ((archOf s s.focus.core).clus c).m ∧
        ∀ n, und t c n = if c = vlC h ∧ n = o.off.toNat then vlV s h o.vd else und s c n) ∧
    ((isRoot s.focus.core = true → o.xc.toNat < 4) →
      WritesElements s (.vxfer h o) h (.v o.xc.toNat o.vd.toNat) (lat s s.focus 3 2) 32
        (fun k => (vMask s (vlC h) o.m).getLsbD k) (fun k => (elem 32 (vlV s h o.sa) k, 0)) .none)) ∧
  (∀ (h : Slot) (o : SmF) (s : State), slotOn s h = true →
    let c := s.focus.core
    let sh := fun (u : State) (e n : Nat) => tget 0 (tget [] (archOf u c).shd e) n
    let e := (o.off.extractLsb' 7 2).toNat
    let n := (o.off.extractLsb' 0 7).toNat
    exec (.ldx h o) s = .next (emitS s s h 3 o.sd (tget 0 (archOf s c).und o.off.toNat) 1 0) ∧
    (∃ t, exec (.stx h o) s = .next t ∧ SameOutside s t ∧ SameCores s t c ∧ strmOf t s.focus = strmOf s s.focus ∧
      ∀ n, tget 0 (archOf t c).und n = if n = o.off.toNat then rs s o.sb else tget 0 (archOf s c).und n) ∧
    (s.focus.side = false → (isRoot c = true → e = 1) →
      exec (.ldg h o) s = .next (emitS s s h 6 o.sd (sh s e n) 1 0) ∧
      ∃ t, exec (.stg h o) s = .next t ∧ SameOutside s t ∧ SameCores s t c ∧ strmOf t s.focus = strmOf s s.focus ∧
        (archOf t c).cur = (archOf s c).cur ∧
        ∀ e' n', sh t e' n' = if e' = e ∧ n' = n then rs s o.sb else sh s e' n'))

/-- R160: a push puts its entry on its way: into the own queue when it is local and the queue takes it, behind the accesses it
waits for when it releases; towards the named core when it is remote and there is room, towards the root core or a crown core
of the copse when it is vertical and there is credit. No byte of memory and no register changes. A local push to a queue
that is full or disabled is a handle misuse. That a local release push takes its room at once but stays on its way until what it
waits for is done, with later local pushes behind it, is the model's reading (log 98). -/
def Obligations.QueuePushes : Prop := ∀ (h : Slot) (o : VlF) (s : State), slotOn s h = true →
  let c := s.focus.core
  let q := o.off.toNat
  let here := fun (t : State) => ∃ e, ((archOf t c).queue q).ents = ((archOf s c).queue q).ents ++ [e] ∧ e.data = vlV s h o.vd ∧
    e.src = c ∧ (e.rel = true ↔ o.ord = 2) ∧ t.net = s.net ∧ t.mem = s.mem
  let away := fun (t : State) (dst q' : Nat) (out : Bool) => ∃ m e, t.net = s.net ++ [m] ∧ m.dst = dst ∧ m.src = c ∧
    m.out = out ∧ m.msg = .push q' e ∧ e.data = vlV s h o.vd ∧ (e.rel = true ↔ o.ord = 2) ∧
    t.mem = s.mem ∧ t.cores = s.cores ∧ t.hub = s.hub
  (o.xc = 0 ∨ (o.xc = 1 ∧ (rs s o.sa).toNat = c ∧ coreOkN c = true) →
    (queueFull s c q = false → ((archOf s c).queue q).ring = none →
      (ownPushes s c q = 0 → (o.ord = 2 → relWaits s s.focus 5 = []) → ((archOf s c).queue q).manyProds c = false →
        ∃ t, exec (.vqpush h o) s = .next t ∧ here t) ∧
      (ownPushes s c q ≠ 0 ∨ (o.ord = 2 ∧ relWaits s s.focus 5 ≠ []) → ∃ t, exec (.vqpush h o) s = .next t ∧ away t c q false)) ∧
    (queueFull s c q = true → exec (.vqpush h o) s = .next (takeTrap s s.focus (mkTrap s h 9 4 0 q)))) ∧
  (o.xc = 1 → (rs s o.sa).toNat ≠ c → coreOkN (rs s o.sa).toNat = true → OutFree s →
    ∃ t, exec (.vqpush h o) s = .next t ∧ away t (rs s o.sa).toNat q true) ∧
  (o.xc = 2 → s.iss.verts = [] → vertUsed s (vertTarget c q) < 8 →
    ∃ t, exec (.vqpush h o) s = .next t ∧ away t (vertTarget c q) 7 false)

/-- R151, R152: a majority operation whose protocol has ended writes the counter of its cell to s[sd]; `mjld` also stores the
whole cell to its row of the own slice. With too few members up it is the no-majority trap; its argument, the virtual address of
the cell, is the model's choice (log 28). -/
def Obligations.MajorityOperations : Prop := ∀ (h : Slot) (o : SmF) (s : State) (pa own : Nat), slotOn s h = true →
  let up := (List.range (tget MjSet.free s.hub.mjs (mjSet pa)).n).filter
    (fun i => (tget MjSet.free s.hub.mjs (mjSet pa)).mem i == 0)
  Reaches s { askLoad with wr := true, timed := false, coreWr := true, major := true } (rs s o.sa) pa → BankFree s own →
  (Reaches s { askStore with own := true } (rs s o.sb) own →
    (∀ r, (strmOf s s.focus).mjok = some r → ∃ t q x, exec (.mjld h o) s = .next t ∧ IsReq s t q .store own 64 ∧ q.data = r ∧
      q.mask = BitVec.allOnes 64 ∧ NewOp s t x ∧ x.dst = (if o.sd = 0 then .none else .s o.sd.toNat) ∧
      x.val = (r.extractLsb' 384 48).setWidth 512 ∧ x.rem = inFlight 1 ∧ (strmOf t s.focus).mjok = none ∧ t.mem = s.mem) ∧
    ((strmOf s s.focus).mjok = none → up.length < (tget MjSet.free s.hub.mjs (mjSet pa)).n / 2 + 1 →
      exec (.mjld h o) s = .next (takeTrap s s.focus
        (mkTrap s h 16 4 (BitVec.ofNat 64 (wf (rs s o.sa) 0 48 / 64 * 64)) 0)))) ∧
  (Reaches s { askLoad with timed := false, own := true } (rs s o.sb) own →
    (∀ r, (strmOf s s.focus).mjok = some r → ∃ t x, exec (.mjst h o) s = .next t ∧
      (archOf t s.focus.core).reqs = (archOf s s.focus.core).reqs ∧ NewOp s t x ∧
      x.dst = (if o.sd = 0 then .none else .s o.sd.toNat) ∧ x.val = (r.extractLsb' 384 48).setWidth 512 ∧ x.rem = inFlight 1 ∧
      (strmOf t s.focus).mjok = none ∧ t.mem = s.mem) ∧
    ((strmOf s s.focus).mjok = none → up.length < (tget MjSet.free s.hub.mjs (mjSet pa)).n / 2 + 1 →
      exec (.mjst h o) s = .next (takeTrap s s.focus
        (mkTrap s h 16 4 (BitVec.ofNat 64 (wf (rs s o.sa) 0 48 / 64 * 64)) 0))))

/-- R198, R199, R312, R317: a fence whose condition holds passes: an acquire takes the collected releaser ids into the acquire
set, a release or a full fence makes the stream's later stores releases at its scope; a fence whose condition fails freezes its
bundle and changes nothing. -/
def Obligations.FencesWaitAndPass : Prop := ∀ (h : Slot) (o : SmF) (s : State), slotOn s h = true →
  let k := s.focus
  let a := archOf s k.core
  let quiet := fun (q : Pipe) => q.mx = [] ∧ q.tx = [] ∧ q.rep = none ∧ q.nest = none
  let pass := fun (i : Instr) (acq : Bool) (rel : Option Nat) => ∃ t, exec i s = .next t ∧ SameOutside s t ∧ SameCores s t k.core ∧
    strmOf t k = { strmOf s k with relF := rel } ∧ (archOf t k.core).reqs = a.reqs ∧
    (archOf t k.core).pids = (if acq then [] else a.pids) ∧
    (acq = false → (archOf t k.core).aset = a.aset) ∧
    (acq = true → ∀ l, (archOf t k.core).aset = some l → ∀ x ∈ a.pids, x ∈ l)
  let held := fun (i : Instr) => exec i s = .next s
  (acqDone s k = true → pass (.fenceAcquire h o) true none) ∧ (acqDone s k = false → held (.fenceAcquire h o)) ∧
  (relDone s k o.scp.toNat = true → pass (.fenceRelease h o) false (some o.scp.toNat)) ∧
  (relDone s k o.scp.toNat = false → held (.fenceRelease h o)) ∧
  (acqDone s k = true → relDone s k o.scp.toNat = true → pass (.fenceFull h o) true (some o.scp.toNat)) ∧
  (acqDone s k = false ∨ relDone s k o.scp.toNat = false → held (.fenceFull h o)) ∧
  (quiet a.main.pipe → quiet a.main.frame.held → a.cp = [] → a.smv = [] → (∀ r ∈ a.reqs, r.eng = false) →
    pass (.fenceEngineComplete h o) false none) ∧
  (¬quiet a.main.pipe ∨ ¬quiet a.main.frame.held ∨ a.cp ≠ [] ∨ a.smv ≠ [] ∨ (∃ r ∈ a.reqs, r.eng = true) →
    held (.fenceEngineComplete h o)) ∧
  ((∀ x ∈ a.cp, pubPending s k.core o.scp.toNat x = false) → pass (.fencePublishVisible h o) false none) ∧
  ((∃ x ∈ a.cp, pubPending s k.core o.scp.toNat x = true) → held (.fencePublishVisible h o))

/-- R200: a barrier that its core has reached and that is complete lets its bundle go on, once; before that a full fence at
its scope must hold, then the core's arrival is entered at its instance, and the bundle waits. A side stream has no
barrier, and the two outer scopes need a group; the argument 0 of the permission trap without one is the model's choice (log
54). -/
def Obligations.BarrierInstruction : Prop := ∀ (h : Slot) (o : SmF) (s : State), slotOn s h = true →
  let c := s.focus.core
  let a := archOf s c
  let e := fun (b : Bool) => (o.scp.toNat, o.off.toNat % 16, b)
  (s.focus.side = true → exec (.bar h o) s = .next (takeTrap s s.focus (mkTrap s h 1 2 0 0))) ∧
  (s.focus.side = false → 6 ≤ o.scp.toNat → barGroup s c = 0 →
    exec (.bar h o) s = .next (takeTrap s s.focus (mkTrap s h 4 4 0 0))) ∧
  (s.focus.side = false → (6 ≤ o.scp.toNat → barGroup s c ≠ 0) →
    (e true ∈ a.arrv → ∃ t, exec (.bar h o) s = .next t ∧ (archOf t c).arrv = a.arrv.erase (e true) ∧ SameOutside s t ∧
      SameCores s t c ∧ (strmOf t s.focus).s = (strmOf s s.focus).s) ∧
    (e true ∉ a.arrv → e false ∈ a.arrv → exec (.bar h o) s = .next s) ∧
    (e true ∉ a.arrv → e false ∉ a.arrv → (acqDone s s.focus && relDone s s.focus o.scp.toNat) = false →
      exec (.bar h o) s = .next s) ∧
    (e true ∉ a.arrv → e false ∉ a.arrv → (acqDone s s.focus && relDone s s.focus o.scp.toNat) = true → ∀ k, a.task = some k →
      ∃ t, exec (.bar h o) s = .next t ∧ (archOf t c).arrv = a.arrv ++ [e false] ∧ t.mem = s.mem ∧
        ∃ b ∈ t.hub.bars, b.ctx = k.ctx ∧ b.node = k.node ∧ b.scp = o.scp.toNat ∧ b.id = o.off.toNat % 16 ∧ c ∈ b.arr))

/-- R202, R203: `evpop` takes the oldest record, header and payload with latency 1, and waits for one or writes zeros when
there is none; `evpost` sends one record to a core that exists, and is a handle misuse towards one that does not (its `AUX`, 0,
is the model's choice: log 54). -/
def Obligations.EventInstructions : Prop := ∀ (h : Slot) (o : SmF) (s : State), slotOn s h = true →
  let c := s.focus.core
  (∀ r l, (archOf s c).evq = r :: l → ∃ t x y, exec (.evpop h o) s = .next t ∧ (archOf t c).evq = l ∧ SameOutside s t ∧
    (strmOf t s.focus).pipe.ops = (strmOf s s.focus).pipe.ops ++ [x, y] ∧
    x.dst = (if o.sd = 0 then .none else .s o.sd.toNat) ∧ x.val = r.hdr.setWidth 512 ∧ x.rem = inFlight 1 ∧
    y.dst = (if o.sb = 0 then .none else .s o.sb.toNat) ∧ y.val = r.pay.setWidth 512 ∧ y.rem = inFlight 1) ∧
  ((archOf s c).evq = [] → (o.off = 0 → exec (.evpop h o) s = .next s) ∧
    (o.off ≠ 0 → exec (.evpop h o) s = .next (emitS s (emitS s s h 22 o.sd 0 1 0) h 22 o.sb 0 1 0))) ∧
  ((rs s o.sa).toNat < 1024 → coreOkN (rs s o.sa).toNat = true → OutFree s →
    ∃ t m r, exec (.evpost h o) s = .next t ∧ t.net = s.net ++ [m] ∧ m.dst = (rs s o.sa).toNat ∧ m.src = c ∧ m.out = true ∧
      m.msg = .event r ∧ r.pay = rs s o.sb ∧ r.hdr.getLsbD 63 = true ∧ r.hdr.extractLsb' 48 8 = 4 ∧
      r.hdr.extractLsb' 32 16 = BitVec.ofNat 16 c ∧ r.hdr.extractLsb' 0 32 = o.off.setWidth 32 ∧
      t.cores = s.cores ∧ t.mem = s.mem ∧ t.hub = s.hub) ∧
  ((rs s o.sa).toNat ≥ 1024 ∨ coreOkN (rs s o.sa).toNat = false →
    exec (.evpost h o) s = .next (takeTrap s s.focus (mkTrap s h 9 4 0 0)))

/-- R206: `tq` looks s[sa] up and writes the fields of the lowest-numbered entry that maps it, zero when none does, with
latency 1; it does nothing else. -/
def Obligations.TranslationQuery : Prop :=
  decodeSlot 2 0x006D84000000 = .ok (.tq ⟨2, false, 0, false⟩ ⟨12, 4, 0, 0, 0, 0, 0⟩) ∧
  ∀ (h : Slot) (o : SmF) (s : State), slotOn s h = true →
  let found := lookupE (archOf s s.focus.core).tab ((rs s o.sa).extractLsb' 0 48).toNat
  ∃ v : Word, exec (.tq h o) s = .next (emitS s s h 27 o.sd v 1 0) ∧ (found = none → v = 0) ∧
    (∀ i e, found = some (i, e) → i < 256 →
      v.getLsbD 63 = true ∧ (v.extractLsb' 55 8).toNat = i ∧ v.extractLsb' 52 3 = e.w3.extractLsb' 10 3 ∧
      v.extractLsb' 50 2 = e.w3.extractLsb' 8 2 ∧ v.extractLsb' 48 2 = e.w3.extractLsb' 6 2 ∧
      v.extractLsb' 45 3 = e.w3.extractLsb' 3 3 ∧ v.extractLsb' 42 3 = e.w3.extractLsb' 13 3 ∧
      v.extractLsb' 36 6 = e.w0.extractLsb' 48 6 ∧ v.extractLsb' 20 16 = e.w0.extractLsb' 0 16 ∧ v.extractLsb' 0 20 = 0)

/-- R207, R208, R213: `sysr` writes a system register, as it stood before the bundle, to s[sd] with latency 1: every register of
the table, the frame registers as zero while the frame is inactive. -/
def Obligations.SystemRegisterReads : Prop := ∀ (h : Slot) (o : SmF) (s : State), slotOn s h = true →
  let k := s.focus
  let a := archOf s k.core
  let x := strmOf s k
  let n := o.off.toNat
  let fr := fun (w : Word) => if x.frame.act then w else 0
  (isRoot k.core = true → 0x50 ≤ n → n ≤ 0x5F → exec (.sysr h o) s = .next (takeTrap s k (mkTrap s h 1 2 0 0))) ∧
  (¬(isRoot k.core = true ∧ 0x50 ≤ n ∧ n ≤ 0x5F) → ∃ v : Word, exec (.sysr h o) s = .next (emitS s s h 25 o.sd v 1 0) ∧
    (n = 0x00 → v = a.fpc.setWidth 64) ∧ (n = 0x01 → v = (x.f ||| 1).setWidth 64) ∧ (n = 0x02 → v = x.rc.setWidth 64) ∧
    (n = 0x03 → v = x.lc0.setWidth 64) ∧ (n = 0x04 → v = x.lb0.setWidth 64) ∧ (n = 0x05 → v = x.le0.setWidth 64) ∧
    (n = 0x06 → v = x.lc1.setWidth 64) ∧ (n = 0x07 → v = x.lb1.setWidth 64) ∧ (n = 0x08 → v = x.le1.setWidth 64) ∧
    (n = 0x09 → v = a.hqv) ∧
    (n = 0x0A → v.extractLsb' 24 40 = s.pkg.setWidth 40 ∧ v.extractLsb' 8 16 = BitVec.ofNat 16 (k.core % 1024) ∧
      v.extractLsb' 2 6 = 0 ∧ (v.getLsbD 1 = isRoot k.core) ∧ (v.getLsbD 0 = k.side)) ∧
    (n = 0x0D → v = (ownedMask s k.core).setWidth 64) ∧
    (n = 0x0E → a.vcode < 256 → v.extractLsb' 8 56 = BitVec.ofNat 56 a.vcode ∧ v.getLsbD 7 = a.clr.on ∧
      v.getLsbD 3 = mergedPt a.main.blk.pt ∧ v.extractLsb' 0 3 = a.main.blk.pt ∧
      (let mode := if mergedPt a.main.blk.pt then [0, 1, 2, 3] else [4, 5, 6, 7]
       let e := effCode (mergedPt a.main.blk.pt) a.clr.nom (envOf s k.core)
       let cap := (v.extractLsb' 4 3).toNat
       cap ∈ mode ∧ (∀ q ∈ mode, cap < q → e < ptCode q) ∧ (ptCode cap ≤ e ∨ ∀ q ∈ mode, cap ≤ q))) ∧
    (n = 0x11 → v = BitVec.ofNat 64 (a.evdrop * 65536 + a.evq.length)) ∧
    (n = 0x30 → (x.frame.act = false → v = 0) ∧ (x.frame.act = true → v = BitVec.ofNat 64
      (x.frame.held.ops.length + x.frame.held.mx.length + x.frame.held.tx.length + x.frame.held.rep.toList.length +
        x.frame.held.nest.toList.length))) ∧
    (0x32 ≤ n → n ≤ 0x3A → (snapsOf a k.side)[x.frame.snsel.toNat]? = none → v = 0) ∧
    (0x32 ≤ n → n ≤ 0x3A → x.frame.act = true → x.frame.snsel = 0 → x.frame.held.mx = [] → x.frame.held.tx = [] →
      x.frame.held.rep = none → x.frame.held.nest = none → ∀ y, x.frame.held.ops = [y] →
      let res := y.landing && y.got && !y.fpx
      (n = 0x32 → v.getLsbD 63 = true ∧ v.getLsbD 62 = res ∧ v.getLsbD 61 = false ∧ v.getLsbD 60 = y.fpx ∧
        v.extractLsb' 55 5 = y.slot ∧ v.extractLsb' 47 8 = y.opc ∧ v.extractLsb' 29 2 = y.rm ∧ v.extractLsb' 24 5 = y.en ∧
        v.getLsbD 23 = y.fz ∧ v.extractLsb' 0 16 = 0 ∧ (y.rem < 256 → v.extractLsb' 31 8 =
          BitVec.ofNat 8 (if y.fpx then 1 else y.rem)) ∧
        (∀ c r, r < 32 → y.dst = .v c r ∨ y.dst = .s r → (v.extractLsb' 39 8).toNat = r) ∧
        (∀ c r, r < 8 → y.dst = .m c r → (v.extractLsb' 39 8).toNat = 0x20 + r) ∧
        (∀ r, r < 16 → y.dst = .f r → (v.extractLsb' 39 8).toNat = 0x30 + r)) ∧
      (0x33 ≤ n → res = false → v = 0) ∧
      (0x33 ≤ n → res = true → y.shape = .row → v = y.val.extractLsb' (64 * (n - 0x33)) 64) ∧
      (0x33 ≤ n → res = true → y.shape ≠ .row → v = if n = 0x33 then y.val.setWidth 64 else 0)) ∧ (n = 0x0B → v = if (coreOf s k.core).split then 1 else 0) ∧ (n = 0x0C → v = a.disc.setWidth 64) ∧
    (n = 0x0F → v = x.ccnt) ∧ (n = 0x10 → v = s.hub.htck) ∧
    (n = 0x20 → v = fr x.frame.tcause) ∧ (n = 0x21 → v = fr (x.frame.tpc.setWidth 64)) ∧
    (n = 0x22 → v = fr (x.frame.tfa.setWidth 64)) ∧ (n = 0x23 → v = fr x.frame.targ) ∧
    (n = 0x24 → v = fr (x.frame.tflg.setWidth 64)) ∧ (n = 0x25 → v = fr (x.frame.tfpc.setWidth 64)) ∧
    (n = 0x26 → v = fr (x.frame.tblk.setWidth 64)) ∧ (n = 0x27 → v = fr (x.frame.tlc0.setWidth 64)) ∧
    (n = 0x28 → v = fr (x.frame.tlb0.setWidth 64)) ∧ (n = 0x29 → v = fr (x.frame.tle0.setWidth 64)) ∧
    (n = 0x2A → v = fr (x.frame.tlc1.setWidth 64)) ∧ (n = 0x2B → v = fr (x.frame.tlb1.setWidth 64)) ∧
    (n = 0x2C → v = fr (x.frame.tle1.setWidth 64)) ∧ (n = 0x31 → v = x.frame.snsel.setWidth 64) ∧
    (0x40 ≤ n → n ≤ 0x5F → v = (tget 0 a.bfmt (n - 0x40)).setWidth 64))

/-- R48, R207, R208: `sysw` writes s[sb] into a system register at commit: the fields that are listed, nothing of a register
that is read-only, nothing of an inactive frame, and a bank format only when its codes are legal and its bank is owned. Every
other register stands. A write of `FPC` keeps the flags that results of the same core cycle raise (R24). -/
def Obligations.SystemRegisterWrites : Prop := ∀ (h : Slot) (o : SmF) (s : State), slotOn s h = true →
  let k := s.focus
  let x := strmOf s k
  let n := o.off.toNat
  let w := rs s o.sb
  let strm := fun (g : Machine.Stream → Machine.Stream) => exec (.sysw h o) s = .next (modStrm s k g)
  let same := ∃ t, exec (.sysw h o) s = .next t ∧ SameOutside s t ∧ ∀ c, coreOf t c = coreOf s c
  (n = 0x00 → exec (.sysw h o) s = .next (modArch s k.core (fun a =>
    { a with fpc := (w.setWidth 32 &&& 0x3FFB) ||| a.main.raised ||| a.side.raised }))) ∧
  (n = 0x01 → strm (fun x => { x with f := w.setWidth 16 ||| 1 })) ∧
  (n = 0x02 → strm (fun x => { x with rc := w.setWidth 16 })) ∧
  (n = 0x31 → strm (fun x => { x with frame := { x.frame with snsel := w.setWidth 8 } })) ∧
  ((3 ≤ n ∧ n ≤ 0x11) ∨ n = 0x30 ∨ (0x32 ≤ n ∧ n ≤ 0x3A) → exec (.sysw h o) s = .next s) ∧
  (x.frame.act = true →
    (n = 0x21 → strm (fun x => { x with frame := { x.frame with tpc := w.setWidth 48 } })) ∧
    (n = 0x24 → strm (fun x => { x with frame := { x.frame with tflg := w.setWidth 16 } })) ∧
    (n = 0x25 → strm (fun x => { x with frame := { x.frame with tfpc := w.setWidth 32 &&& 0x3FFB } })) ∧
    (n = 0x26 → strm (fun x => { x with frame := { x.frame with tblk := w.setWidth 48 } })) ∧
    (n = 0x27 → strm (fun x => { x with frame := { x.frame with tlc0 := w.setWidth 32 } })) ∧
    (n = 0x28 → strm (fun x => { x with frame := { x.frame with tlb0 := w.setWidth 48 } })) ∧
    (n = 0x29 → strm (fun x => { x with frame := { x.frame with tle0 := w.setWidth 48 } })) ∧
    (n = 0x2A → strm (fun x => { x with frame := { x.frame with tlc1 := w.setWidth 32 } })) ∧
    (n = 0x2B → strm (fun x => { x with frame := { x.frame with tlb1 := w.setWidth 48 } })) ∧
    (n = 0x2C → strm (fun x => { x with frame := { x.frame with tle1 := w.setWidth 48 } })) ∧
    (n = 0x20 ∨ n = 0x22 ∨ n = 0x23 → same)) ∧
  (x.frame.act = false → 0x20 ≤ n → n ≤ 0x2C → same) ∧
  (0x40 ≤ n → n ≤ 0x5F → (isRoot k.core = true → n < 0x50) → (archOf s k.core).rlsd.getLsbD (n - 0x40) = false →
    BankFree s (sliceRow s.pkg k.core ((n - 0x40) * 2048)) →
    ∃ t, exec (.sysw h o) s = .next t ∧ SameOutside s t ∧ SameCores s t k.core ∧ strmOf t k = x ∧
      (∀ b, b ≠ n - 0x40 → tget 0 (archOf t k.core).bfmt b = tget 0 (archOf s k.core).bfmt b) ∧
      tget 0 (archOf t k.core).bfmt (n - 0x40) = (if 8 < (w.extractLsb' 0 4).toNat ∨ w.extractLsb' 8 2 = 3
        then tget 0 (archOf s k.core).bfmt (n - 0x40) else w.setWidth 32 &&& 0xFFFF030F))

/-- R163, R205: `brel` marks the named banks that the launch owns as released; a chain signal with operands in range enters
the sequencer's intake while fewer than four of the core's wait there, and waits otherwise. -/
def Obligations.SignalsAndReleases : Prop := ∀ (h : Slot) (o : SmF) (s : State), slotOn s h = true →
  let c := s.focus.core
  let ctx := (nodeIds s c).1
  let mine := (ctxOf s ctx).sigs.filter (fun x => x.core == c)
  (∃ t, exec (.brel h o) s = .next t ∧ SameOutside s t ∧ SameCores s t c ∧ strmOf t s.focus = strmOf s s.focus ∧
    ∀ b < 32, (archOf t c).rlsd.getLsbD b = ((archOf s c).rlsd.getLsbD b ||
      ((rs s o.sa).getLsbD b && (ownedMask s c).getLsbD b && (!isRoot c || decide (b < 16))))) ∧
  ∀ x ∈ [(Instr.chsigReady h o, false), (.chsigReturn h o, true)],
    (rs s o.sa).toNat < 256 → (rs s o.sb).toNat < 65536 → (ctxOf s ctx).chain.isSome = true →
    (mine.length < 4 → ∃ t g, exec x.1 s = .next t ∧ (ctxOf t ctx).sigs = (ctxOf s ctx).sigs ++ [g] ∧ g.core = c ∧ g.ret = x.2 ∧
      g.ctr = (rs s o.sa).toNat ∧ g.amt = (rs s o.sb).toNat ∧ g.wait = relWaits s s.focus 6 ∧
      t.cores = s.cores ∧ t.mem = s.mem ∧ t.net = s.net) ∧
    (4 ≤ mine.length → exec x.1 s = .next s)

/-- R20, R153, R156, R157, R158, R161, R162: definition, advance and query of a handle, configuration and spilling of a queue.
An advance tells the peer, behind the stream's earlier accesses through the handle; one of the pointer that the peer moves in
the same cycle is a handle misuse (which moves those are is log 97). -/
def Obligations.HandleAndQueueRegisters : Prop := ∀ (h : Slot) (o : HqF) (s : State), slotOn s h = true →
  let c := s.focus.core
  let n := o.hn.toNat
  let q := o.qn.toNat
  let w := rs s o.sa
  let x := handleReg s n
  let y := (archOf s c).queue q
  let frame := fun (t : State) => t.mem = s.mem ∧ t.hub = s.hub ∧ SameCores s t c ∧ strmOf t s.focus = strmOf s s.focus
  let only := fun (t : State) (m : Nat) => ∀ m', m' ≠ m → tget 0 (archOf t c).h m' = tget 0 (archOf s c).h m'
  let tells := fun (t : State) (prd : Bool) (v : Nat) (op : ReqOp) => (x.peer = c → t.net = s.net) ∧
    (x.peer ≠ c → ∃ m, t.net = s.net ++ [m] ∧ m.dst = x.peer ∧ m.src = c ∧ m.msg = .pointer n prd (BitVec.ofNat 13 v) ∧
      ∀ r ∈ (archOf s c).reqs, r.side = s.focus.side → r.hnd = some n → r.op = op → r.id ∈ m.wait)
  let ringFull := fun (y : Queue) => (y.ring.map (fun r => !r.ents.isEmpty)).getD false
  (producing (archOf s c) n = false → imageBad c w = false →
    ∃ t, exec (.hdef h o) s = .next t ∧ frame t ∧ tget 0 (archOf t c).h n = w ∧ only t n) ∧
  (o.cnt = 0 → exec (.hadv h o) s = .next s) ∧
  (o.cnt ≠ 0 → (n, decide (o.pk = 0)) ∈ (archOf s c).moved →
    exec (.hadv h o) s = .next (takeTrap s s.focus (mkTrap s h 9 4 0 n))) ∧
  (o.cnt ≠ 0 → x.vld = true → o.pk = 0 → o.cnt.toNat ≤ x.free → producing (archOf s c) n = false → (n, true) ∉ (archOf s c).moved →
    ∃ t, exec (.hadv h o) s = .next t ∧ frame t ∧ only t n ∧
      (handleOf (tget 0 (archOf t c).h n)).prd = (x.prd + o.cnt.toNat) % (2 * x.size) % 8192 ∧
      (handleOf (tget 0 (archOf t c).h n)).cns = x.cns ∧
      tells t true ((x.prd + o.cnt.toNat) % (2 * x.size)) .store) ∧
  (o.cnt ≠ 0 → x.vld = true → o.pk ≠ 0 → o.cnt.toNat ≤ x.filled → (n, false) ∉ (archOf s c).moved →
    ∃ t, exec (.hadv h o) s = .next t ∧ frame t ∧ only t n ∧
      (handleOf (tget 0 (archOf t c).h n)).cns = (x.cns + o.cnt.toNat) % (2 * x.size) % 8192 ∧
      (handleOf (tget 0 (archOf t c).h n)).prd = x.prd ∧
      tells t false ((x.cns + o.cnt.toNat) % (2 * x.size)) .load) ∧
  (o.cnt.toNat ≤ 3 → (o.cnt = 3 → q ≤ if isRoot c then 3 else 0) → ∃ t, exec (.hqry h o) s = .next t ∧ frame t ∧ t.net = s.net ∧
    (o.cnt = 0 → (archOf t c).hqv = tget 0 (archOf s c).h n) ∧
    (o.cnt = 1 → (archOf t c).hqv.toNat = x.free * 65536 + x.filled) ∧
    (o.cnt = 2 → y.ents.length < 256 → y.ring = none →
      (archOf t c).hqv.toNat = (if y.qov then 2 ^ 32 else 0) + y.ents.length) ∧
    (∀ r, o.cnt = 2 → y.ents.length < 256 → y.ring = some r → r.ents.length < 2 ^ 24 →
      (archOf t c).hqv.toNat = (if y.qov then 2 ^ 32 else 0) + 256 * r.ents.length + y.ents.length) ∧
    (o.cnt = 3 → (archOf t c).hqv.toNat = 8 - vertUsed s (vertTarget c q))) ∧
  (w.toNat < 8 → (w.getLsbD 1 = true → q ≠ 7 ∧ y.ring.isSome = true) → (w.getLsbD 1 = false → ringFull y = false) →
    ∃ t, exec (.qcfg h o) s = .next t ∧ frame t ∧ (archOf t c).queue q = { y with cfg := w.setWidth 3 } ∧
      ∀ q', q' ≠ q → (archOf t c).queue q' = (archOf s c).queue q') ∧
  (∀ pa, w.extractLsb' 0 6 = 0 → Reaches s askStore w pa → 0 < (rs s o.sx).toNat → (rs s o.sx).toNat ≤ o.cnt.toNat →
    ringFull y = false →
    ∃ t, exec (.qspl h o) s = .next t ∧ frame t ∧ (archOf t c).queue q =
      { y with ring := some { base := pa, size := o.cnt.toNat, quota := (rs s o.sx).toNat, head := 0, ents := [] } })

/-- R163, R164, R167, R168, R172: a command of the array whose port and latch are free, whose start token is there when it
starts the array, whose staging words are in range and whose rows are planned without a trap is accepted: the current set
becomes the shadow set, the command enters the array with what it captured, and a start uses its token. It waits in the engine for
those of its rows whose banks the core does not own, and behind what the command before it waits for (log 43).
R50 to R52, R173 to R178: the row stage of row `i` of the array's one command, which is the row due. `mlw` writes a latch row from
its source rows, FP32 and FP16 elements rounded to BF16, and with its first row the tag and the group size (its format is that of its
first row's bank, log 49); `mscl` writes a scale row. A pass sums the A row's elements with the latch's elements lane by lane into its
accumulator row and raises the flags of all lanes; when they raise an enabled exception the accumulator row stands and the
FP trap is pending. The source of an `mcop` also sends its row to the other cores of its copse, and a receiver takes the row it
buffers, or has a format error. `mst` encodes an accumulator row into the slice rows of its range, each in the format of its bank,
and zeroes it when it is to. A command with a format error writes nothing. -/
def Obligations.MatrixCommandsAreAccepted : Prop := (∀ (h : Slot) (o : EnF) (s : State), slotOn s h = true →
  s.iss.rp = false →
  let c := s.focus.core
  let a := archOf s c
  let q := a.main.pipe
  ∀ x ∈ [(Instr.mlw h o, MxOp.mlw, (1 : BitVec 8)), (.mma h o, .mma, 2), (.mmar h o, .mmar, 3), (.mzr h o, .mzr, 4),
      (.mst h o, .mst, 5), (.mscl h o, .mscl, 6), (.mcop h o, .mcop, 8)],
    ∀ y, mxReady q x.2.1 o.wl.toNat = true → q.nest = none → (starts q x.2.1 = true → a.tok.stGot = true) →
      mxBad x.2.1 (shWord s c 0) false (x.2.1 == .mcop && c % 4 != (o.prm.extractLsb' 5 2).toNat) = false →
      planMx s h c (mxBase s h o x.2.1 x.2.2 c) (mxAsk x.2.1 o (shWord s c 0) (rs s o.sa) 0) = .ok y →
      ∃ t b, exec x.1 s = .next t ∧ (∀ r, r ∈ b ↔ ∃ n ∈ y.own, r = sliceRow s.pkg c n ∧ ownsBank s c r = false) ∧
        (archOf t c).main.pipe.mx = q.mx ++ [{ y.c with bank := b, wait := (q.mx.getLast?.map (fun z => z.lag + z.wait)).getD 0 }] ∧
        y.c.op = x.2.1 ∧ y.c.opc = x.2.2 ∧ y.c.cf = o.cf ∧ y.c.age = 0 ∧ y.c.wl = o.wl.toNat ∧
        (x.2.1 ≠ .mscl → y.c.rows = (o.prm.extractLsb' 7 7).toNat + 1) ∧
        (x.2.1 ≠ .mcop → y.c.d = if mergedNow s s.focus then 10 else 18) ∧
        (x.2.1 = .mcop → y.c.d = if mergedNow s s.focus then 13 else 22) ∧
        tget [] (archOf t c).cur 0 = tget [] a.shd 0 ∧ tget 0 (archOf t c).nacc 0 = tget 0 a.nacc 0 + 1 ∧
        (starts q x.2.1 = true → (archOf t c).tok.stGot = false) ∧ (archOf t c).acc = a.acc ∧ (archOf t c).w = a.w ∧
        SameOutside s t ∧ SameCores s t c) ∧
  (∀ (c : Nat) (x : MxCmd) (i : Nat) (s : State),
  let k : Sid := ⟨c, false⟩
  let m := (strmOf s k).mark
  let pkg := s.pkg
  let reg := fun (r : Nat) => tget 0 x.fmts (r / 2048)
  let row := x.a + i * x.apt
  let w := tget WLatch.idle (archOf s c).w x.wl
  let f := w.fmt.toNat
  let n := if x.op = .mmar then 4 else (passForm f).2
  let old := accRow s c x.ac (x.ar + i)
  let ran := fun (t : State) => exec (.rowStage c) s = .next t ∧ (strmOf t k).cyc = (strmOf s k).cyc.drop 1
  let sameAcc := fun (t : State) => ∀ a r, ¬(a = x.ac ∧ r = x.ar + i) → accRow t c a r = accRow s c a r
  let sameW := fun (t : State) => ∀ l, l ≠ x.wl → tget WLatch.idle (archOf t c).w l = tget WLatch.idle (archOf s c).w l
  let pass := fun (raw : Nat) (hd : List Nat) =>
    let wd := if f = 2 then 16 else bW f
    let av := (List.range 128).map (fun j => fld raw (j * wd) wd)
    let col := fun (l : Nat) => (List.range 128).map (fun j => fld (tget 0 w.rows j).toNat (l * wd) wd)
    let acc := fun (l : Nat) => fld old.bits.toNat (32 * l) 32
    let lane := fun (l : Nat) =>
      if x.op = .mmar then passF x.fz (av.zip ((List.range 128).map (fun j => fld (tget 0 w.rows l).toNat (j * 16) 16))) (acc l)
      else if f = 2 then passF x.fz (av.zip (col l)) (acc l)
      else if isGq f then passG x.fz wd (32 * 2 ^ w.gs.toNat) (fun g => hd.getD g 0)
        (fun g => fld (tget 0 w.scales ((g * 128 + l) / 16)).toNat (32 * (l % 16)) 32) (av.zip (col l)) (acc l)
      else passI wd (av.zip (col l)) (acc l)
    let fl := (List.range 128).foldl (fun z l => z ||| (lane l).2) 0
    ∃ t, ran t ∧ t.mem = s.mem ∧ (archOf t c).w = (archOf s c).w ∧ sameAcc t ∧
      (archOf t c).fpc = (archOf s c).fpc ||| flagsInFpc fl ∧
      (raisesTrap fl x.en = false → (accRow t c x.ac (x.ar + i)).int = (f = 4 || f = 5) ∧
        ∀ l < 128, fld (accRow t c x.ac (x.ar + i)).bits.toNat (32 * l) 32 = (lane l).1 % 2 ^ 32) ∧
      (raisesTrap fl x.en = true → accRow t c x.ac (x.ar + i) = old ∧ ((strmOf s k).pend = [] →
        (strmOf t k).pend = [(BitVec.ofNat 64 (11 + x.slot.toNat * 2 ^ 8 + i * 2 ^ 16), x.pc, 0)]))
  (strmOf s k).cyc.head? = some .rows → (strmOf s k).pipe.mx = [x] → (strmOf s k).pipe.tx = [] → dueRows x = [i] →
  (x.ferr = true → x.op ≠ .mcop → ∃ t, ran t ∧ t.mem = s.mem ∧ (archOf t c).acc = (archOf s c).acc ∧
    (archOf t c).w = (archOf s c).w) ∧
  (x.op = .mcop → c % 4 = x.src → aRowBad s c m x.fmts row (if x.ferr then bankParts (rFmt (reg row)) else n) = none →
    ∃ t, ran t ∧ ∀ z ∈ copsemates c, ∃ y, (archOf t z).bcast = (archOf s z).bcast ++ [y] ∧ y.src = x.src ∧ y.row = i ∧
      y.count = x.rows ∧
      y.parts = (List.range (bankParts (rFmt (reg row)))).map (fun j => arrRow s c m (sliceRow pkg c (row + j)))) ∧
  (x.op = .mcop → c % 4 ≠ x.src → ∀ y, (archOf s c).bcast.find? (fun z => z.src == x.src) = some y →
    let ok := y.atGrp = true ∧ ∀ g ∈ y.regs, pairs w g = true
    (∃ t, ran t ∧ (archOf t c).bcast = dropCast x.src (archOf s c).bcast) ∧
    (x.ferr = false → ok → pass (joinN 512 (y.parts.map (·.toNat))) y.hdrs) ∧
    (x.ferr = true ∨ ¬ok → ∃ t z, ran t ∧ (archOf t c).acc = (archOf s c).acc ∧ (strmOf t k).pipe.mx = [z] ∧ z.ferr = true)) ∧
  (x.ferr = false →
    (x.op = .mma ∨ x.op = .mmar ∨ (x.op = .mcop ∧ c % 4 = x.src) → aRowBad s c m x.fmts row n = none →
      pass (arrRows s c m row n) (rowHdrs s c m x row)) ∧
    (x.op = .mlw →
      let fm := rFmt (reg x.a)
      let g := mlwForm fm
      let p := g.2.1 / 64
      let raw := arrRows s c m (x.a + i * p) p
      let wd := if g.1 = 2 then 16 else bW g.1
      arrBad s c m (x.a + i * p) p = none → ∃ t, ran t ∧ t.mem = s.mem ∧ (archOf t c).acc = (archOf s c).acc ∧ sameW t ∧
        let v := tget WLatch.idle (archOf t c).w x.wl
        (∀ j < 128, fld (tget 0 v.rows (x.ar + i)).toNat (j * wd) wd =
          if fm = 1 then (fConv fp32 bf16 0 false (fld raw (32 * j) 32)).1 % 2 ^ 16
          else if fm = 3 then (fConv fp16 bf16 0 false (fld raw (16 * j) 16)).1 % 2 ^ 16
          else fld raw (j * wd) wd) ∧
        (∀ r, r ≠ x.ar + i → tget 0 v.rows r = tget 0 w.rows r) ∧ v.scales = w.scales ∧
        (i = 0 → v.fmt.toNat = g.1 ∧ v.gs = (reg x.a).extractLsb' 8 2) ∧ (i ≠ 0 → v.fmt = w.fmt ∧ v.gs = w.gs)) ∧
    (x.op = .mscl → arrBad s c m (x.a + i) 1 = none → ∃ t, ran t ∧ t.mem = s.mem ∧ (archOf t c).acc = (archOf s c).acc ∧
      sameW t ∧
      let v := tget WLatch.idle (archOf t c).w x.wl
      v.rows = w.rows ∧ v.fmt = w.fmt ∧ v.gs = w.gs ∧
        ∀ r, tget 0 v.scales r = if r = i then arrRow s c m (sliceRow pkg c (x.a + i)) else tget 0 w.scales r) ∧
    (x.op = .mst → Inv s → s.flaws = [] → (archOf s c).reqs = [] → c < 1024 →
      let rows := drainRows reg (x.a + i * x.dpt)
      let at_ := fun (p : Nat × Nat × Nat) => sliceRow pkg c p.1
      let wd := fun (p : Nat × Nat × Nat) => bW (rFmt (reg p.1))
      hdrBad s c m x.fmts (rows.map (fun p => (p.1, p.2.2))) = none → (∀ p ∈ rows, p.1 < nRows c) →
      ∃ t, ran t ∧ (archOf t c).w = (archOf s c).w ∧ sameAcc t ∧
        accRow t c x.ac (x.ar + i) = (if x.zr then { int := false, bits := 0 } else old) ∧
        (∀ p ∈ rows, ∀ j < p.2.2,
          let v := fld old.bits.toNat (32 * (p.2.1 + j)) 32
          elem (wd p) (rowAt t (at_ p)) j = (encodeE (rFmt (reg p.1))
            (if isGq (rFmt (reg p.1)) then hdrAt s c m (reg p.1) (groupOf (reg p.1) p.1 j) else 0)
            (if old.int then .int (sgn 32 v) else .flt v)).1 % 2 ^ wd p) ∧
        ∀ a, (∀ p ∈ rows, ¬(at_ p ≤ a ∧ a < at_ p + p.2.2 * wd p / 8)) → cellAt t.mem a = cellAt s.mem a)))

/-- R180: a nest whose staging words are in range is accepted when the array's ports and its latch are free; its first pass
needs a start token, and asks for one when it has none. -/
def Obligations.NestIsAccepted : Prop := ∀ (h : Slot) (o : EnF) (s : State), slotOn s h = true →
  let c := s.focus.core
  let a := archOf s c
  let q := a.main.pipe
  let cur := tget [] a.shd 0
  q.mx = [] → q.tx = [] → q.nest = none → nestBad (shWord s c 0) = false →
  (∀ l < 6, nestAct cur l 0 = false ∧ nestAct cur l 1 = false) → a.tok = Tokens.none →
  ∃ t n, exec (.mnest h o) s = .next t ∧ (archOf t c).main.pipe.nest = some n ∧ n.slot = h ∧ n.o = o ∧
    n.idx = [0, 0, 0, 0, 0, 0] ∧ n.pos = 0 ∧ n.tail = false ∧ n.base = rs s o.sa ∧ n.set = cur ∧ tget [] (archOf t c).cur 0 = cur ∧
    (archOf t c).tok.stReq = true ∧
    (railOf c, true, c, s.hub.htck.toNat + (missedTurn s (.token (railOf c) true) c).toNat) ∈ t.hub.tokq ∧
    tget 0 (archOf t c).nacc 0 = tget 0 a.nacc 0 + 1 ∧ t.mem = s.mem ∧ (strmOf t s.focus).s = (strmOf s s.focus).s

/-- R164, R184 to R194, R301: a copy command whose staging words have no reserved bit set and whose ranges translate is accepted
while fewer than eight are outstanding: the current set becomes the shadow set, `CD` of the command is CD + s[sa] modulo
2^48, and the command enters the engine; no byte of memory and no register changes. Its ranges are those of its rows, each with
elements of the width that its own bank gives.
The one command of the engine, accepted with its accesses free to begin, with nothing to publish and its rows all in this
package and each written once, is performed: each of its writes changes the bytes of its mask, a collective addition adds, and
every other byte stands, but for the shadow record of a region that a `cpt` moves; its flag sets and its record, when it asks or
has a status, is posted. What it writes is what the next statement says. Where the second tier has no room, status 6 and no
write (whether it has is an open value, log 15). A fetched region is resident then, a dropped one dropped. (A collective
addition is logged, or waits for the log; the clause is about one that no log concerns. One step for its writes: log 53.) -/
def Obligations.CopyCommandsAreAccepted : Prop := (∀ (h : Slot) (o : EnF) (s : State), slotOn s h = true →
  let c := s.focus.core
  let a := archOf s c
  let sh := shWord s c 1
  let src := askSrc false
  let dst := askDst false
  let go := fun (i : Instr) (opc : BitVec 8) (addrs : List Nat) (cn cl cb : Bool) (l : CpCmd → List (Ask × Nat × Nat)) =>
    let x := cpBase s h o opc
    (∀ n ∈ addrs, (sh n).extractLsb' 48 16 = 0) → (cn = true → (sh 2).extractLsb' 36 28 = 0) →
    (cl = true → (sh 4).extractLsb' 32 32 = 0) → (cb = true → (sh 8).extractLsb' 36 28 = 0) →
    (∃ m, engRanges s h c (l x) = .ok m) → (x.hp = true → handleShut s c x.hn = false) →
    ∃ t, exec i s = .next t ∧ (archOf t c).cp = a.cp ++ [x] ∧ x.opc = opc ∧ x.cf = o.cf ∧ x.phase = 0 ∧
      x.adr 1 = ((sh 1).toNat + (rs s o.sa).toNat) % 2 ^ 48 ∧ tget [] (archOf t c).cur 1 = tget [] a.shd 1 ∧
      tget 0 (archOf t c).nacc 1 = tget 0 a.nacc 1 + 1 ∧ SameOutside s t ∧ SameCores s t c ∧
      strmOf t s.focus = strmOf s s.focus
  let ns := fun (x : CpCmd) => segBytes (cpSrcSegs s c x)
  let nd := fun (x : CpCmd) => segBytes (cpDstSegs s c x)
  let into := fun (x : CpCmd) (n : Nat) => cpDst s x n
  let rng := if o.prm.getLsbD 15 then [0] else [0, 1]
  a.cp.length < 8 →
  go (.cpy h o) 1 rng true false false (fun x => (src, x.adr 0, ns x) :: into x (nd x)) ∧
  go (.cpg h o) 2 (3 :: rng) true true false (fun x =>
    [(src, x.adr 0, x.cl * x.recB), (src, x.adr 3, 4 * x.cn)] ++ into x (x.cn * x.recB)) ∧
  go (.cps h o) 3 [0, 1, 3] true true false (fun x =>
    [(src, x.adr 0, x.cn * x.recB), (dst, x.adr 1, x.cl * x.recB), (src, x.adr 3, 4 * x.cn)]) ∧
  (∀ e, regionAt a ((sh 0).extractLsb' 0 48).toNat = some e → go (.cptOffload h o) 4 [0, 1] false false false (fun x =>
    [(src, x.adr 0, 2 ^ e.lsz), (dst, x.adr 1, 2 ^ e.lsz)])) ∧
  go (.cpz h o) 5 (6 :: rng) true false true (fun x =>
    [(src, x.adr 0, ((sh 8).extractLsb' 0 32).toNat), (src, x.adr 6, 256)] ++ into x (nd x)) ∧
  go (.coll h o) 6 [0, 1] true false true (fun x => [(src, x.adr 0, ns x), (dst, x.adr 1, nd x)]) ∧
  go (.pub h o) 7 [1] true false false (fun x => [(dst, x.adr 1, x.cn * 64)]) ∧
  go (.cpf h o) 8 [1] true false false (fun x => [(dst, x.adr 1, nd x)]) ∧
  go (.cpc h o) 9 [0, 1, 5, 9] true false false (fun x =>
    [(src, x.adr 0, ns x), (dst, x.adr 1, nd x),
     ({ askSrc true with wr := true }, x.adr 5, 4 * x.cn), (src, x.adr 9, 4 * cdiv x.cn x.grp)])) ∧
  (∀ (c : Nat) (x : CpCmd) (s : State),
  let k : Sid := ⟨c, false⟩
  let a := archOf s c
  let out := cpOut s c x
  let full := toTier s x c out && !Config.tierRoom s.fresh
  let sts := if full then 6 else out.sts
  let n := nodeIds s c
  let moves := fun (tk : Task) (e : TEntry) => x.opc = 4 ∧ a.task = some tk ∧
    ∃ i, lookupE x.tab (if x.prm.getLsbD 10 then x.adr 1 else x.adr 0) = some (i, e)
  let recAt := fun (b : Nat) => ∃ tk e, moves tk e ∧ b = canon ((ctxOf s tk.ctx).shtb.toNat + 32 * e.reg + 4)
  Inv s → s.flaws = [] → a.cp = [x] → x.phase = 0 → x.hp = false → x.pub = none → x.flip = false →
  pubEnts s c { x with sts := BitVec.ofNat 4 sts } = [] → cpReady s c x out = true → cpMissing s c x = [] →
  cpBad s c x out = none → (∀ w ∈ out.l, paPkg w.pa = s.pkg.toNat ∧ w.grp = 0) →
  (out.l.map (fun w => canon (rowBase w.pa))).Nodup →
  ((∀ w ∈ out.l, w.add = 0) ∨ ((ctxOf s n.1).logm = 0 ∧ (ctxOf s n.1).held = [] ∧ ownRange s n.1 n.2 = none)) →
  ∃ t, exec (.engineCompletion c 1) s = .next t ∧ (archOf t c).cp = [] ∧ (strmOf t k).flag x.cf = true ∧
    (strmOf t k).s = (strmOf s k).s ∧
    (x.ce = false → sts = 0 → (archOf t c).evq = a.evq) ∧
    (x.ce = true ∨ sts ≠ 0 → a.evq.length < 32 → ∃ r, (archOf t c).evq = a.evq ++ [r] ∧ r.hdr.extractLsb' 48 8 = 1 ∧
      r.hdr.extractLsb' 0 32 = BitVec.ofNat 32 x.num ∧ r.pay.extractLsb' 62 2 = 1 ∧ r.pay.extractLsb' 54 8 = x.opc ∧
      r.pay.extractLsb' 50 4 = BitVec.ofNat 4 sts) ∧
    (full = false → ∀ w ∈ out.l, ∀ b < 64,
      let i := canon (rowBase w.pa) + b
      let d := if w.add = 0 then w.data else addRow w.add (rowAt s w.pa) w.data
      ¬recAt i → cellAt t.mem i = if w.mask.getLsbD b then d.extractLsb' (8 * b) 8 else cellAt s.mem i) ∧
    (∀ i, ¬recAt i → full = true ∨ (∀ w ∈ out.l, i / 64 * 64 ≠ canon (rowBase w.pa)) → cellAt t.mem i = cellAt s.mem i) ∧
    ∀ tk e, moves tk e → ∀ y ∈ (archOf t c).tab, y.2.reg = e.reg →
      (x.prm.getLsbD 10 = true → y.2.res = 0) ∧ (x.prm.getLsbD 10 = false → x.prm.getLsbD 9 = true → sts = 0 → y.2.res = 3))

/-- R190, R296, R297: a fetch from the second tier is accepted like the other copies, and its region is moving from then on in
the core's table; its destination meets residency and permissions as any access does.
R46 to R49, R187, R188, R190 to R193: the writes that a copy command comes to in this package, and its status. An ECW bank as an
end is a format error. `cpy` and `coll` move each element to its place in the destination, its bits unchanged between equal
formats or to and from RAW, else decoded and encoded under the headers of its groups; an adding `coll` sends the decoded
elements as FP32 or S32; `cpf` fills; `cpg` and `cps` move records by the index list, a gather writing zeros for a skipped one; `cpt`
moves a region's rows; `cpz` writes the decoded symbols, on an error the whole rows before it; `cpc` writes the residual and
the quantised gradients: raw with their headers into GQ8 of its group size, else decoded, or added as FP32. (Elements of RAW ends
and the formats of rows: log 49; the rows of a range that no entry maps: log 13; the rounding of an S32 sum: log 46.) -/
def Obligations.FetchMakesItsRegionMove : Prop := (∀ (h : Slot) (o : EnF) (s : State) (i : Nat) (e : TEntry) (k : Task),
  slotOn s h = true →
  let c := s.focus.core
  let a := archOf s c
  let x := cpBase s h o 4
  let l := [(askSrc false, x.adr 0, 2 ^ e.lsz), (askDst false, x.adr 1, 1)]
  a.cp.length < 8 → a.task = some k → (shWord s c 1 0).extractLsb' 48 16 = 0 → (shWord s c 1 1).extractLsb' 48 16 = 0 →
  lookupE a.tab (x.adr 1) = some (i, e) →
  (∀ z, rangesFault s c l = some z → exec (.cptFetch h o) s = .next (takeTrap s s.focus (mkTrap s h z.1 4 z.2 0))) ∧
  ((∃ m, engRanges s h c l = .ok m) → (x.hp = true → handleShut s c x.hn = false) →
   ∃ t, exec (.cptFetch h o) s = .next t ∧ (archOf t c).cp = a.cp ++ [x] ∧ strmOf t s.focus = strmOf s s.focus ∧
    (∀ n ∈ (archOf t c).tab, n.2.reg = e.reg → n.2.res = 2) ∧ tget [] (archOf t c).cur 1 = tget [] a.shd 1)) ∧
  (∀ (c : Nat) (x : CpCmd) (s : State),
  let out := cpOut s c x
  let src := cpSrcSegs s c x
  let dst := cpDstSegs s c x
  let fd := fun (g : CpSeg) => rFmt g.e.reg
  let plain := namesEcw s c x = false ∧ anyEcw src = false ∧ anyEcw dst = false
  let scaled := fun (l m : List CpSeg) => ∀ g ∈ l, g.converts m = true → g.scaled = true
  let add := (x.prm.extractLsb' 9 2).toNat
  let k := x.recB / 64
  let row := fun (i : Nat) => cpDstRow s c x (x.adr 1 / 64 * 64) i
  let y := fun (i : Nat) => cpIndex s c x i
  let all : BitVec 64 := BitVec.allOnes 64
  (x.opc ∈ [(1 : BitVec 8), 2, 3, 4, 6, 9] → namesEcw s c x = true → out.sts = 1 ∧ out.l = []) ∧
  (x.opc = 1 ∨ (x.opc = 6 ∧ add = 0) → plain → scaled src dst → scaled dst src →
    (x.opc = 1 → ∀ g ∈ src ++ dst, g.n * g.w = 512) → out.sts = 0 ∧ FillsRows out.l dst 0 (fun g j v =>
      ∀ f b h, SourceElem s c x (g.lo + j) f b h → v = movedBits f b h (fd g) (cpHdr s x g.e j) % 2 ^ g.w)) ∧
  (x.opc = 6 → add ≠ 0 → plain → (∀ g ∈ src, g.scaled = true) → out.sts = 0 ∧ FillsRows out.l dst add (fun g j v =>
      ∀ f b h, SourceElem s c x (g.lo + j) f b h →
        v = (if add = 1 then workF (decodeE f b h).1 else (workI (decodeE f b h).1).1) % 2 ^ g.w)) ∧
  (x.opc = 8 → rFmt (cpDstEnd s c x).reg ≠ 8 → anyEcw dst = false → (∀ g ∈ dst, g.scaled = true) →
    out.sts = 0 ∧ FillsRows out.l dst 0 (fun g j v =>
      v = (if fd g = 0 then (x.word 7).toNat else (encodeE (fd g) (cpHdr s x g.e j) (.flt ((x.word 7).toNat % 2 ^ 32))).1) % 2 ^ g.w)) ∧
  (x.opc = 2 → out.sts ≠ 1 → (out.sts = 2 ↔ ∃ i < x.cn, x.cl ≤ y i) ∧
    out.l.map (·.pa) = (List.range x.cn).flatMap (fun i => (List.range k).filterMap (fun r => row (i * k + r))) ∧
    ∀ i < x.cn, ∀ r < k, ∀ pa, row (i * k + r) = some pa → ∃ w ∈ out.l, w.pa = pa ∧ w.mask = all ∧ w.add = 0 ∧
      (x.cl ≤ y i → w.data = 0) ∧ (y i < x.cl → RecordRow s c x (x.adr 0 / 64 * 64 + y i * x.recB + 64 * r) pa w.data)) ∧
  (x.opc = 3 → out.sts ≠ 1 → (out.sts = 2 ↔ ∃ i < x.cn, x.cl ≤ y i) ∧
    out.l.map (·.pa) = (List.range x.cn).flatMap (fun i =>
      if x.cl ≤ y i then [] else (List.range k).filterMap (fun r => row (y i * k + r))) ∧
    ∀ i < x.cn, y i < x.cl → ∀ r < k, ∀ pa, row (y i * k + r) = some pa → ∃ w ∈ out.l, w.pa = pa ∧ w.mask = all ∧ w.add = 0 ∧
      RecordRow s c x (x.adr 0 / 64 * 64 + i * x.recB + 64 * r) pa w.data) ∧
  (x.opc = 4 → let z := cptSpan x
    out.sts ≠ 1 → out.sts = 0 ∧ ∀ i < z.2.2 / 64, ∀ pa, cpPa c x true (z.2.1 + 64 * i) = some pa →
      ∃ w ∈ out.l, w.pa = rowBase pa ∧ w.data = cpRow s c x (z.1 + 64 * i) ∧ w.mask = all ∧ w.add = 0) ∧
  (x.opc = 5 → out.sts ≠ 1 →
    let tab := codeTable ((List.range 256).map (fun i => cpByte s c x (x.adr 6 + i)))
    (tab = none → out.sts = 4 ∧ out.l = []) ∧
    ∀ l, tab = some l →
      let z := cpzBytes s c x l (8 * ((x.word 8).extractLsb' 0 32).toNat) 0 (cdiv (x.cn * x.symW) 8)
      out.sts = (if z.2 then 0 else 3) ∧
      FillsRows out.l (if z.2 then dst else dst.filter (fun g => decide ((g.lo + g.n) * x.symW ≤ 8 * z.1.length))) 0 (fun g j v =>
        v = movedBits x.sym (fld (joinN 8 z.1) ((g.lo + j) * x.symW) x.symW) 0 (fd g) (cpHdr s x g.e j) % 2 ^ g.w)) ∧
  (x.opc = 9 → plain → (∀ g ∈ src ++ dst, g.scaled = true) → paPkg (cpDstEnd s c x).pa = s.pkg.toNat →
    let ad := x.prm.getLsbD 8
    let hdr := fun (j : Nat) => fld (cpRow s c x (x.adr 9 / 64 * 64 + 64 * (j / x.grp / 16))).toNat (32 * (j / x.grp % 16)) 32
    let res := fun (j : Nat) => elem 32 (cpRow s c x (x.adr 5 / 64 * 64 + 64 * (j / 16))) (j % 16)
    (ad = true → ∀ g ∈ dst, fd g = 1) → out.sts = 0 ∧ ∀ j < x.cn, ∀ f b h, SourceElem s c x j f b h →
      let v := (fAdd fp32 0 false (workF (decodeE f b h).1) (res j)).1
      let q := (encQ 8 (hdr j) (.flt v)).1
      let d := (dequant (sgn 8 q) (hdr j)).1
      (∀ pa, cpPa c x true (x.adr 5 / 64 * 64 + 64 * (j / 16)) = some pa → ∃ w ∈ out.l, w.pa = rowBase pa ∧ w.add = 0 ∧
        elem 32 w.data (j % 16) = (fAdd fp32 0 false v (Nat.xor d (2 ^ 31))).1 % 2 ^ 32) ∧
      ∀ g ∈ dst, g.gap = false → g.lo ≤ j → j < g.lo + g.n → ∃ w ∈ out.l, w.pa = g.e.pa ∧ w.add = ad.toNat ∧
        elem g.w w.data (j - g.lo) = (if ad then d else if g.takes x then q else (encodeE (fd g) (cpHdr s x g.e (j - g.lo)) (.flt d)).1) % 2 ^ g.w ∧
        (ad = false → g.takes x = true → j % x.grp = 0 → hdrWr g.e (j - g.lo) (hdr j) ∈ out.l)))

/-- R163, R164, R179, R180: an `smv` whose shape and addresses are in range, whose ranges translate, whose matrix lies in one stack
and whose handle may be produced into is accepted while fewer than four are outstanding and no nest runs. It takes its vector at
acceptance, or when the core owns its banks (log 43); an ECW bank under its vector or its handle's buffer is a format error. -/
def Obligations.StackProductIsAccepted : Prop := ∀ (h : Slot) (o : EnF) (s : State), slotOn s h = true →
  let c := s.focus.core
  let a := archOf s c
  let w := shWord s c 0
  let n := ((w 6).extractLsb' 16 16).toNat + 1
  let k := ((w 6).extractLsb' 0 16).toNat + 1
  let fmt := (o.prm.extractLsb' 15 2).toNat
  let hd := (o.prm.extractLsb' 17 4).toNat
  let g := 32 * 2 ^ (o.prm.extractLsb' 13 2).toNat
  let va := (w 0 + rs s o.sa).toNat % 2 ^ 48
  let ar := paRow ((lookPa s c (askSrc true) va).getD 0)
  let rows := (List.range (k / 32)).map (fun i => ar + i)
  let ecw := (∃ r ∈ rows, rFmt (regOf s c r) = 8) ∨ handleEcw s c hd (n / 16) = true
  a.main.pipe.nest = none → a.smv.length < 4 → badAddr (w 0) = false → badAddr (w 5) = false → (fmt ≠ 0 → badAddr (w 7) = false) →
  (w 6).extractLsb' 32 32 = 0 → n % 16 = 0 → k % 128 = 0 → rangesFault s c (smvAsks s c va w fmt g n k hd) = none →
  stackFault s c ((w 5).extractLsb' 0 48).toNat (n * k * smvBits fmt / 8) = none → handleShut s c hd = false →
  ∃ t y, exec (.smv h o) s = .next t ∧ (archOf t c).smv = a.smv ++ [y] ∧ y.n = n ∧ y.k = k ∧ y.a = ar ∧ y.cf = o.cf ∧
    y.b = (lookPa s c (askSrc false) ((w 5).extractLsb' 0 48).toNat).getD 0 ∧
    (fmt ≠ 0 → y.h = (lookPa s c (askSrc false) ((w 7).extractLsb' 0 48).toNat).getD 0) ∧
    y.hd.toNat = hd ∧ y.made = 0 ∧ y.fz = s.iss.fz ∧ (y.ferr = true ↔ ecw) ∧
    ((∀ r ∈ rows, BankFree s (sliceRow s.pkg c r)) → y.bank = [] ∧ y.vec = rows.map (fun r => arrRow s c s.ids (sliceRow s.pkg c r))) ∧
    (∀ r ∈ rows, ¬BankFree s (sliceRow s.pkg c r) → sliceRow s.pkg c r ∈ y.bank ∧ y.vec = []) ∧
    SameOutside s t ∧ SameCores s t c ∧ strmOf t s.focus = strmOf s s.focus

/-- R163, R164, R195, R196: a transpose command is accepted when its port, and for `txw` its latch, is free and its pitches cover its
rows; it holds its port for its rows and completes 12 (merged 6) cycles after them, and waits in the engine for those of its rows
whose banks the core does not own (log 43; a `txw` has the format of its first row's bank, log 49). In each counted cycle
from the first it reads a source row; in its last the elements stand transposed in the destination rows of `txp`, whose other
bytes stand, or in the rows of the latch of `txw`, whose tag is set, and its flag sets. -/
def Obligations.TransposeCommandsAreAccepted : Prop := (∀ (h : Slot) (o : EnF) (s : State), slotOn s h = true →
  let c := s.focus.core
  let a := archOf s c
  let q := a.main.pipe
  let w := shWord s c 2
  let sp := ((w 2).extractLsb' 0 13).toNat
  let dp := ((w 2).extractLsb' 16 13).toNat
  let nr := (o.prm.extractLsb' 14 7).toNat + 1
  let nc := (o.prm.extractLsb' 7 7).toNat + 1
  let eb := 2 ^ (o.prm.extractLsb' 5 2).toNat
  let l := if mergedNow s s.focus then 6 else 12
  let frame := fun (t : State) => SameOutside s t ∧ SameCores s t c ∧ (archOf t c).w = a.w ∧
    tget [] (archOf t c).cur 2 = tget [] a.shd 2 ∧ tget 0 (archOf t c).nacc 2 = tget 0 a.nacc 2 + 1
  let waits := fun (x : TxCmd) (rows : Nat → Prop) =>
    ∀ r, r ∈ x.bank ↔ ∃ n, rows n ∧ r = sliceRow s.pkg c n ∧ ownsBank s c r = false
  (w 2).extractLsb' 29 35 = 0 → (w 2).extractLsb' 13 3 = 0 → badAddr (w 0) = false → sp ≠ 0 → txBusy q = false →
  (∀ ra la rb lb, badAddr (w 1) = false → dp ≠ 0 → nc * eb ≤ sp * 64 → nr * eb ≤ dp * 64 →
    mxRange s h c (askSrc true) ((w 0).extractLsb' 0 48).toNat ((nr - 1) * sp * 64 + nc * eb) = .ok (ra, la) →
    mxRange s h c (askDst true) ((w 1 + rs s o.sa).extractLsb' 0 48).toNat ((nc - 1) * dp * 64 + nr * eb) = .ok (rb, lb) →
    ∃ t x, exec (.txp h o) s = .next t ∧ (archOf t c).main.pipe.tx = q.tx ++ [x] ∧ x.txw = false ∧ x.cf = o.cf ∧ x.src = ra ∧
      x.dst = rb ∧ x.sp = sp ∧ x.dp = dp ∧ x.nr = nr ∧ x.nc = nc ∧ x.ew = 8 * eb ∧ x.busy = nr ∧ x.done = nr + l ∧ frame t ∧
      waits x (fun n => (∃ i < nr, ∃ j < cdiv (nc * eb) 64, n = ra + i * sp + j) ∨
        ∃ i < nc, ∃ j < cdiv (nr * eb) 64, n = rb + i * dp + j)) ∧
  (∀ i e pa r z, latchWr q o.wl.toNat = false → latchRd q o.wl.toNat = false → nestLatch q o.wl.toNat = false →
    access s c (askSrc true) (BitVec.ofNat 64 ((w 0 + rs s o.sa).extractLsb' 0 48).toNat) = .ok (i, e, pa) →
    let nb := ((txwForm (rFmt (regOf s c (paRow pa)))).getD (0, 64)).2
    mxRange s h c (askSrc true) ((w 0 + rs s o.sa).extractLsb' 0 48).toNat (127 * sp * 64 + nb) = .ok (r, z) →
    ∃ t x, exec (.txw h o) s = .next t ∧ (archOf t c).main.pipe.tx = q.tx ++ [x] ∧ x.txw = true ∧ x.cf = o.cf ∧ x.src = r ∧
      x.wl = o.wl.toNat ∧ x.ew = nb / 16 ∧ x.busy = 128 ∧ x.done = 128 + l ∧ frame t ∧
      waits x (fun n => ∃ i < 128, ∃ j < nb / 64, n = r + i * sp + j))) ∧
  (∀ (c : Nat) (x : TxCmd) (s : State),
  let k : Sid := ⟨c, false⟩
  let a := archOf s c
  let m := (strmOf s k).mark
  let ends := fun (t : State) => exec (.engineCompletion c 2) s = .next t ∧ (strmOf t k).cyc = (strmOf s k).cyc.drop 1 ∧
    (strmOf t k).pipe.tx = [] ∧ (strmOf t k).flag x.cf = true ∧ (archOf t c).acc = a.acc
  let el := fun (i j : Nat) => fld (x.buf.getD i 0).toNat (j * x.ew) x.ew
  (strmOf s k).pipe.tx = [x] → x.ferr = false →
  (let row := x.src + (x.age - 1) * x.sp
   let n := cdiv (x.nc * x.ew) 512
   (strmOf s k).cyc.head? = some .rows → (strmOf s k).pipe.mx = [] → 0 < x.age → x.age ≤ x.nr → arrBad s c m row n = none →
    ∃ t, exec (.rowStage c) s = .next t ∧ (strmOf t k).cyc = (strmOf s k).cyc.drop 1 ∧ t.mem = s.mem ∧
      (strmOf t k).pipe.tx = [{ x with buf := x.buf ++ [BitVec.ofNat 4096 (arrRows s c m row n)] }] ∧
      (archOf t c).w = a.w ∧ (archOf t c).acc = a.acc) ∧
  ((strmOf s k).cyc.head? = some .txEnds → x.age = x.done →
    (x.txw = false → Inv s → s.flaws = [] → a.reqs = [] → c < 1024 → x.ew ∈ [8, 16, 32] → 0 < x.dp → x.nr * x.ew ≤ x.dp * 512 →
      x.dst + (x.nc - 1) * x.dp + cdiv (x.nr * x.ew) 512 ≤ nRows c →
      ∃ t, ends t ∧ (archOf t c).w = a.w ∧
        (∀ j < x.nc, ∀ i < x.nr,
          elem x.ew (rowAt t (sliceRow s.pkg c (x.dst + j * x.dp + i * x.ew / 512))) (i % (512 / x.ew)) = el i j) ∧
        ∀ b, (∀ j < x.nc, let z := sliceRow s.pkg c (x.dst + j * x.dp); ¬(z ≤ b ∧ b < z + x.nr * x.ew / 8)) →
          cellAt t.mem b = cellAt s.mem b) ∧
    (x.txw = true → x.ew ∈ [4, 8, 16] → ∃ t, ends t ∧ t.mem = s.mem ∧
      (∀ l, l ≠ x.wl → tget WLatch.idle (archOf t c).w l = tget WLatch.idle a.w l) ∧
      let v := tget WLatch.idle (archOf t c).w x.wl
      v.fmt = (if x.ew = 16 then 2 else if x.ew = 8 then 4 else 5) ∧
      ∀ r < 128, ∀ n < 128, fld (tget 0 v.rows r).toNat (n * x.ew) x.ew = el n r)))

/-- R204, R264, R276, R384, R450: a `launch` of an aligned record in the own slice, with the stream's earlier accesses performed,
its earlier bundles compared (log 37), its turn in the hub tick and room in the intake, lands a ticket: the number of the new
node, waiting or ready, or the refusal code of its check. In a context that is being torn down it is discarded and counted. -/
def Obligations.LaunchLandsATicket : Prop := ∀ (h : Slot) (o : SmF) (s : State) (pa pb : Nat), slotOn s h = true →
  let c := s.focus.core
  let ctx := (nodeIds s c).1
  let va := rs s o.sa
  let r : BitVec 1024 := arrRow s c s.ids (pa + 64) ++ arrRow s c s.ids pa
  Reaches s (askSrc true) va pa → Reaches s (askSrc true) (va + 127) pb → va.extractLsb' 0 6 = 0 →
  ((ctxOf s ctx).state = 2 → ∃ t, exec (.launch h o) s = .next t ∧ t.cores = s.cores ∧ t.mem = s.mem ∧
    ctxOf t ctx = { ctxOf s ctx with tddev := (ctxOf s ctx).tddev + 1 }) ∧
  ((ctxOf s ctx).state = 1 → allDone s s.focus = true → missedTurn s (.intake ctx) c = false → (ctxOf s ctx).intake < 64 →
   (coreOf s c).roll = [] →
  (recWhy s ctx r ≠ 0 → ∃ t x, exec (.launch h o) s = .next t ∧ NewOp s t x ∧ x.dst = (if o.sd = 0 then .none else .s o.sd.toNat) ∧
    x.val = BitVec.ofNat 512 (recWhy s ctx r * 2 ^ 32) ∧ x.rem = inFlight 1 ∧
    t.hub = { s.hub with turns := s.hub.turns ++ [(.intake ctx, c)] } ∧ t.mem = s.mem) ∧
  (recWhy s ctx r = 0 → (ctxOf s ctx).next + 1 < 2 ^ 32 → ∃ t x n, exec (.launch h o) s = .next t ∧ NewOp s t x ∧
    x.dst = (if o.sd = 0 then .none else .s o.sd.toNat) ∧ x.rem = inFlight 1 ∧
    x.val = BitVec.ofNat 512 (2 ^ 63 + ((ctxOf s ctx).next + 1)) ∧
    nodeOf t ctx ((ctxOf s ctx).next + 1) = some n ∧ n.record = r ∧ n.src = .core c s.focus.side ∧
    (n.st = .waiting ∨ n.st = .ready) ∧ (ctxOf t ctx).next = (ctxOf s ctx).next + 1 ∧
    (ctxOf t ctx).intake = (ctxOf s ctx).intake + 1 ∧ t.mem = s.mem))

/-- R17, R24, R26, R28, R41, R57, R163, R165, R167, R177, R180, R181, R223, R227, R278: the parts of a counted cycle of a main
stream. At the boundary before it a landing writes its destination, whatever it is, when its data has come and is late when
not, and then the results due are written with their latches and raise their flags: none of the landings does. In it the rows of
an `mzr` are zeroed; the results of latency 1 are written, and hide from an earlier-issued operation that is due at the
coming boundary the bits of the latch that they share; a command of the array completes with its flag and record, and each other is
one cycle on, or stands where its rows lie in banks that the launch does not own, and those behind it with it; the regulator
steps every fourth cycle. A result that raises an enabled exception is not written, and its FP trap is pending. A repeat or a nest
issues its next command, which waits in the engine for the banks it does not own. (That the parts of a cycle are steps of their
own is log 22, the waits in the engine log 43, that each iteration of a repeat carries the flag log 45, the steps of a nest
log 42.) -/
def Obligations.CountedCycleParts : Prop := ∀ (c : Nat) (s : State),
  let k : Sid := ⟨c, false⟩
  let x := strmOf s k
  let a := archOf s c
  let p := atBoundary s k
  let stands := fun (e : CycPart) => x.cyc.head? = some e
  let on := fun (t : State) => (strmOf t k).cyc = x.cyc.drop 1 ∧ t.mem = s.mem ∧ t.hub = s.hub ∧ SameCores s t c
  let free := mayAct s k = true ∧ boundary s k = none ∧ x.contd = none ∧ x.resto = false
  let due := fun (y : Flight) => atBound s k = true ∧ boundary s k = none ∧ x.pipe.ops = [y] ∧ y.rem = 1 ∧ y.fpx = false
  let kept := fun (t : State) => t.mem = s.mem ∧ t.hub = s.hub ∧ SameCores s t c
  let raises := fun (t : State) (y : Flight) => (archOf t c).fpc = a.fpc ||| flagsInFpc y.flags
  let enters := fun (t : State) (y : MxCmd) (own : List Nat) => ∃ b,
    (∀ r, r ∈ b ↔ ∃ n ∈ own, r = sliceRow s.pkg c n ∧ ownsBank s c r = false) ∧
    (strmOf t k).pipe.mx = x.pipe.mx ++ [{ y with bank := b, wait := (x.pipe.mx.getLast?.map (fun z => z.lag + z.wait)).getD 0 }]
  let waiting := fun (y : MxCmd) => y.age = 0 ∧ y.wait = 0 ∧ ∃ r ∈ y.bank, ownsBank s c r = false
  (∀ y, due y → y.landing = true → y.bad = none →
    ∃ t, exec (.landing c) s = .next t ∧ kept t ∧ (archOf t c).fpc = a.fpc ∧
      (y.got = true → (strmOf t k).pipe.ops = [] ∧ Written s t k y) ∧
      (y.got = false → Unwritten s t k ∧ ∃ z, (strmOf t k).pipe.ops = [z] ∧ z.late = true)) ∧
  (∀ y, due y → y.landing = false → atPart s c .writes = none →
    ∃ t, exec (.writeBack c) s = .next t ∧ kept t ∧ raises t y ∧ (strmOf t k).raised = x.raised ||| flagsInFpc y.flags ∧
      (raisesTrap y.flags y.en = false → (strmOf t k).pipe.ops = [] ∧ Written s t k y) ∧
      (raisesTrap y.flags y.en = true → Unwritten s t k ∧ (strmOf t k).pipe.ops = [{ y with fpx := true }] ∧
        (x.pend = [] → (strmOf t k).pend = [(BitVec.ofNat 64 (11 + y.slot.toNat * 2 ^ 8), y.pc, 0)]))) ∧
  (∀ y l, stands .writes → x.pipe.ops = l ++ [y] → y.landing = false → y.fpx = false → y.rem = 0 →
    raisesTrap y.flags y.en = false → (∀ z ∈ l, z.rem ≠ 0) →
    ∃ t l', exec (.writeBack c) s = .next t ∧ on t ∧ raises t y ∧ Written s t k y ∧ (strmOf t k).pipe.ops = l' ∧
      l'.length = l.length ∧ ∀ (i : Nat) z, l[i]? = some z → ∃ z', l'[i]? = some z' ∧
        (y.latch = .none → z' = z) ∧ ∀ e n g m, y.dst = .v e n → z.dst = .v g m →
          z' = if y.latch ≠ .none ∧ z.latch = y.latch ∧ z.rem = 1 ∧ e = g then { z with hid := z.hid ||| y.mask } else z) ∧
  (∀ y, stands .rows → x.pipe.mx = [y] → x.pipe.tx = [] → y.op = .mzr → y.ferr = false →
    ∃ t, exec (.rowStage c) s = .next t ∧ on t ∧ ∀ n r, accRow t c n r =
      if n = y.ac ∧ ∃ i ∈ dueRows y, r = y.ar + i then { int := false, bits := 0 } else accRow s c n r) ∧
  (∀ y, stands .ends → x.pipe.mx = [y] → x.pipe.nest = none → mxEnds y = true → y.sub = false → a.evq.length < 32 →
    ∃ t, exec (.engineCompletion c 0) s = .next t ∧ on t ∧ (strmOf t k).pipe.mx = [] ∧ (strmOf t k).flag y.cf = true ∧
      (y.ce = false → y.ferr = false → (archOf t c).evq = a.evq) ∧
      (y.ce = true ∨ y.ferr = true → ∃ r, (archOf t c).evq = a.evq ++ [r] ∧ r.hdr.extractLsb' 48 8 = 1 ∧
        r.hdr.extractLsb' 0 32 = BitVec.ofNat 32 y.num ∧ r.pay.extractLsb' 54 8 = y.opc ∧
        r.pay.extractLsb' 50 4 = if y.ferr then 1 else 0)) ∧
  (stands .ends → x.pipe.nest = none → (∀ y ∈ x.pipe.mx, mxEnds y = false) →
    ∃ t, exec (.engineCompletion c 0) s = .next t ∧ on t ∧ (strmOf t k).f = x.f ∧ (strmOf t k).pipe.mx.length = x.pipe.mx.length ∧
      ∀ (i : Nat) y, x.pipe.mx[i]? = some y → ∃ z, (strmOf t k).pipe.mx[i]? = some z ∧
        let still := ∃ j ≤ i, ∃ u, x.pipe.mx[j]? = some u ∧ waiting u
        (still → z = { y with lag := y.lag + 1 }) ∧
        (¬still → 0 < y.wait → z = { y with lag := y.lag + 1, wait := y.wait - 1 }) ∧
        (¬still → y.wait = 0 → z = { y with age := y.age + 1, bank := [] })) ∧
  (stands .step → a.clr.on = false →
    let e := effCode (mergedPt a.clr.pt) a.clr.nom (envOf s c)
    a.regTgt = e → ∃ t, exec (.regulatorStep c) s = .next t ∧ on t ∧
      (a.regCyc < 3 → (archOf t c).vcode = a.vcode ∧ (archOf t c).regCyc = a.regCyc + 1) ∧
      (3 ≤ a.regCyc → (archOf t c).regCyc = 0 ∧
        (archOf t c).vcode = if a.vcode < e then a.vcode + 1 else if e < a.vcode then a.vcode - 1 else a.vcode)) ∧
  (∀ r y, free → x.pipe.rep = some r →
    planMx p r.slot c { mxBase p r.slot r.o (repOp r.opc) r.opc c with pc := r.pc, fz := r.fz, rm := r.rm, en := r.en }
      (mxAsk (repOp r.opc) r.o (fun n => tget 0 r.set n) r.base r.j) = .ok y →
    ∃ t, exec (.repeatIteration c) s = .next t ∧ enters t y.c y.own ∧ y.c.op = repOp r.opc ∧
      y.c.cf = r.o.cf ∧ tget 0 (archOf t c).nacc 0 = tget 0 a.nacc 0 + 1 ∧
      (strmOf t k).pipe.rep = (if r.left ≤ 1 then none else some { r with j := r.j + 1, left := r.left - 1 }) ∧
      (strmOf t k).contd = some 8 ∧ t.mem = s.mem ∧ (strmOf t k).s = x.s) ∧
  (∀ n op y, free → x.pipe.rep = none → x.pipe.nest = some n → n.tail = false →
    (nestSeq n.set (n.o.prm.getLsbD 20) n.idx)[n.pos]? = some op → mxReady x.pipe op n.o.wl.toNat = true →
    (starts x.pipe op = true → a.tok.stGot = true) →
    planMx p n.slot c { mxBase p n.slot n.o op 7 c with cf := 0, ce := false, sub := true, pc := n.pc, fz := n.fz, rm := n.rm
                                                        en := n.en } (nestAsk n.set n op) = .ok y →
    ∃ t, exec (.nestCommand c) s = .next t ∧ enters t y.c y.own ∧ y.c.op = op ∧ y.c.sub = true ∧
      (strmOf t k).pipe.nest = some (nestNext n.set n) ∧ (strmOf t k).contd = some 0 ∧ t.mem = s.mem ∧ (strmOf t k).s = x.s)

/-- R29, R189, R229, R230: a compare that agrees lets the oldest bundle's outbound work leave, one that does not brings the
registers and the popped entries back and stops the core, as does one at a bundle held for it (log 37); a token is granted to the first request; an `smv` whose vector is taken and that is the first
outstanding (of several, log 101) writes its next sixteen results at the producer pointer and moves it on, and completes with its
last; one with a format error completes with status 1 and writes nothing. Vectors whose banks the core owns by then are taken
(log 43). -/
def Obligations.CompareTokensAndProduction : Prop :=
  (∀ (c q g : Nat) (pc : BitVec 48) (old : Arch) (l : List (Nat × Nat × BitVec 48 × Arch)) (slot : BitVec 5) (s : State),
    (coreOf s c).roll = (q, g, pc, old) :: l →
    (∃ t, exec (.lockstepCompare c true slot) s = .next t ∧ (coreOf t c).roll = l ∧ t.mem = s.mem ∧
      (∀ r ∈ (archOf t c).reqs, r.side = false → r.stg ≠ some q) ∧ strmOf t ⟨c, false⟩ = strmOf s ⟨c, false⟩) ∧
    (∃ t, exec (.lockstepCompare c false slot) s = .next t ∧ (coreOf t c).roll = [] ∧ (archOf t c).run = .stopped ∧
      (strmOf t ⟨c, false⟩).s = old.main.s ∧ (strmOf t ⟨c, false⟩).f = old.main.f ∧ (strmOf t ⟨c, false⟩).pc = old.main.pc ∧
      ∀ n < 8, let y := (archOf t c).queue n
        ∀ e ∈ (old.queue n).ents, ∃ x ∈ y.ents ++ y.ring.elim [] (·.ents), x.id = e.id)) ∧
  (∀ (c : Nat) (slot : BitVec 5) (s : State), (coreOf s c).roll = [] → heldForCompare s ⟨c, false⟩ = true →
    ∃ t, exec (.lockstepCompare c false slot) s = .next t ∧ (archOf t c).run = .stopped ∧
      (strmOf t ⟨c, false⟩).s = (strmOf s ⟨c, false⟩).s) ∧
  (∀ (rail : Nat) (x : Nat × Bool × Nat × Nat) (s : State),
    let c := x.2.2.1
    let now := (c, s.hub.htck.toNat)
    (nextToken s rail false = some x → mayGrant s rail false = true →
      ∃ t, exec (.clearingTokenGrant rail) s = .next t ∧
        (archOf t c).tok = { (archOf s c).tok with clrReq := false, clrGot := true } ∧
        (∀ y ∈ t.hub.tokq, ¬(y.2.1 = false ∧ y.2.2.1 = c)) ∧ now ∈ tget [] t.hub.tokAt (2 * rail) ∧ t.mem = s.mem ∧
        SameCores s t c) ∧
    (nextToken s rail true = some x → mayGrant s rail true = true →
      ∃ t, exec (.startTokenGrant rail) s = .next t ∧
        (archOf t c).tok = { (archOf s c).tok with stReq := false, stGot := true } ∧
        (∀ y ∈ t.hub.tokq, ¬(y.2.1 = true ∧ y.2.2.1 = c)) ∧ now ∈ tget [] t.hub.tokAt (2 * rail + 1) ∧ t.mem = s.mem ∧
        SameCores s t c)) ∧
  (∀ (c : Nat) (y : SmvCmd) (l : List SmvCmd) (s : State), Inv s →
    let k : Sid := ⟨c, false⟩
    let a := archOf s c
    let n := y.hd.toNat
    let h := handleOf (tget 0 a.h n)
    let pa := handleDst y.tab c (handlePa s c n 0)
    let l' := l.map (fun u => if u.bank.isEmpty then u else captureOne s c u)
    let ended := fun (t : State) (sts : Nat) => (archOf t c).smv = l' ∧ (strmOf t k).flag y.cf = true ∧
      (y.ce = true ∨ sts ≠ 0 → a.evq.length < 32 → ∃ r, (archOf t c).evq = a.evq ++ [r] ∧ r.hdr.extractLsb' 0 32 = BitVec.ofNat 32 y.num ∧
        r.pay.extractLsb' 54 8 = 9 ∧ r.pay.extractLsb' 50 4 = BitVec.ofNat 4 sts)
    a.smv = y :: l → y.bank = [] → y.stg = none → (∀ i ∈ y.wait, ∀ r ∈ a.reqs, r.id ≠ i) →
    (y.ferr = true → ∃ t, exec (.handleRowProduced c 0) s = .next t ∧ ended t 1 ∧ t.mem = s.mem ∧ (archOf t c).h = a.h) ∧
    (0 < h.free → ownsBank s c pa = true → y.ferr = false → y.bad = none → smvBad s y = none →
    ∃ t, exec (.handleRowProduced c 0) s = .next t ∧
      (16 * (y.made + 1) < y.n → ∃ z, (archOf t c).smv = z :: l' ∧ z.made = y.made + 1 ∧ (strmOf t k).f = (strmOf s k).f) ∧
      (y.n ≤ 16 * (y.made + 1) → ended t 0) ∧
      (handleOf (tget 0 (archOf t c).h n)).prd = (h.prd + 1) % (2 * h.size) % 8192 ∧
      rowAt t pa = ofElems 32 ((List.range 16).map (fun i => (smvY s y (16 * y.made + i)).1)) ∧
      (strmOf t k).s = (strmOf s k).s))

/-- R56, R60, R221, R264 to R272, R276, R279, R281: an empty bundle takes one counted cycle, pops and goes on; a block entry opens its
block and starts the clearing; a ready node that is the pointer's turn is placed on its stand; a launch starts with the
launch-start values and its tiles; a task enters its kernel with the registers of R271; a node whose cores have all
departed completes with its increments. (That the pointer of a priority moves on after a placement, and that a context without a
ready node of the priority loses its deficit, is log 56; that a released bank stays released for later tasks of the launch is
log 40.) -/
def Obligations.LaunchesAndBlocks : Prop := ∀ (s : State),
  let quiet := fun (k : Sid) => mayAct s k = true ∧ boundary s k = none ∧ (k.side = false → (strmOf s k).resto = false) ∧
    (ctxOf s (nodeIds s k.core).1).drops = [] ∧ (strmOf s k).anyDue = false ∧ ∀ u ∈ s.upsets, u.1 ≠ k
  (∀ (k : Sid) (b : Fetched), quiet k →
    let x := strmOf s k
    let q := (archOf s k.core).main.pipe
    emptyAt s k = true → fetchBundle s k.core x.pc = .ok b → b.slots = [] → badHeader s k b = false →
    limiterHolds s k b = false → waitHold x b.hdr = none → popsEmpty s k b.hdr = false → q.rep = none → q.nest = none →
    ∃ t, exec (.emptyBundle k) s = .next t ∧ (strmOf t k).ccnt = x.ccnt + 1 ∧
      (x.lc0 = 0 → x.lc1 = 0 → (strmOf t k).pc = x.pc + BitVec.ofNat 48 b.len) ∧ (strmOf t k).s = x.s ∧
      (strmOf t k).f = x.f ∧ t.mem = s.mem ∧ SameCores s t k.core ∧
      ∀ n < 7, ((archOf s k.core).queue n).ring = none → ((archOf t k.core).queue n).ents =
        if b.hdr.pop.getLsbD n then ((archOf s k.core).queue n).ents.drop 1 else ((archOf s k.core).queue n).ents) ∧
  (∀ (c : Nat) (d : BlockDesc),
    let k : Sid := ⟨c, false⟩
    let x := strmOf s k
    let a := archOf s c
    quiet k → x.due = .header → x.resume = none → blockAt s c x.pc = .ok d →
    (mergedPt x.blk.pt = mergedPt d.pt ∨ d.stl = true) → (d.stl = false ∨ settled a = true) →
    (a.tok.clrGot = true ∨ clock2 (mergedPt d.pt) (ptCode d.pt.toNat) ≤ clock2 (mergedPt x.blk.pt) a.clr.posn) →
    ∃ t, exec (.blockEntry k) s = .next t ∧ (strmOf t k).pc = x.pc + 12 ∧ (strmOf t k).blk.hdr = x.pc ∧
      (strmOf t k).blk.ext = x.pc + 12 + BitVec.ofNat 48 (6 * d.plen.toNat) ∧ (strmOf t k).blk.pt = d.pt ∧
      (strmOf t k).lc0 = 0 ∧ (strmOf t k).lc1 = 0 ∧ (archOf t c).clr.pt = d.pt ∧ (archOf t c).clr.dep = a.clr.posn ∧
      (archOf t c).clr.nom = ptCode d.pt.toNat ∧ (archOf t c).clr.steps = 0 ∧ (archOf t c).tok.clrGot = false ∧
      (strmOf t k).s = x.s ∧ t.mem = s.mem ∧ SameCores s t c) ∧
  (∀ (c : Nat) (tk : Task) (n : Node),
    let k : Sid := ⟨c, false⟩
    (archOf s c).run = .running → (archOf s c).task = some tk → tk.live = false → 0 < tk.left →
    nodeOf s tk.ctx tk.node = some n →
    ∃ t, exec (.taskEntry c) s = .next t ∧ (archOf t c).task = some { tk with live := true } ∧ (strmOf t k).pc = tk.ent ∧
      (strmOf t k).due = .header ∧ (strmOf t k).f = 1 ∧ (strmOf t k).lc0 = 0 ∧ (strmOf t k).lc1 = 0 ∧ (archOf t c).fpc = 0 ∧
      (∀ d < 4, (strmOf t k).reg (BitVec.ofNat 5 (d + 1)) = BitVec.ofNat 64 (tileCoord n.record tk.next d)) ∧
      (strmOf t k).reg 5 = BitVec.ofNat 64 tk.next ∧ (strmOf t k).reg 6 = argVa (archOf s c) ∧ (strmOf t k).reg 7 = BitVec.ofNat 64 tk.k ∧
      (strmOf t k).reg 8 = BitVec.ofNat 64 tk.c ∧ (∀ m : BitVec 5, 8 < m.toNat → (strmOf t k).reg m = 0) ∧
      t.mem = s.mem ∧ SameCores s t c) ∧
  (∀ (prio n : Nat) (x : Node),
    let c := tget 0 s.hub.rr prio % 16
    let cost := Min.min 65536 (ndTiles x.record)
    let d := tget 0 (ctxOf s c).defic prio + 256 * recN (ctxOf s c).record 2 1
    s.hub.rdy.getLsbD 1 = true → candidate s prio c = some (n, x) → (∀ q < prio, hasReady s q = false) → prio < 4 → cost ≤ d →
    ∃ t m y, exec (.nodePlacement prio) s = .next t ∧ placeMask s c x = some m ∧ nodeOf t c n = some y ∧ y.st = .placed ∧
      y.stand = standCores m (ndFlag x.record 0) ∧ (∀ k ∈ y.stand, (c, n) ∈ tget [] t.hub.order k) ∧
      tget 0 t.hub.rr prio = (c + 1) % 16 ∧
      tget 0 (ctxOf t c).defic prio = (if backlogged (ctxOf t c) prio then d - cost else 0) ∧ t.mem = s.mem ∧ t.cores = s.cores) ∧
  (∀ (c ctx node : Nat) (n : Node),
    let k := (n.stand.findIdx? (· == c)).getD 0
    let q := ndTiles n.record / n.stand.length
    let e := ndTiles n.record % n.stand.length
    nextLaunch s c = some (ctx, node) → nodeOf s ctx node = some n → (archOf s c).task = none → (archOf s c).run = .idle →
    gated s c = false → (ctxOf s ctx).state = 1 → startReady s ctx n = true → s.hub.rdy.getLsbD (8 + c / 128) = true → recN n.record 34 1 = 0 →
    (0 < q ∨ k < e) →
    ∃ t tk m, exec (.launchStart c) s = .next t ∧ (archOf t c).task = some tk ∧ tk.ctx = ctx ∧ tk.node = node ∧
      tk.alb = recN n.record 38 1 ∧ tk.aln = (if isRoot c then 0 else recN n.record 39 1) ∧ tk.k = k ∧ tk.c = n.stand.length ∧
      tk.next = k * q + Min.min k e ∧ tk.left = q + (if k < e then 1 else 0) ∧ tk.live = false ∧
      (archOf t c).run = .running ∧ (strmOf t ⟨c, false⟩).s = [] ∧ (strmOf t ⟨c, false⟩).ccnt = 0 ∧
      (strmOf t ⟨c, true⟩).ccnt = 0 ∧ (archOf t c).fpc = 0 ∧ (archOf t c).evq = [] ∧
      (archOf t c).phn = 0 ∧ (archOf t c).aset = some [] ∧ (archOf t c).rlsd = 0 ∧ (archOf t c).acc = [] ∧
      (coreOf t c).split = (recN (ctxOf s ctx).record 1 1).testBit 0 ∧ nodeOf t ctx node = some m ∧ c ∈ m.begun) ∧
  (∀ (ctx node : Nat) (n : Node),
    let r := n.record
    let inc := fun (c : Nat) => (if (ndInc r 0).1 = c then (ndInc r 0).2 else 0) + (if (ndInc r 1).1 = c then (ndInc r 1).2 else 0)
    nodeOf s ctx node = some n → n.st = .placed → n.stand ≠ [] → (∀ c ∈ n.stand, c ∈ n.gone) → n.kill = none →
    isChainNode n = false → (ctxOf s ctx).state = 1 → (∀ x ∈ n.late, ∀ r ∈ (archOf s x.1).reqs, r.id ≠ x.2) →
    ∃ t, exec (.nodeCompletion ctx node) s = .next t ∧ nodeOf t ctx node = none ∧
      ∀ c, c ≠ 0xFFFF → (tget 0 (ctxOf t ctx).ctrs c).toNat = Min.min (2 ^ 32 - 1) ((tget 0 (ctxOf s ctx).ctrs c).toNat + inc c))

/-- R153, R157, R159, R163, R192, R200, R201, R278, R297, R317, R319, R322, R358, R410, R411, R418: an entry arrives at its queue, a pointer
update replaces one pointer, a record enters the event queue or is counted as dropped; a full barrier releases its
participants into their next phase; a released bank passes on; a sweep ends; a publish flips its region, and its broadcast
reaches one table after the other, those of other packages too; a residency change reaches every table of the context, but makes no
region resident on a stack that has not trained; a replay timeout ends forcing; a `coll` step
that has failed is retried or ends with status 5; a copy with an end behind a lost second tier ends with
status 7, `FSTO` ticks after its acceptance and after the loss. (That `PHN` rises when a barrier completes is log 39, the condition on
which a bank passes log 40, that a pointer moves between counted cycles log 97, that a publish is broadcast table by table and the shadow
records follow with the last log 50, what a residency change waits for log 82, the end of forcing log 25, that a timeout may come later
log 10, from when `FSTO` counts log 77.) -/
def Obligations.MessagesAndOrder : Prop := ∀ (s : State),
  let comes := fun (i : Nat) (m : NetMsg) => s.net[i]? = some m ∧ msgReady s i m = true
  let left := fun (i : Nat) (m : NetMsg) (t : State) => t.net = s.net.eraseIdx i ∧ t.mem = s.mem ∧ SameCores s t m.dst ∧
    (archOf t m.dst).main = (archOf s m.dst).main ∧ (archOf t m.dst).side = (archOf s m.dst).side
  (∀ i m q e, comes i m → m.msg = .push q e → (q = 7 ∨ saveFor s m = none) →
    let x := (archOf s m.dst).queue q
    (if m.src = m.dst then queueShut x (queueCap q) else queueFull s m.dst q) = false → (∀ y ∈ x.prods, y = m.src ∧ y = e.src) → x.ring = none →
    ∃ t, exec (.queueArrival i) s = .next t ∧ left i m t ∧ ((archOf t m.dst).queue q).ents = x.ents ++ [e] ∧
      ∀ n, n ≠ q → (archOf t m.dst).queue n = (archOf s m.dst).queue n) ∧
  (∀ i m n prd v, comes i m → m.msg = .pointer n prd v → saveFor s m = none →
    let x := handleOf (tget 0 (archOf s m.dst).h n)
    ((archOf s m.dst).main.cyc ≠ [] → exec (.handlePointerUpdate i) s = .next s) ∧
    ((archOf s m.dst).main.cyc = [] → ∃ t, exec (.handlePointerUpdate i) s = .next t ∧ left i m t ∧
      handleOf (tget 0 (archOf t m.dst).h n) = (if prd then { x with prd := v.toNat } else { x with cns := v.toNat }) ∧
      (archOf t m.dst).moved = (archOf s m.dst).moved ++ [(n, prd)] ∧
      ∀ k, k ≠ n → tget 0 (archOf t m.dst).h k = tget 0 (archOf s m.dst).h k)) ∧
  (∀ i m r, comes i m → m.msg = .event r → saveFor s m = none →
    let a := archOf s m.dst
    ∃ t, exec (.eventRecordArrival i) s = .next t ∧ left i m t ∧
      (a.evq.length < 32 → (archOf t m.dst).evdrop = a.evdrop ∧ (archOf t m.dst).evq = a.evq ++
        [{ r with hdr := if a.lost then r.hdr ||| 0x4000000000000000 else r.hdr }]) ∧
      (32 ≤ a.evq.length → (archOf t m.dst).evq = a.evq ∧ (archOf t m.dst).evdrop = Min.min (Max.max a.evdrop 65535) (a.evdrop + 1) ∧
        (archOf t m.dst).lost = true)) ∧
  (∀ i b, s.hub.bars[i]? = some b → b.scp < 6 → barFull s b = true → s.hub.saves = [] → b.arr.Nodup →
    (∀ c ∈ b.arr, sweepHolds (archOf s c) = false) →
    ∃ t, exec (.barrierCompletion i) s = .next t ∧ b ∉ t.hub.bars ∧ t.mem = s.mem ∧
      (∀ c ∈ b.arr, (archOf t c).phn = (archOf s c).phn + 1 ∧ (archOf t c).aset = some [] ∧
        ((b.scp, b.id, false) ∈ (archOf s c).arrv → (b.scp, b.id, true) ∈ (archOf t c).arrv) ∧
        (archOf t c).main = (archOf s c).main) ∧ ∀ c, c ∉ b.arr → coreOf t c = coreOf s c) ∧
  (∀ core bank, bank < 32 → bankOwner s (32 * core + bank) = some (nodeIds s core) →
    (archOf s core).rlsd.getLsbD bank = true → bankBusy s core bank = false →
    ∃ t, exec (.bankOwnershipPass core bank) s = .next t ∧ t.mem = s.mem ∧ t.cores = s.cores ∧
      tget [] t.hub.banks (32 * core + bank) = (tget [] s.hub.banks (32 * core + bank)).erase (nodeIds s core) ∧
      ∀ k, k ≠ 32 * core + bank → tget [] t.hub.banks k = tget [] s.hub.banks k) ∧
  (∀ core, (archOf s core).sweep = true → ∃ t, exec (.raceTagSweep core) s = .next t ∧ (archOf t core).sweep = false ∧
    t.mem = s.mem ∧ SameCores s t core ∧ ∀ row, let v := tget 0 s.tags row
      tget 0 t.tags row = if row / 2 ^ 16 = s.pkg.toNat * 2 ^ 26 + core ∧ 64 ≤ ((archOf s core).phn - v.extractLsb' 4 8).toNat
        then v &&& ~~~8 else v) ∧
  (∀ core tab x l e tk, Inv s → (archOf s core).cp = x :: l → x.phase = 2 → x.flip = false → x.pub = none →
    pubEnts s core x = [e] → (archOf s core).task = some tk → s.hub.flips = [] → (∀ z ∈ l, z.pub = none) → tab < 1024 →
    let todo := flipTabs s core tk.ctx (x.prm.extractLsb' 16 4).toNat
    let left := todo.filter (· != tab)
    let rec0 := (ctxOf s tk.ctx).shtb.toNat + 32 * e.reg + 4
    tab ∈ todo →
    ∃ t y, exec (.publishFlip (.table core tab)) s = .next t ∧ (archOf t core).cp = y :: l ∧
      y = { x with pub := some s.ids, flip := left.isEmpty } ∧
      t.hub.flips = (if left.isEmpty then [] else
        [{ id := s.ids, core := core, ctx := tk.ctx, sides := [(e.reg, !e.side)], todo := left
           scp := (x.prm.extractLsb' 16 4).toNat }]) ∧
      ((archOf s tab).task.map (·.ctx) = some tk.ctx →
        ∀ z ∈ (archOf t tab).tab, z.2.reg = e.reg → z.2.shp = true → z.2.side = !e.side) ∧
      (∀ z ∈ (archOf s tab).tab, z.2.reg ≠ e.reg ∨ z.2.shp = false → z ∈ (archOf t tab).tab) ∧
      (∀ c, c ≠ tab → c ≠ core → coreOf t c = coreOf s c) ∧ (tab ≠ core → (archOf t core).tab = (archOf s core).tab) ∧
      (∀ c, (archOf t c).main = (archOf s c).main) ∧
      (left = [] → e.reg < (ctxOf s tk.ctx).shtn.toNat → fld (readN t.mem (canon rec0) 1) 3 1 = (!e.side).toNat) ∧
      ∀ a, (left = [] → e.reg < (ctxOf s tk.ctx).shtn.toNat → a ≠ canon rec0) → cellAt t.mem a = cellAt s.mem a) ∧
  (∀ base side tab tk, (archOf s tab).task = some tk → (∀ v ∈ s.hub.saves, v.core ≠ tab) →
    ∃ t, exec (.publishFlip (.arrive base side tab)) s = .next t ∧ SameCores s t tab ∧ (archOf t tab).main = (archOf s tab).main ∧
      ∀ z ∈ (archOf s tab).tab, z.2.shp = true → z.2.w1.toNat % 2 ^ 56 = base →
        ∀ y ∈ (archOf t tab).tab, y.2.reg = z.2.reg → y.2.shp = true → y.2.side = side) ∧
  (∀ ctx reg (res : BitVec 2), Inv s →
    let rec0 := (ctxOf s ctx).shtb.toNat + 32 * reg + 4
    (res = 0 → regionUp s ctx reg = false → exec (.residencyChange ctx reg res) s = .next s) ∧
    ((res = 0 → regionUp s ctx reg = true) → ∃ t, exec (.residencyChange ctx reg res) s = .next t ∧
      (∀ c, (archOf s c).task.map (·.ctx) = some ctx → ∀ z ∈ (archOf t c).tab, z.2.reg = reg → z.2.res = res.toNat) ∧
      (∀ c, (archOf t c).main = (archOf s c).main ∧ (archOf t c).task = (archOf s c).task) ∧
      (res = 0 → reg ∉ (ctxOf t ctx).pages ∧ ∀ v ∈ t.hub.saves, v.ctx = ctx → SaveCause.page reg ∉ v.causes) ∧
      (reg < (ctxOf s ctx).shtn.toNat → fld (readN t.mem (canon rec0) 1) 1 2 = res.toNat) ∧
      ∀ a, (reg < (ctxOf s ctx).shtn.toNat → a ≠ canon rec0) → cellAt t.mem a = cellAt s.mem a)) ∧
  (∀ ctx unit h, (ctxOf s ctx).held.find? (fun g => g.1 == unit &&
      decide (g.2.2.1 + replayLimit (ctxOf s ctx) ≤ s.hub.htck.toNat)) = some h →
    ∃ t, exec (.replayTimeout ctx unit) s = .next t ∧ (∀ n key, nextRec t ctx n key = none) ∧ t.cores = s.cores ∧
      (ctxOf t ctx).held.map (fun g => (g.1, g.2.1, g.2.2.2)) = (ctxOf s ctx).held.map (fun g => (g.1, g.2.1, g.2.2.2)) ∧
      (∀ g ∈ (ctxOf t ctx).held, s.hub.htck.toNat < g.2.2.1)) ∧
  (∀ core x l, (archOf s core).cp = x :: l → x.opc = 6 → x.phase = 1 → stepFailed s core x = true →
    ∃ t y, exec (.collStepFailure core) s = .next t ∧ (archOf t core).cp = y :: l ∧ t.mem = s.mem ∧
      (x.tries < ((x.word 8).extractLsb' 32 4).toNat → y = { x with tries := x.tries + 1 }) ∧
      (((x.word 8).extractLsb' 32 4).toNat ≤ x.tries → y = { x with phase := 2, sts := 5 })) ∧
  (∀ core x l, (archOf s core).cp = x :: l → stepFailed s core x = false → exec (.collStepFailure core) s = .next s) ∧
  (∀ core x l, (archOf s core).cp = x :: l → x.phase = 0 →
    (∃ pa ∈ cpReadPas s core x ++ (cpOut s core x).l.map (·.pa), ∃ n, tierLost s pa = some n ∧
      Max.max x.tick n + (s.hub.fcfg.extractLsb' 32 32).toNat ≤ s.hub.htck.toNat) → x.opc ≠ 4 → x.opc ≠ 7 →
    (x.flip = true ∨ x.pub = none ∧ x.prm.getLsbD 20 = false) → (archOf s core).evq.length < 32 →
    ∃ t r, exec (.secondTierNoRoute core) s = .next t ∧ (archOf t core).cp = l ∧ t.mem = s.mem ∧
      (archOf t core).evq = (archOf s core).evq ++ [r] ∧ r.pay.extractLsb' 50 4 = 7)

/-- R263, R275, R276, R357, R378 to R386, R393, R395, R450: a context is created from the record its page holds; the host's tail is
taken at the end of its hub tick; a slot
becomes a copy or a node; a copy copies and reports; a counter rises; a node is preempted and resumed; a context is torn down;
a saved launch comes back; a node of priority 0 asks for its cores; a stopped node is killed, runs again or takes its
context down; the log is acknowledged. The model's choices: creation zeroes the queue registers and keeps `SHTB`, `SHTN` (log 90,
DEDUCED), the span of a replay and the number of its next node come with the capture (logs 58 and 89), the copy of a control block
is one step (log 74), what the teardown discards in which order (log 75), what `PRS` does to other launches (log 73), when the
preemption for a node of priority 0 runs after its 100 µs (log 10, DESIGN CHOICE), the banks and copy commands of a restored core
(logs 38 and 71), and what a stopped node's settlement waits for (log 85). -/
def Obligations.ContextsAndQueues : Prop := ∀ (ctx : Nat) (s : State), Inv s →
  let x := ctxOf s ctx
  let cap := fun (n : Nat) => Min.min (2 ^ 32 - 1) n
  let others := fun (t : State) => t.cores = s.cores ∧ ∀ c, c ≠ ctx → ctxOf t c = ctxOf s c
  (let r := x.record;
    ctx < 16 → s.hub.halted = false → x.state = 0 → ctxRecOk s r = true → partDefined s (recN r 0 1) = true →
    (r.getLsbD 10 = true → chainHolders s < 4) → ∀ v : Word, (v.getLsbD 0 = false → exec (.contextCreate ctx v) s = .next s) ∧
    (v.getLsbD 0 = true → ∃ t, exec (.contextCreate ctx v) s = .next t ∧ others t ∧ t.mem = s.mem ∧ let y := ctxOf t ctx
      y.state = 1 ∧ y.record = r ∧ y.qs = [] ∧ y.ctrs = [] ∧ y.nodes = [] ∧
      y.next = (if recN r 3 1 = 2 then Config.replayNode s.fresh else 0) ∧
      (y.logs, y.loge) = (if recN r 3 1 = 2 then Config.replaySpan s.fresh else (0, 0)) ∧ y.erhead = 0 ∧ y.erack = 0 ∧
      y.logpos = 0 ∧ y.logack = 0 ∧ y.logm = r.extractLsb' 24 8 ∧ y.shtb = x.shtb ∧ y.chain = if r.getLsbD 10 then some Chain.fresh else none)) ∧
  (∀ q (row : Row), let lq := queueOf s ctx q
    let same := fun (t : State) => others t ∧ t.mem = s.mem ∧ ∀ n, n ≠ q → queueOf t ctx n = queueOf s ctx n
    (∃ t, exec (.intakeWrite ctx q row) s = .next t ∧ same t ∧ queueOf t ctx q = { lq with want := some row }) ∧
    (lq.want = some row → row.toNat < 128 → lq.en = true → x.state = 1 → q < recN x.record 72 1 →
      (row.extractLsb' 0 7 - lq.head).toNat ≤ 64 →
      let t := takeIntake ctx s q
      same t ∧ queueOf t ctx q = { lq with want := none, tail := row.extractLsb' 0 7 })) ∧
  (∀ q, let lq := queueOf s ctx q
    let r := slotAt s lq lq.subs
    s.hub.rdy.getLsbD 1 = true → x.state = 1 → lq.head ≠ lq.tail → (lq.subs < 64 ∨ lq.subs - 64 ∉ lq.busy) →
    (lq.kind = true ∨ recWhy s ctx r = 0) →
    ∃ t, exec (.slotConsume ctx q) s = .next t ∧ others t ∧ t.mem = s.mem ∧ (queueOf t ctx q).head = lq.head + 1 ∧
      (queueOf t ctx q).subs = lq.subs + 1 ∧ (queueOf t ctx q).busy = lq.busy ++ [lq.subs] ∧
      (lq.kind = true → (queueOf t ctx q).copies = lq.copies ++ [(lq.subs, r)]) ∧
      (lq.kind = false → (ctxOf t ctx).next = x.next + 1 ∧ ∃ y, nodeOf t ctx (x.next + 1) = some y ∧ y.record = r ∧
        y.src = .host q lq.subs ∧ y.stand = [] ∧ y.restart = (recN r 37 1).testBit 1 ∧
        y.st = if waitsHold x r then .ready else .waiting)) ∧
  (∀ q n (r : BitVec 1024) l, let lq := queueOf s ctx q
    let src := recN r 0 8
    let dst := recN r 8 8
    let cnum := recN r 24 2
    let a := canon (recN x.record 64 8 + 16 * (64 * q + n % 64))
    (s.flaws = [] ∨ dst % 64 = 0) → lq.copies = (n, r) :: l → x.state = 1 → copyOk s ctx r = true → recN r 16 8 = 64 → cnum < 4096 →
    (∀ j < 64, canon (dst + j) < a ∨ a + 16 ≤ canon (dst + j)) →
    ∃ t, exec (.hubCopyComplete ctx q) s = .next t ∧ (∀ c, c ≠ ctx → ctxOf t c = ctxOf s c) ∧ (queueOf t ctx q).copies = l ∧ n ∉ (queueOf t ctx q).busy ∧
      (∀ j < 64, cellAt t.mem (canon (dst + j)) = cellAt s.mem (canon (src + j))) ∧ readN t.mem a 16 = n % 2 ^ 32 * 2 ^ 96 + 2 ^ 56 ∧
      (tget 0 (ctxOf t ctx).ctrs cnum).toNat = cap ((tget 0 x.ctrs cnum).toNat + recN r 26 4) ∧
      ∀ b, ¬(a ≤ b ∧ b < a + 16) → (∀ j < 64, b ≠ canon (dst + j)) → cellAt t.mem b = cellAt s.mem b) ∧
  (∀ (num : BitVec 16) (amt : BitVec 32), num.toNat < 4096 → x.state = 1 →
    ∃ t, exec (.eventCounterWrite ctx num amt) s = .next t ∧ others t ∧ t.mem = s.mem ∧
      (tget 0 (ctxOf t ctx).ctrs num.toNat).toNat = cap ((tget 0 x.ctrs num.toNat).toNat + amt.toNat) ∧
      ∀ n, n ≠ num.toNat → tget 0 (ctxOf t ctx).ctrs n = tget 0 x.ctrs n) ∧
  (∀ node n, nodeOf s ctx node = some n →
    let runs := fun (c : Nat) => ∃ tk, (archOf s c).task = some tk ∧ tk.ctx = ctx ∧ tk.node = node
    (n.st = .placed → ∃ t, exec (.preemptNode ctx node) s = .next t ∧ nodeOf t ctx node = some { n with st := .stopped } ∧
      (∀ c, runs c → SaveCause.prs ∈ (archOf t c).preq) ∧ t.mem = s.mem ∧
      ∀ v ∈ t.hub.saves, v.ctx = ctx → v.node = node → SaveCause.prs ∈ v.causes) ∧
    (n.st = .stopped → ∃ t, exec (.resumeNode ctx node) s = .next t ∧ nodeOf t ctx node = some { n with st := .placed } ∧
      (∀ c, runs c → SaveCause.prs ∉ (archOf t c).preq) ∧ t.mem = s.mem ∧
      ∀ v ∈ t.hub.saves, v.ctx = ctx → v.node = node → SaveCause.prs ∉ v.causes) ∧
    (∀ w, n.waits = some w → w + 100000 ≤ s.hub.htck.toNat → ∃ t, exec (.priorityPreemption ctx node) s = .next t ∧ t.mem = s.mem ∧
      t.hub = s.hub ∧ ∀ c tk, c ∈ n.stand → waitsFor s c (ctx, node) = true → (archOf s c).task = some tk →
        (2 ≤ priOf s tk.ctx tk.node ∧ priOf s tk.ctx tk.node ≤ 3 → SaveCause.priority ctx node ∈ (archOf t c).preq)) ∧
    (∀ code fatal, node ≠ 0 → x.state = 1 → n.kill = some (code, fatal) → nodeDrained s ctx node = true →
      ∃ t, exec (.containment ctx node) s = .next t ∧
        (fatal = true → nodeOf t ctx node = none ∧ ((∀ reg, n.src ≠ .producer reg) →
          ∀ c, runs c → (archOf t c).run = .idle ∧ (archOf t c).task = none)) ∧
        (fatal = false → n.restart = false → (ctxOf t ctx).state = 2) ∧
        (fatal = false → n.restart = true → n.undo = [] → n.sides = [] → n.reruns < 2 →
          (∃ y, nodeOf t ctx node = some y ∧ y.st = .ready ∧ y.reruns = n.reruns + 1 ∧ y.stand = [] ∧ y.kill = none ∧
            y.record = n.record) ∧ ∀ c, runs c → (archOf t c).run = .idle ∧ (archOf t c).task = none))) ∧
  (let runs := fun (c : Nat) => (archOf s c).task.map (·.ctx) = some ctx;
    (x.state = 1 → ∃ t, exec (.teardown ctx) s = .next t ∧ (ctxOf t ctx).state = 2 ∧ (ctxOf t ctx).chain = none ∧
      (ctxOf t ctx).ctrs = [] ∧ (ctxOf t ctx).sigs = [] ∧ (∀ n ∈ (ctxOf t ctx).nodes, n.2.st ≠ .waiting ∧ n.2.st ≠ .ready) ∧
      ∀ c, runs c → (archOf t c).run = .stopped ∧ (archOf t c).cp = []) ∧
    (x.state = 2 → (∀ c ∈ coresOfCtx s ctx, drained s c = true) → ∃ t, exec (.teardownComplete ctx) s = .next t ∧
      (ctxOf t ctx).state = 0 ∧ (ctxOf t ctx).nodes = [] ∧ ∀ c, runs c → (archOf t c).run = .idle ∧ (archOf t c).task = none)) ∧
  (∀ core v, (archOf s core).task = none → gated s core = false → nextRestore s core = some v → v.bad.or (savedBad s v.ctx core) = none →
    ∃ t, exec (.restore core) s = .next t ∧ let a := archOf t core
      a.task = v.arch.task ∧ a.run = .running ∧ a.main = { v.arch.main with resto := true } ∧ a.side = v.arch.side ∧
      a.cl = v.arch.cl ∧ a.acc = v.arch.acc ∧ a.tab = v.arch.tab ∧ a.preq = [] ∧
      (coreOf t core).split = v.split ∧
      (∀ w ∈ t.hub.saves, ¬(w.core = core ∧ w.ctx = v.ctx ∧ w.node = v.node)) ∧ SameCores s t core ∧
      ∀ b, b / 2 ^ 22 ≠ s.pkg.toNat * 2 ^ 26 + core → (∀ z ∈ v.mem, z.1 ≠ b) → cellAt t.mem b = cellAt s.mem b) ∧
  (∀ n, x.logack ≤ n → n ≤ x.logpos → ∃ t, exec (.logAcknowledgment ctx n) s = .next t ∧
    ctxOf t ctx = { x with logack := n } ∧ others t ∧ t.mem = s.mem)

/-- R205, R275, R339 to R350, R433: a hub tick counts the reason why a walk waits, or posts the node of its entry; an entry
completes with its node, its stash, its notification; amounts and slots arrive, and past their largest value stop the walk;
a walk starts from a sound table and stops; the registers of the chain context are written. What a completion takes from the stash
count is seen from the next tick on (`sdn`, R373). The model's choices: which entry `CERR` names (`EENT`, "entry concerned"): the current one
for causes 3, 4, 6 and 7, the first that breaks R341, or 0, for cause 5 (log 78, DEDUCED). -/
def Obligations.ChainSequencer : Prop := ∀ (ctx : Nat) (c : Chain) (s : State), (ctxOf s ctx).chain = some c → c.cur < 512 →
  let x := ctxOf s ctx
  let still := fun (t : State) => t.mem = s.mem ∧ t.cores = s.cores ∧ ∀ n, n ≠ ctx → ctxOf t n = ctxOf s n
  let now := fun (d : Chain) (t : State) => (ctxOf t ctx).chain = some d ∧ still t
  let err := fun (d : Chain) (cause : Nat) (i : Nat) => d.cerr.getLsbD 63 = true ∧ (d.cerr.extractLsb' 12 4).toNat = cause ∧
    (d.cerr.extractLsb' 0 12).toNat = i
  let e := c.ent c.cur
  let idle := s.hub.tokq = [] ∧ (∀ y ∈ s.hub.ctxs, y.2.rose = [] ∧ ∀ q ∈ y.2.qs, q.2.want = none) ∧ s.can.tgts = [] ∧ s.can.mres1 = none ∧
    (∀ i, (isltOf s i).getLsbD 6 = false) ∧
    ((s.can.due = false ∧ s.can.read = false) ∨ (s.hub.htck + 1).toNat % 1000000 ≠ 500000)
  (idle → s.hub.rdy.getLsbD 2 = false → ∃ t, exec .chainTick s = .next t ∧ t.hub.htck = s.hub.htck + 1 ∧ t.hub.turns = [] ∧
    t.mem = s.mem ∧ t.cores = s.cores ∧ ∀ n, ctxOf t n = { ctxOf s n with chain := (ctxOf s n).chain.map (fun c => { c with ups := [], dup := 0, sdn := 0 }) }) ∧
  (idle → s.hub.rdy.getLsbD 2 = true → s.hub.ctxs = [(ctx, x)] → x.sigs = [] →
    (c.go = true → waitReason x c ≠ 0 → let r := waitReason x c
      ∃ t d, exec .chainTick s = .next t ∧ now d t ∧ t.hub.htck = s.hub.htck + 1 ∧ d.why = r ∧ d.cur = c.cur ∧ d.go = true ∧
        d.rdy = c.rdy ∧ ((tget 0 d.bub r).extractLsb' 0 40).toNat =
          Min.min (2 ^ 40 - 1) (((tget 0 c.bub r).extractLsb' 0 40).toNat + 1) ∧
        ((tget 0 d.bub r).extractLsb' 40 24).toNat =
          (if c.why = r then id else Min.min (2 ^ 24 - 1)) (((tget 0 c.bub r).extractLsb' 40 24).toNat + if c.why = r then 0 else 1)) ∧
    (c.go = false → ∃ t d, exec .chainTick s = .next t ∧ now d t ∧ d = { c with why := if c.open_ = [] then 7 else 6, ups := [], dup := 0, sdn := 0 }) ∧
    (c.go = true → waitReason x c = 0 → enKind e ≠ 3 → paPkg (entryRec c e) = s.pkg.toNat → storageOk s (entryRec c e) = true →
      storageOk s (entryRec c e + 64) = true →
      let r := BitVec.ofNat 1024 (readN s.mem (canon (entryRec c e)) 128)
      recWhy s ctx r = 0 → c.cur + 1 < c.ccnt →
      ∃ t d y, exec .chainTick s = .next t ∧ now d t ∧ d.cur = c.cur + 1 ∧ d.go = true ∧ nodeOf t ctx (x.next + 1) = some y ∧
        y.record = r ∧ y.src = .chain c.cur ∧ y.word = some (entryWord c e) ∧ d.open_ = c.open_ ++ [(c.cpass.toNat, c.cur, x.next + 1)] ∧
        tget 0 d.rdy (wf e 32 8) = tget 0 c.rdy (wf e 32 8) - BitVec.ofNat 32 (wf e 40 16) ∧ d.dfree = c.dfree - wf e 56 8 ∧
        d.stash = c.stash + (enSdl e).toNat) ∧
    (c.go = true → waitReason x c = 0 → enKind e = 3 → enSdl e = 0 → wf e 88 2 = 0 → c.hup = false → c.cur + 1 < c.ccnt →
      ∃ t d, exec .chainTick s = .next t ∧ now d t ∧ d.cur = c.cur + 1 ∧ d.go = true ∧ d.open_ = c.open_ ∧ d.stash = c.stash ∧
        (ctxOf t ctx).nodes = x.nodes ∧ d.dfree = c.dfree - wf e 56 8 ∧
        tget 0 d.rdy (wf e 32 8) = tget 0 c.rdy (wf e 32 8) - BitVec.ofNat 32 (wf e 40 16))) ∧
  (∀ i n o, nodeOf s ctx i = some n → n.st = .placed → n.stand ≠ [] → (∀ k ∈ n.stand, k ∈ n.gone) → n.kill = none →
    isChainNode n = true → x.state = 1 → (∀ y ∈ n.late, ∀ r ∈ (archOf s y.1).reqs, r.id ≠ y.2) →
    c.open_.find? (fun y => y.2.2 == i) = some o →
    let f := c.ent o.2.1
    enSdl f ≤ 0 → (-(enSdl f)).toNat ≤ c.stash → (wf f 88 2 = 0 ∨ wf f 88 2 = 3) → c.hup = false →
    (tget 0 c.rdy (wf f 72 8)).toNat + wf f 80 8 < 2 ^ 32 →
    ∃ t d, exec (.chainEntryComplete ctx i) s = .next t ∧ nodeOf t ctx i = none ∧ (ctxOf t ctx).chain = some d ∧
      d.open_ = c.open_.filter (fun y => y.2.2 != i) ∧ d.stash = c.stash - (-(enSdl f)).toNat ∧ d.sdn = c.sdn + (-(enSdl f)).toNat ∧ d.cur = c.cur ∧
      (wf f 88 2 = 0 → d.rdy = c.rdy) ∧ (wf f 88 2 = 3 →
        (tget 0 d.rdy (wf f 72 8)).toNat = (tget 0 c.rdy (wf f 72 8)).toNat + wf f 80 8)) ∧
  (∀ (n : BitVec 8) (amt : BitVec 16), x.sigs = [] → let v := (tget 0 c.rdy n.toNat).toNat + amt.toNat
    ∃ t d, exec (.chainNotification ctx n amt) s = .next t ∧ now d t ∧
      (v < 2 ^ 32 → (tget 0 d.rdy n.toNat).toNat = v ∧ d.w8 = c.w8) ∧
      (2 ^ 32 ≤ v → (tget 0 d.rdy n.toNat).toNat = 2 ^ 32 - 1 ∧ d.go = false ∧ err d 3 c.cur) ∧
      ∀ k, k ≠ n.toNat → tget 0 d.rdy k = tget 0 c.rdy k) ∧
  (∀ amt : BitVec 16, ∃ t d, exec (.slotReturn ctx amt) s = .next t ∧ now d t ∧ d.rdy = c.rdy ∧
    (c.dfree + amt.toNat < 2 ^ 16 → d.dfree = c.dfree + amt.toNat ∧ d.w8 = c.w8) ∧
    (2 ^ 16 ≤ c.dfree + amt.toNat → d.dfree = 2 ^ 16 - 1 ∧ d.go = false ∧ err d 4 c.cur)) ∧
  (c.go = false → s.hub.rdy.getLsbD 2 = true → ∃ t d, exec (.chainGo ctx) s = .next t ∧ (ctxOf t ctx).chain = some d ∧
    (tableBad c = none → c.hup = false → d.go = true ∧ d.cur = 0 ∧ d.cpass = 1 ∧ d.adv = some c.cslot.toNat ∧ still t) ∧
    (∀ i, tableBad c = some i → d.go = false ∧ err d 5 i ∧ still t)) ∧
  (s.hub.rdy.getLsbD 2 = false → s.hub.rfl.getLsbD 2 = false → ∃ t, exec (.chainGo ctx) s = .next t ∧ now { c with goHeld := true } t) ∧
  (∃ t, exec (.chainStop ctx) s = .next t ∧ now { c.setGo false with goHeld := false } t ∧ (c.setGo false).go = false) ∧
  (∀ v : BitVec 16, ∃ t d, exec (.cslotWrite ctx v) s = .next t ∧ now d t ∧
    (c.go = false → c.adv.getD 0 ≤ v.toNat → d = { c with cslot := v }) ∧
    (c.go = false → v.toNat < c.adv.getD 0 → d.cslot = c.cslot ∧ err d 7 c.cur) ∧
    (c.go = true → d.cslot = c.cslot ∧ d.go = true ∧ err d 6 c.cur)) ∧
  (∀ v : BitVec 8, ∃ t, exec (.smaxWrite ctx v) s = .next t ∧ now { c with smax := v.toNat } t) ∧
  (∀ v : Word, (∃ t d, exec (.chainRegisterWrite ctx 0x10 v) s = .next t ∧ now d t ∧
      (c.go = false → d = { c with crec := v &&& 0x00FFFFFFFFFFFF80 }) ∧ (c.go = true → d.crec = c.crec ∧ err d 6 c.cur)) ∧
    (∃ t, exec (.chainRegisterWrite ctx 8 v) s = .next t ∧
      now { c with w8 := (v &&& 0xFFFFFFFF00000002) ||| (c.w8 &&& 1) } t) ∧
    ∀ n < 256, (∃ t, exec (.chainRegisterWrite ctx (0x400 + 8 * n) v) s = .next t ∧
      now { c with rdy := tput c.rdy n (v.setWidth 32), ups := tdel c.ups n } t) ∧
      (c.go = false → ∃ t d, exec (.chainRegisterWrite ctx (0x1000 + 16 * n) v) s = .next t ∧ now d t ∧
        (d.ent n).extractLsb' 0 64 = v ∧ (d.ent n).extractLsb' 64 64 = (c.ent n).extractLsb' 64 64 ∧
        ∀ k, k ≠ n → d.ent k = c.ent k))

/-- R400 to R409, R413, R433: a port trains, comes up, sheds lanes, retrains and fails; a flit with a bad CRC is discarded, its
credit returned and its retransmission requested, one in sequence hands its packet on and is acknowledged; an ordered packet is
performed once and in order, and again at the destination of the migration that refused it; a malformed packet is discarded and logged; an
acknowledgment frees a store that has left; a retransmission request, a timeout, a replay and a new route after a failed path send again;
routes, second-tier ports and decoders are set. The model's choices: OPD[0] of an ordered acknowledgment asks for retransmission (log 14,
DESIGN CHOICE), the type-3 flit after a bad CRC and when it goes out (log 76, DEDUCED), when a decoder write is discarded (log 77,
DEDUCED), what a failed path lost is replayed from the oldest packet of its pair and class on (log 75), and when a time-out comes (log 10). -/
def Obligations.FabricAndTier : Prop := ∀ (s : State), Inv s →
  let empty := s.fab.out = [] ∧ s.fab.retry = []
  let still := fun (t : State) => t.mem = s.mem ∧ t.cores = s.cores ∧ t.hub = s.hub
  let only := fun (p : Nat) (t : State) => still t ∧ ∀ q, q ≠ p → portOf t q = portOf s q
  let width := fun (t : State) (p : Nat) => ((portOf t p).reg.extractLsb' 16 2).toNat
  (∀ p < 64, ∃ t, exec (.portEnable p) s = .next t ∧ only p t ∧ pst t p = 1 ∧ (portOf t p).reg.getLsbD 0 = true ∧
    (portOf t p).reg.extractLsb' 20 4 = (portOf s p).reg.extractLsb' 20 4 ∧ (portOf t p).retry = [] ∧
    (portOf t p).txseq = 0 ∧ (portOf t p).rxseq = 0 ∧ (portOf t p).credit = 0) ∧
  (∀ p (pkg : BitVec 8) (prt : BitVec 6), empty → pst s p = 1 → ∃ t, exec (.portTrained p pkg prt) s = .next t ∧ only p t ∧
    pst t p = 2 ∧ width t p = 3 ∧ (portOf t p).reg.extractLsb' 56 8 = pkg ∧ (portOf t p).reg.extractLsb' 50 6 = prt ∧
    (portOf t p).credit = 256) ∧
  (∀ p, empty → (pst s p = 1 ∨ pst s p = 2 ∨ pst s p = 3) → ∃ t, exec (.portFailure { port := p }) s = .next t ∧ only p t ∧ pst t p = 4 ∧
    (portOf t p).retry = [] ∧ (portOf t p).credit = 0) ∧
  (∀ p l, ∃ t, exec (.portFailure { port := p, beyond := some l }) s = .next t ∧ still t ∧ t.fab.ports = s.fab.ports ∧ t.fab.retry =
    s.fab.retry.map (fun x => if x.gone && x.port == some p && l.contains (pHdr x.hdr).dpkg then { x with lost := true } else x)) ∧
  (∀ p, empty → pst s p = 2 → (portOf s p).reg.extractLsb' 20 4 ≠ 0 → ∃ t, exec (.laneShed p) s = .next t ∧ only p t ∧
    (2 ≤ width s p → pst t p = 3 ∧ width t p = width s p - 1) ∧ (width s p ≤ 1 → pst t p = 4)) ∧
  (∀ p, empty → pst s p = 3 → ∃ t, exec (.linkRetrained p) s = .next t ∧ only p t ∧ pst t p = 2 ∧ width t p = width s p ∧
    (portOf t p).retry = (portOf s p).retry ∧
    (portOf t p).credit = (portOf s p).credit - Min.min (portOf s p).retry.length (portOf s p).credit ∧
    (portOf t p).again = (portOf s p).retry.length - Min.min (portOf s p).retry.length (portOf s p).credit) ∧
  (∀ p (f : BitVec 2048), let link := (f.extractLsb' 0 64).toNat
    let hdr : BitVec 256 := f.extractLsb' 64 256
    let u := modPort s p (fun q => { q with
      rxseq := q.rxseq + 1, owed := q.owed + 1, ask := false, asm := [], credit := q.credit + fld link 29 8
      stale := q.stale - fld link 29 8 })
    (pst s p ≠ 2 → exec (.flitReceive p f) s = .next s) ∧
    (pst s p = 2 → flitCrc (f.toNat % 2 ^ 1984) ≠ f.extractLsb' 1984 64 → ∃ t w, exec (.flitReceive p f) s = .next t ∧ only p t ∧
      let n := Min.min 255 ((portOf s p).owed + 1)
      portOf t p = { portOf s p with ask := true, owed := (portOf s p).owed + 1 - n, note := some w } ∧
      w.extractLsb' 12 4 = 3 ∧ w.extractLsb' 16 12 = (portOf s p).rxseq - 1 ∧ w.getLsbD 28 = true ∧ (w.extractLsb' 29 8).toNat = n) ∧
    (pst s p = 2 → flitCrc (f.toNat % 2 ^ 1984) = f.extractLsb' 1984 64 → (f.extractLsb' 12 4 = 1 ∨ f.extractLsb' 12 4 = 2) →
      f.extractLsb' 0 12 ≠ (portOf s p).rxseq → ∃ t, exec (.flitReceive p f) s = .next t ∧ only p t ∧ (portOf t p).ask = true ∧
        (portOf t p).credit = (portOf s p).credit ∧ (portOf t p).retry = (portOf s p).retry ∧ (portOf t p).rxseq = (portOf s p).rxseq ∧
        (portOf t p).fails = (portOf s p).fails) ∧
    (pst s p = 2 → (portOf s p).again = 0 → flitCrc (f.toNat % 2 ^ 1984) = f.extractLsb' 1984 64 → f.extractLsb' 12 4 = 1 → f.getLsbD 28 = false →
      (portOf s p).fails < 9 → f.extractLsb' 0 12 = (portOf s p).rxseq → (pHdr hdr).flt = 1 → pktLost u hdr = false →
      exec (.flitReceive p f) s = .next (noteBack (pump (receivePkt u hdr (f.extractLsb' 320 512))) p true))) ∧
  (∀ hdr data, let h := pHdr hdr
    let w := winOf s h.spkg false
    h.dpkg = s.pkg.toNat → malformed hdr = false → h.kind = 1 → h.unord = false → pktLost s hdr = false →
    ∃ t, exec (.packetReceive hdr data) s = .next t ∧
      (h.seq = w.exp.toNat → switching s h.addr = false → (∀ a, refGoal s h = some a → paPkg a = s.pkg.toNat) →
        let d := (refGoal s h).getD h.addr
        rowAt t d = data ∧ poisoned t d = carriesPoison h ∧ (winOf t h.spkg false).exp = w.exp + 1) ∧
      (h.seq = w.exp.toNat → switching s h.addr = true → t.mem = s.mem ∧ (winOf t h.spkg false).exp = w.exp) ∧
      (h.seq ≠ w.exp.toNat → t.mem = s.mem ∧ (winOf t h.spkg false).exp = w.exp)) ∧
  (∀ hdr data, let h := pHdr hdr
    let t := logPkg s { kind := 0x15, trap := 0, sev := 0, out := 0, core := 0, side := false, node := 0, addr := 0,
                        aux := h.spkg + 2 ^ 8 * h.kind + if h.kind = 0 ∨ 8 < h.kind then 0 else 2 ^ 12 }
    h.dpkg = s.pkg.toNat → malformed hdr = true →
      exec (.packetReceive hdr data) s = .next t ∧ exec (.ackReceive hdr data) s = .next t) ∧
  (∀ hdr data x id r, let h := pHdr hdr
    let y := pHdr x.hdr
    h.dpkg = s.pkg.toNat → malformed hdr = false → h.kind = 7 → s.fab.retry = [x] → x.gone = true → y.kind = 1 →
    y.dpkg = h.spkg → y.unord = h.unord → 2 ^ 15 ≤ (BitVec.ofNat 16 y.seq - BitVec.ofNat 16 h.seq).toNat → x.req = some id →
    (archOf s x.core).reqs.find? (fun q => q.id == id) = some r → r.op = .store →
    ∃ t, exec (.ackReceive hdr data) s = .next t ∧ t.fab.retry = [] ∧ t.mem = s.mem ∧ (∀ q ∈ (archOf t x.core).reqs, q.id ≠ id) ∧
      SameCores s t x.core) ∧
  (∀ hdr data x p, let h := pHdr hdr
    let y := pHdr x.hdr
    h.dpkg = s.pkg.toNat → malformed hdr = false → h.kind = 7 → h.unord = false → h.opd = 1 → s.fab.out = [] → s.fab.retry = [x] →
    x.sent = true → x.gone = true → x.refd = false → y.kind ≠ 3 → y.dpkg = h.spkg → y.unord = false →
    (BitVec.ofNat 16 y.seq - BitVec.ofNat 16 h.seq).toNat < 2 ^ 15 → portFor s y = some p →
    ∃ t, exec (.ackReceive hdr data) s = .next t ∧ still t ∧ t.fab.retry = [{ x with port := some p, lost := false }] ∧
      (portOf t p).retry = (portOf s p).retry ++ [((portOf s p).txseq, mkFlit (portOf s p) x.hdr x.data)]) ∧
  (∀ pkg un x p, let y := pHdr x.hdr
    let routed := { s with fab := { s.fab with rt := tput s.fab.rt pkg (tget 0 s.fab.rt pkg &&& 0x80000000BFBFBFBF) } }
    let sent := fun (t : State) => still t ∧
      t.fab.retry = [{ x with sent := true, gone := true, refd := false, port := some p, lost := false }] ∧
      (portOf t p).retry = (portOf s p).retry ++ [((portOf s p).txseq, mkFlit (portOf s p) x.hdr x.data)] ∧
      (portOf t p).txseq = (portOf s p).txseq + 1 ∧ (portOf t p).credit = (portOf s p).credit - 1
    s.fab.out = [] → s.fab.retry = [x] → y.dpkg = pkg → y.unord = un → portFor s y = some p →
    (x.refd = false → ∃ t, exec (.retransmitTimeout pkg un) s = .next t ∧ sent t) ∧
    (x.sent = false → ∃ t, exec (.refusalReplay pkg un) s = .next t ∧ sent t) ∧
    (x.refd = false → x.lost = true → x.gone = true → pkg < 256 → s.hub.rdy.getLsbD 3 = true → portFor routed y = some p →
      ∃ t, exec (.routeInstall pkg (tget 0 s.fab.rt pkg)) s = .next t ∧ sent t)) ∧
  (∀ pkg < 256, ∀ rt : Word, empty → s.hub.rdy.getLsbD 3 = true → ∃ t, exec (.routeInstall pkg rt) s = .next t ∧ still t ∧
    tget 0 t.fab.rt pkg = rt &&& 0x80000000BFBFBFBF ∧ ∀ k, k ≠ pkg → tget 0 t.fab.rt k = tget 0 s.fab.rt k) ∧
  (s.can.norec = true → ∀ n f, exec (.secondTierPortTrain n f) s = .next s) ∧
  (s.can.norec = false → ∀ n < 8, (∃ t, exec (.secondTierPortTrain n .supported) s = .next t ∧ t.hub.rdy.getLsbD (32 + n) = true ∧ t.mem = s.mem ∧
      ∀ b, b ≠ 32 + n → t.hub.rdy.getLsbD b = s.hub.rdy.getLsbD b) ∧
    ∀ f, f ≠ .supported → ∃ t, exec (.secondTierPortTrain n f) s = .next t ∧ t.hub.rdy.getLsbD (32 + n) = false ∧
      (∀ b, b ≠ 32 + n → t.hub.rdy.getLsbD b = s.hub.rdy.getLsbD b) ∧ t.cores = s.cores) ∧
  (∀ d (w0 w1 : Word), (d < 16 → tdecOk s d w0 w1 = true → ∃ t, exec (.tdecWrite d w0 w1) s = .next t ∧ still t ∧
      tget (0, 0) t.fab.tdec d = (w0 &&& 0x800000000001FFFF, w1 &&& 0xFFF1FFFF) ∧
      ∀ k, k ≠ d → tget (0, 0) t.fab.tdec k = tget (0, 0) s.fab.tdec k) ∧
    (tdecOk s d w0 w1 = false → exec (.tdecWrite d w0 w1) s = .next s))

/-- R377, R395, R426 to R436, R441, R442, R446: a canopy period falls due once in a million hub ticks; its sensors are read, then it takes the
pending command and writes every rail's target, its intervals at least what the slope limits allow; a target takes effect in the next
hub tick, a gate with it; a gated rail goes off; the boot ROM finds a valid record and verifies the images; a function reports, a stack's
regions become resident, a stack that fails takes them away; sensors are read; a partition register is written or the write discarded; a
halt takes every context down; a reset puts everything back but the record in flash and the second tier; the mailbox commands have their
effect and their result. The model's choices: which events the firmware of the canopy sends and when, and its policy (log 10, DESIGN
CHOICE); the parts of a period and which interval it writes where the package's limit is passed (log 81); memory is empty after reset and
the package's number stays (logs 4, DESIGN CHOICE, and 65); what the record held when the module shipped (log 7, DESIGN CHOICE); the
signatures and the report's hashes (log 8); the regions of a stack (log 82); the address of a report and what a retirement appends
(log 83); the answer to a command that waits for a canopy that never runs (log 88). -/
def Obligations.CanopyAndPackage : Prop := ∀ (s : State), Inv s →
  let envs := fun (t : State) (i : Nat) => ((railReg t i).extractLsb' 0 6).toNat
  (∀ p, s.can.due = false → s.can.read = false → exec (.canopyPeriod p) s = .next s) ∧
  (∀ p, s.can.due = true → ∃ t, exec (.canopyPeriod p) s = .next t ∧ t.can.due = false ∧ t.can.read = true ∧ t.cores = s.cores ∧
    t.can.turn = s.can.turn ∧ t.can.mpend = s.can.mpend ∧ t.can.mres = s.can.mres ∧ t.can.islt = s.can.islt ∧ t.can.tgts = s.can.tgts ∧
    (thr s 40 ≤ thr s 32 → ∀ z ∈ p.temps, z.1 < 512 → ((thr s 40 : Int) * 8 ≤ z.2 → z.1 / 8 ∈ t.can.throt) ∧
      ((thr s 32 : Int) * 8 ≤ z.2 → z.1 / 8 ∈ t.can.trip))) ∧
  (∀ p, s.can.due = false → s.can.read = true → ∃ t, exec (.canopyPeriod p) s = .next t ∧ t.can.due = false ∧ t.can.read = false ∧
    t.can.turn = false ∧ t.cores = s.cores ∧ t.can.islt = s.can.islt ∧ t.can.rrt = s.can.rrt ∧
    (s.can.turn = false → t.can.mres = s.can.mres ∧ t.can.mpend = s.can.mpend ∧ t.can.mres1 = s.can.mres1) ∧
    (s.can.turn = true → s.can.mpend = true → t.can.mpend = false ∨ t.can.mres1 = some 0) ∧
    (p.teleMiss = true → t.health.ring.lost = s.health.ring.lost + 9 ∧ t.health.ring.head = s.health.ring.head) ∧
    (p.missed = 0 → ∃ (pre : List (Nat × Word)) (w : Nat → Word), t.can.tgts = s.can.tgts ++ pre ++ (List.range 72).map (fun i => (i, w i)) ∧
      (∀ i < 72, ((w i).extractLsb' 0 6).toNat ≤ 40) ∧
      (∀ i < 64, ∀ lo, lo = 32 ∨ lo = 48 → let gap := ((w i).extractLsb' lo 16).toNat
        (slopeOf t i = 0 → gap = 0) ∧ (slopeOf t i ≠ 0 → Min.min 65535 (cdiv (stepOf t) (slopeOf t i)) ≤ gap)) ∧
      ∀ i < 64, let gt := t.can.gated.contains i || t.can.trip.contains i
        (w i).getLsbD 7 = gt ∧ (gt = true → (w i).extractLsb' 24 8 = 0))) ∧
  (∀ i (w : Word), i < 72 → s.can.tgts = [(i, w)] → ∃ t, exec .chainTick s = .next t ∧ t.hub.htck = s.hub.htck + 1 ∧ t.can.tgts = [] ∧
    t.can.mres1 = none ∧ (∀ r, s.can.mres1 = some r → t.can.mres = BitVec.ofNat 64 (2 ^ 63 + r) ∧ t.can.mpend = false) ∧
    let v := railReg t i
    let e := (w.extractLsb' 0 6).toNat
    (40 < e → envs t i = envs s i) ∧ (e ≤ 40 → envs t i = (if e < 18 ∧ fullOn s i then 18 else e) ∧ v.extractLsb' 32 32 = w.extractLsb' 32 32 ∧
      (i < 64 → v.extractLsb' 24 8 = w.extractLsb' 24 8 ∧ v.getLsbD 7 = w.getLsbD 7 ∧
        (w.getLsbD 7 = true → (isltOf s i).getLsbD 7 = false →
          ∀ c ∈ railCores s i, (archOf s c).task.isSome = true → SaveCause.gate ∈ (archOf t c).preq) ∧
        (w.getLsbD 7 = false → (isltOf s i).getLsbD 7 = true → (∀ c ∈ railCores s i, SaveCause.gate ∉ (archOf t c).preq) ∧
          ((isltOf s i).getLsbD 6 = true → ∀ c ∈ islandCores i, (archOf t c).vcode = envs t i))))) ∧
  (∀ i, (isltOf s i).getLsbD 7 = true → (∀ c ∈ railCores s i, (archOf s c).task = none) →
    ∃ t, exec (.islandRailOff i) s = .next t ∧ t.mem = s.mem ∧ t.cores = s.cores ∧ (i < 64 → (isltOf t i).getLsbD 6 = true)) ∧
  (∀ r, (s.can.recd = true ∨ s.can.norec = true → exec (.functionReady 40 r) s = .next s) ∧
    (s.can.recd = false → ∀ bit, bit ≠ 40 → exec (.functionReady bit r) s = .next s) ∧
    (s.can.recd = false → s.can.norec = false →
      let a := flashOf s 0
      let b := flashOf s 1
      let okA := a.mag = 0x31474643 ∧ r.rsa = true ∧ r.slh = true
      let okB := b.mag = 0x31474643 ∧ r.rsa1 = true ∧ r.slh1 = true
      ∃ t, exec (.functionReady 40 r) s = .next t ∧ t = { s with can := t.can } ∧
        (okA → (okB → b.ver.toNat ≤ a.ver.toNat) → t.can.recd = true ∧ flashOf t 0 = a ∧ flashOf t 1 = a) ∧
        (okB → (okA → a.ver.toNat < b.ver.toNat) → t.can.recd = true ∧ flashOf t 0 = b ∧ flashOf t 1 = b) ∧
        (¬okA → ¬okB → t.can.recd = false ∧ t.can.norec = true ∧ t.can.mpend = false ∧
          (s.can.mpend = true → t.can.mres = 0x8000000000000001))) ∧
    (∀ k < 3, s.can.recd = true → (∀ x ∈ s.can.imgs, x.1 ≠ k) → (∀ i < k, ∃ x ∈ s.can.imgs, x.1 = i) →
      let ok := r.rsa && r.slh && decide ((recOf s).minf.toNat ≤ r.ver.toNat)
      ∃ t, exec (.functionReady (41 + k) r) s = .next t ∧ t.mem = s.mem ∧ t.cores = s.cores ∧ t.hub.rdy = s.hub.rdy ∧
        tget false t.can.imgs k = ok ∧ (ok = true → t = { s with can := t.can }) ∧
        (ok = false → (∀ bit < 4, imageNo bit = k → s.hub.rdy.getLsbD bit = false → t.hub.rfl.getLsbD bit = true) ∧
          (k = 0 → t.can.mpend = false ∧ (s.can.mpend = true → t.can.mres = 0x8000000000000001))))) ∧
  (∀ bit < 32, (bit < 4 ∨ 8 ≤ bit) → s.can.recd = true → ∀ r,
    let sst := fun (t : State) => (tget 0 t.health.shlt (bit - 16)).extractLsb' 0 2
    let regs := if 16 ≤ bit then newRegions s (setFld s.hub.rdy bit 1 1) (bit - 16) else []
    let fresh := s.hub.rdy.getLsbD bit = false ∧ s.hub.rfl.getLsbD bit = false
    (fresh → r.ok = true → bit ≠ 2 → bit ≠ 3 → (bit < 4 → tget false s.can.imgs (imageNo bit) = true) →
      (8 ≤ bit → bit < 16 → s.hub.rdy.getLsbD 0 = true) → ∃ t, exec (.functionReady bit r) s = .next t ∧ t.hub.rfl = s.hub.rfl ∧
      (regs = [] → t.mem = s.mem ∧ t.cores = s.cores) ∧
      (∀ ctx reg, regs = [(ctx, reg)] → ∀ c, (archOf s c).task.map (·.ctx) = some ctx → ∀ z ∈ (archOf t c).tab, z.2.reg = reg → z.2.res = 0) ∧
      (16 ≤ bit → sst t = 1) ∧ ∀ b, t.hub.rdy.getLsbD b = (s.hub.rdy.getLsbD b || b == bit)) ∧
    (8 ≤ bit → bit < 16 → r.ok = true → s.hub.rdy.getLsbD 0 = false → exec (.functionReady bit r) s = .next s) ∧
    (bit < 4 → (r.ok = false ∨ tget false s.can.imgs (imageNo bit) = false) → exec (.functionReady bit r) s = .next s) ∧
    (fresh → 8 ≤ bit → r.ok = false → ∃ t, exec (.functionReady bit r) s = .next t ∧ t.mem = s.mem ∧ t.cores = s.cores ∧ t.hub.rdy = s.hub.rdy ∧
      (16 ≤ bit → sst t = 2) ∧ ∀ b, t.hub.rfl.getLsbD b = (s.hub.rfl.getLsbD b || b == bit)) ∧
    (s.hub.rdy.getLsbD bit = true → 16 ≤ bit → r.ok = false → ∃ t, exec (.functionReady bit r) s = .next t ∧ sst t = 2 ∧
      t.hub.rdy.getLsbD bit = false ∧ t.hub.rfl.getLsbD bit = true ∧ ∀ y ∈ stackRegions s (bit - 16),
        ∀ c, (archOf s c).task.map (·.ctx) = some y.1 → ∀ z ∈ (archOf t c).tab, z.2.reg = y.2 → z.2.res = 1)) ∧
  (∀ l, ∃ t, exec (.thermalSample l) s = .next t ∧ t = { s with health := t.health } ∧ t.health.temps = l ∧
    (l = [] → t.health.tmx = 0) ∧ (l ≠ [] → ∃ y ∈ l, (∀ z ∈ l, z.2 ≤ y.2) ∧
      t.health.tmx = BitVec.ofNat 64 (wrapN 16 y.2 * 2 ^ 32 + y.1 % 512 * 2 ^ 16 + 1))) ∧
  (∀ p (v : Word), let others := s.hub.part.filter (fun x => x.1 != p && x.2.getLsbD 63)
    let shares := others.foldl (fun a x => a + (x.2.extractLsb' 0 8).toNat) (v.extractLsb' 0 8).toNat
    (p < 8 → (∀ c ∈ s.hub.ctxs, c.2.state ≠ 1 ∨ recN c.2.record 0 1 ≠ p) →
      (v.getLsbD 63 = false ∨ shares ≤ 64) → (∀ x ∈ others, x.2 &&& v &&& 0xFF00 = 0) →
      ∃ t, exec (.partWrite p v) s = .next t ∧ tget 0 t.hub.part p = v &&& 0x800000000000FFFF ∧ t.mem = s.mem ∧ t.cores = s.cores) ∧
    (((v.getLsbD 63 = true ∧ 64 < shares) ∨ ∃ x ∈ others, x.2 &&& v &&& 0xFF00 ≠ 0) → exec (.partWrite p v) s = .next s)) ∧
  (let fresh := fun (t : State) => t.hub = Hub.reset ∧ t.cores = [] ∧ t.net = [] ∧ t.fab = State.reset.fab ∧
      t.mem = s.mem.filter (fun x => paSpace x.1 == 2) ∧ t.poison = s.poison.filter (fun r => paSpace (64 * r) == 2) ∧
      t.health = State.reset.health ∧ t.pkg = s.pkg ∧ t.can = { State.reset.can with flash := s.can.flash };
    (∃ t, exec (.packageReset 0xC1EA) s = .next t ∧ fresh t) ∧ (∃ t, exec .powerOn s = .next t ∧ fresh t) ∧
    ∀ v, v ≠ 0xC1EA → exec (.packageReset v) s = .next s) ∧
  (∃ t, exec .packageHalt s = .next t ∧ t.hub.halted = true ∧
    ∀ c, (ctxOf s c).state = 1 → (ctxOf t c).state = 2 ∧ (ctxOf t c).chain = none) ∧
  (s.can.turn = false ∨ s.can.read = false → ∀ i ∈ [Instr.setIslandSlope, .setPackageSlope, .setPowerLimit, .gateIsland, .ungateIsland,
    .appendRetiredRange, .attestationReport], exec i s = .next s) ∧
  (s.can.mpend = true → s.can.turn = true → s.can.read = true → mTgt s ≤ 63 →
    let i := mTgt s
    let arg := mArg s
    let done := fun (t : State) => t.can.mpend = false ∧ t.can.turn = false ∧ t.can.mres = 0x8000000000000000 ∧ t.hub = s.hub ∧
      t.cores = s.cores ∧ t.can.tgts = s.can.tgts
    let later := fun (t : State) (w : Word) => t.can.mpend = true ∧ t.can.turn = false ∧ t.can.mres1 = some 0 ∧ t.hub = s.hub ∧
      t.cores = s.cores ∧ t.can.islt = s.can.islt ∧ t.can.tgts = s.can.tgts ++ [(i, w)]
    (mCmd s = 1 → ∃ t, exec .setIslandSlope s = .next t ∧ done t ∧ tget 0 t.can.slope i = arg % 2 ^ 32) ∧
    (mCmd s = 2 → ∃ t, exec .setPackageSlope s = .next t ∧ done t ∧ t.can.pslope = some (arg % 2 ^ 32)) ∧
    (mCmd s = 3 → ∃ t, exec .setPowerLimit s = .next t ∧ done t ∧ t.can.plimit = some (arg % 2 ^ 32)) ∧
    (mCmd s = 4 → ∃ t w, exec .gateIsland s = .next t ∧ later t w ∧ i ∈ t.can.gated ∧ w.getLsbD 7 = true ∧
      w.extractLsb' 24 8 = 0 ∧ w.extractLsb' 0 6 = (isltOf s i).extractLsb' 0 6 ∧ w.extractLsb' 32 32 = (isltOf s i).extractLsb' 32 32) ∧
    (mCmd s = 5 → i ∉ s.can.trip → ∃ t w, exec .ungateIsland s = .next t ∧ later t w ∧ i ∉ t.can.gated ∧ w.getLsbD 7 = false ∧
      ∀ b, b ≠ 7 → w.getLsbD b = (isltOf s i).getLsbD b) ∧
    (mCmd s = 5 → i ∈ s.can.trip → ∃ t, exec .ungateIsland s = .next t ∧ done t ∧ i ∉ t.can.gated) ∧
    (mCmd s = 6 → ∃ t, exec .appendRetiredRange s = .next t ∧ done t ∧
      ∀ n < 2, flashOf t n = { flashOf s n with retire := (flashOf s n).retire ++ [BitVec.ofNat 48 arg] }) ∧
    (mCmd s = 16 → let a := s.pkg.toNat * 2 ^ 48 + arg
      arg % 64 = 0 → paSpace a = 1 → storageOk s a = true → storageOk s (a + 8767) = true →
      ∃ t, exec .attestationReport s = .next t ∧ done t ∧ rowAt t a = (reportBody s).setWidth 512))

/-- R5, R289, R325, R376, R379, R390, R391, R399, R421, R431, R436, R438, R443: the acknowledgment registers of the rings; what a
scrub finds; the host's accesses, AtomicOps, register and intake writes. The model's choices: when a scrub runs (log 9, DESIGN
CHOICE); a scrub of an address that names no storage is a fault of the model (log 92, DEDUCED); one scrub counts once in a stack's
register (log 86); which acknowledgments and register writes are discarded (log 87); what a busy or absent canopy answers a mailbox
write (log 88); which host ranges count as absent (log 91); an AtomicOp on a poisoned row (log 68) and the record of a rejected one (log
21, DESIGN CHOICE); how BAR0 hands its words to the events that write them (log 94); the dirty bitmap as the host reads it (log 79). -/
def Obligations.RingsScrubsAndHost : Prop := ∀ (s : State), Inv s →
  (∀ ctx (v : BitVec 32), let x := ctxOf s ctx
    (x.state ≠ 0 → (x.erhead - v).toNat ≤ recN x.record 48 4 → ∃ t, exec (.erackWrite ctx v) s = .next t ∧
      ctxOf t ctx = { x with erack := v } ∧ t.mem = s.mem ∧ t.cores = s.cores) ∧
    (recN x.record 48 4 < (x.erhead - v).toNat → exec (.erackWrite ctx v) s = .next s)) ∧
  (∀ v : BitVec 32, let r := s.hub.ring
    ((r.head - v).toNat ≤ r.n.toNat →
      exec (.peackWrite v) s = .next { s with hub := { s.hub with ring := { r with ack := v } } }) ∧
    (r.n.toNat < (r.head - v).toNat → exec (.peackWrite v) s = .next s)) ∧
  (∀ v : BitVec 32, let r := s.health.ring
    ((r.head - v).toNat ≤ r.n.toNat →
      exec (.tlackWrite v) s = .next { s with health := { s.health with ring := { r with ack := v } } }) ∧
    (r.n.toNat < (r.head - v).toNat → exec (.tlackWrite v) s = .next s)) ∧
  (∀ pa, paPkg pa = s.pkg.toNat →
    let logged := fun (t : State) => if s.hub.ring.n = 0 ∨ s.hub.ring.head - s.hub.ring.ack = s.hub.ring.n
      then t.hub.ring.lost = s.hub.ring.lost + 1 ∧ t.mem = s.mem else t.hub.ring.head = s.hub.ring.head + 1
    let go := fun (i : ScrubRead → Instr) =>
      (storageOk s pa = false → ∀ f, exec (i f) s = .fault (.noStorage pa)) ∧
      (storageOk s pa = true → (∃ t, exec (i .clean) s = .next t ∧ t.mem = s.mem ∧ t.poison = s.poison ∧ t.hub = s.hub) ∧
        (∀ n, ∃ t, exec (i (.corrected n)) s = .next t ∧ t.poison = s.poison ∧ t.cores = s.cores ∧ logged t) ∧
        (marked s pa = false → ∃ t, exec (i .uncorrectable) s = .next t ∧ marked t pa = true ∧ t.cores = s.cores ∧ logged t) ∧
        (marked s pa = true → ∃ t, exec (i .uncorrectable) s = .next t ∧ t.poison = s.poison ∧ t.mem = s.mem))
    (paSpace pa = 0 → go (.sramScrub pa)) ∧ (paSpace pa = 1 → go (.hbmScrub pa)) ∧
    (paSpace pa = 1 → storageOk s pa = true → let w := fun (t : State) => tget 0 t.health.shlt (paStack pa)
      (∀ n, ∃ t, exec (.hbmScrub pa (.corrected n)) s = .next t ∧
        ((w t).extractLsb' 32 32).toNat = Min.min (2 ^ 32 - 1) (((w s).extractLsb' 32 32).toNat + 1)) ∧
      (marked s pa = false → ∃ t, exec (.hbmScrub pa .uncorrectable) s = .next t ∧
        ((w t).extractLsb' 24 8).toNat = Min.min 255 (((w s).extractLsb' 24 8).toNat + 1)))) ∧
  (∀ a : HostAccess, s.can.norec = true → a.region ≠ .bar0 → (∀ l, a.region ≠ .image l) →
    exec (.hostMemoryAccess a) s = .next { s with replies := [] }) ∧
  (∀ a : HostAccess, s.can.norec = false → a.region = .hbm ∨ a.region = .sram → let pa := hostPa s a
    (hostOk s a = false → ∃ t, exec (.hostMemoryAccess a) s = .next t ∧ t.cores = s.cores ∧ t.poison = s.poison ∧
      t.replies = [if a.write then .done else .data (List.replicate a.len 0xFF) false]) ∧
    (hostOk s a = true → heldBy s (.access a) = none →
      (a.write = false → ∃ t, exec (.hostMemoryAccess a) s = .next t ∧ (s.flaws = [] → t.mem = s.mem) ∧ t.cores = s.cores ∧
        (∀ r, spanRows pa a.len = [r] → s.flaws.contains (canon r / 64) = true → 
          let e : ErrRec := ⟨3, 0, 2, 0, 0, false, 0, 0, rowBase r⟩
          t = { logPkg (meetError s r) e with replies := t.replies }) ∧
        (∀ r ∈ spanRows pa a.len, poisoned s r = true → marked t r = true) ∧
        ∃ l, t.replies = [.data l ((spanRows pa a.len).any (poisoned s))] ∧ l.length = a.len ∧
          ∀ i < a.len, l[i]? = some ((bitmapByte s (pa + i)).getD (cellAt s.mem (canon (pa + i))))) ∧
      (a.write = true → pa % 64 + a.data.length ≤ 64 →
        let b := canon (rowBase pa) + pa % 64
        let mask := (hostPart s pa a.data (rowBase pa)).2
        let u := if mask = 0 then s else noteFound s (rowBase pa) mask.toNat
        (s.flaws = [] → u = s) ∧ ∃ t, exec (.hostMemoryAccess a) s = .next t ∧ t.replies = [.done] ∧
          (∀ i v, a.data[i]? = some v → cellAt t.mem (b + i) = if shadowRO s (pa + i) then cellAt u.mem (b + i) else v) ∧
          ∀ c, ¬(b ≤ c ∧ c < b + a.data.length) → cellAt t.mem c = cellAt u.mem c)) ∧
    (∀ m, hostOk s a = true → heldBy s (.access a) = some m → ∃ t, exec (.hostMemoryAccess a) s = .next t ∧ t.mem = s.mem ∧
      t.replies = [] ∧ (migOf t m).held = (migOf s m).held ++ [.access a])) ∧
  (∀ a : HostAccess, a.region = .bar0 →
    (regAnswers s a.off = false → ∃ t, exec (.hostMemoryAccess a) s = .next t ∧ t = { s with replies := t.replies }) ∧
    (regAnswers s a.off = true → a.write = false → ∃ l, exec (.hostMemoryAccess a) s = .next { s with replies := [.data l false] } ∧
      l = (List.range 8).map (fun i => (readReg s a.off).extractLsb' (8 * i) 8)) ∧
    (regAnswers s a.off = true → a.write = true → ∀ v : Word, a.data = (List.range 8).map (fun i => v.extractLsb' (8 * i) 8) →
      let u := { s with replies := [.done] }
      (∀ c < 16, ∀ q < 16, a.off = 0x100000 + 0x10000 * c + 0x2000 + 64 * q →
        exec (.hostMemoryAccess a) s = exec (.intakeWrite c q (v.setWidth 512)) u) ∧
      (∀ c < 16, ∀ q < 16, ∀ k, 1 ≤ k → k < 8 → a.off = 0x100000 + 0x10000 * c + 0x2000 + 64 * q + 8 * k →
        exec (.hostMemoryAccess a) s = .next (if v = 0 then u else logDiscard u c q)) ∧
      (¬(0x100000 ≤ a.off ∧ 0x2000 ≤ a.off % 0x10000 ∧ a.off % 0x10000 < 0x2400) → writeOwn u a.off v = none → exec (.hostMemoryAccess a) s = exec (.registerWrite a.off v) u) ∧
      (a.off = 0x110 → exec (.hostMemoryAccess a) s = exec (.packageReset (v.setWidth 16)) u) ∧
      (∀ p < 8, a.off = 0x1000 + 8 * p → exec (.hostMemoryAccess a) s = exec (.partWrite p v) u) ∧
      (∀ c < 16, a.off = 0x100000 + 0x10000 * c + 16 →
        exec (.hostMemoryAccess a) s = exec (.eventCounterWrite c (v.setWidth 16) (v.extractLsb' 16 32)) u) ∧
      (∀ c < 16, a.off = 0x100000 + 0x10000 * c → v.getLsbD 1 = true → v.getLsbD 0 = false →
        exec (.hostMemoryAccess a) s = exec (.teardown c) u))) ∧
  (∀ a : HostAtomic, s.can.norec = true → exec (.hostAtomic a) s = .next { s with replies := [] }) ∧
  (∀ a : HostAtomic, s.can.norec = false → let w := wordAt s a.pa
    let lo := a.pa % 8 * 8
    let part := fun (x : Word) => x.toNat / 2 ^ lo % 2 ^ a.size
    let x := part w
    let p := a.a.toNat % 2 ^ a.size
    (hostAtomicOk s a = false → ∃ t, exec (.hostAtomic a) s = .next t ∧ t.replies = [.unsupported] ∧ t.cores = s.cores) ∧
    (hostAtomicOk s a = true → heldBy s (.atomic a) = none →
      (poisoned s a.pa = true → ∃ t l, exec (.hostAtomic a) s = .next t ∧ (s.flaws = [] → t.mem = s.mem) ∧ marked t a.pa = true ∧
        t.replies = [.data l true]) ∧
      (poisoned s a.pa = false → ∃ t l, exec (.hostAtomic a) s = .next t ∧ t.replies = [.data l false] ∧
        l.length = a.size / 8 ∧ (∀ i < a.size / 8, l[i]? = some ((bitmapByte s (a.pa + i)).getD (cellAt s.mem (canon (a.pa + i))))) ∧
        (∀ i < 8, shadowRO s (a.pa / 8 * 8 + i) = true → (wordAt t a.pa).extractLsb' (8 * i) 8 = w.extractLsb' (8 * i) 8) ∧
        ((∀ i < a.size / 8, shadowRO s (a.pa + i) = false) → part (wordAt t a.pa) = (match a.op with
          | .fetchAdd => (x + p) % 2 ^ a.size
          | .swap => p
          | .cas => if x = p then a.b.toNat % 2 ^ a.size else x)) ∧
        (∀ b < 64, (b < lo ∨ lo + a.size ≤ b) → (wordAt t a.pa).getLsbD b = w.getLsbD b) ∧
        ∀ c, ¬(canon (a.pa / 8 * 8) ≤ c ∧ c < canon (a.pa / 8 * 8) + 8) → cellAt t.mem c = cellAt s.mem c))) ∧
  (∀ (off : Nat) (v : Word), (off % 8 ≠ 0 ∨ 0x200000 ≤ off ∨ regAnswers s off = false) → exec (.registerWrite off v) s = .next s) ∧
  (∀ v : Word,
    (s.can.mpend = false → s.hub.rfl.getLsbD 0 = false → s.can.norec = false → ∃ t, exec (.registerWrite 0x6000 v) s = .next t ∧
      t = { s with can := { s.can with mcmd := v, mpend := true, mres := 0 } }) ∧
    (s.can.mpend = true → ∃ t, exec (.registerWrite 0x6000 v) s = .next t ∧
      t = { s with can := { s.can with mres := 0x8000000000000002 } }) ∧
    (∃ t, exec (.registerWrite 0x6010 v) s = .next t ∧ t.can.mnon.extractLsb' 0 64 = v ∧
      t.can.mnon.extractLsb' 64 64 = s.can.mnon.extractLsb' 64 64 ∧ t.mem = s.mem ∧ t.cores = s.cores) ∧
    (s.can.norec = true → s.can.mpend = false → ∃ t, exec (.registerWrite 0x6000 v) s = .next t ∧ t.can.mres = 0x8000000000000001) ∧
    ∀ ctx < 16, ∀ q < 16, s.can.norec = false → ∃ t, exec (.registerWrite (0x100000 + 0x10000 * ctx + 0x1000 + 64 * q + 8) v) s = .next t ∧
      queueOf t ctx q = { queueOf s ctx q with int := v.getLsbD 2, kind := v.getLsbD 1, en := v.getLsbD 0 } ∧ t.mem = s.mem ∧
      t.cores = s.cores)

/-- R150 to R152, R259, R265, R273, R297, R359, R415, R418 to R420, R422 to R425: a majority operation leaves its row on the members that take writes; a repair
and a walk bring the copies up to the newest; members go down and rejoin; a migration starts, copies, switches, fails and is
reset, its dirty rows as the host reads them; a load allocates the lowest free set with fresh cells, gives every core the argument rows
at entry 255, refuses unsigned code where the context requires it, and answers with its identifier or fails whole. Which members
answer first is open (log 19, DESIGN CHOICE). The model's choices: the phases of a migration, the bitmap that stands in no memory of its
own, and rows for another package (log 79, DEDUCED); the newest copy of a tie (log 64); a majority store, a repair and a walk each in one
step (log 80); which states firmware may write of a member (log 81); the image load as one step, with the text checks in the host's
software (log 100). -/
def Obligations.MajorityAndMigration : Prop := ∀ (s : State), Inv s →
  (∀ (k : Sid) (load : Bool) (o : SmF) (pa own : Nat) (i j : Nat × TEntry),
    let set := mjSet pa
    let cell := cellOf pa
    let m := mjsOf s set
    (strmOf s k).stage = 8 → (strmOf s k).mjok = none → mayAct s k = true → (coreOf s k.core).roll = [] →
    allDone s k = true →
    majoritySlot s k = some (load, o) →
    access s k.core { askLoad with wr := true, timed := false, coreWr := true, major := true } ((strmOf s k).reg o.sa) =
      .ok (i.1, i.2, pa) →
    access s k.core (if load then { askStore with own := true } else { askLoad with timed := false, own := true })
      ((strmOf s k).reg o.sb) = .ok (j.1, j.2, own) →
    m.need ≤ (m.answers s cell).length →
    ∃ t r, exec (.majorityCompletion k) s = .next t ∧ (strmOf t k).mjok = some r ∧ (strmOf t k).s = (strmOf s k).s ∧
      (load = true → ∃ n ∈ m.answers s cell, r = rowAt s (copyPa s m cell n)) ∧
      (load = false → r.extractLsb' 0 384 = (rowAt s own).extractLsb' 0 384 ∧
        ∀ n ∈ m.takes, tagKey r ≤ tagKey (rowAt t (copyPa s m cell n)))) ∧
  (∀ set, let m := mjsOf s set
    (m.lag.find? (fun c => decide (m.need ≤ (m.answers s c).length)) = none → exec (.majorityRepair set) s = .next s) ∧
    (∀ cell, m.lag.find? (fun c => decide (m.need ≤ (m.answers s c).length)) = some cell →
      ∃ t, exec (.majorityRepair set) s = .next t ∧ (mjsOf t set).lag = m.lag.filter (· != cell) ∧ ∀ i ∈ m.takes, ∀ j ∈ m.answers s cell,
        tagKey (rowAt s (copyPa s m cell j)) ≤ tagKey (rowAt t (copyPa s m cell i))) ∧
    (m.reg.getLsbD 63 = true → let cells := (List.range m.cells).map (fun c => m.base + 64 * c)
      let can := fun (c : Nat) => decide (m.need ≤ (m.answers s c).length)
      ∃ t, exec (.majorityWalk set) s = .next t ∧ (mjsOf t set).lag = m.lag.filter (fun c => !can c) ∧
      (mjsOf t set).walk = !cells.all can ∧ (∀ c ∈ cells, can c = true → ∀ i ∈ m.takes, ∀ j ∈ m.answers s c,
        tagKey (rowAt s (copyPa s m c j)) ≤ tagKey (rowAt t (copyPa s m c i))) ∧
      ∀ i < m.n, (mjsOf t set).mem i = if m.mem i = 2 ∧ cells.all can = true ∧ m.need ≤ m.up.length then 0 else m.mem i) ∧
    (∀ i < m.n, (∃ t, exec (.majorityMemberDown set i) s = .next t ∧ (mjsOf t set).mem i = 1 ∧ t.mem = s.mem ∧
        ∀ j, j ≠ i → j < m.n → (mjsOf t set).mem j = m.mem j) ∧
      (∃ t, exec (.mhsWrite set i 2) s = .next t ∧ (mjsOf t set).mem i = 2 ∧ (mjsOf t set).walk = true ∧ t.mem = s.mem) ∧
      exec (.mhsWrite set i 3) s = .next s ∧
      (m.mem i = 1 → exec (.mhsWrite set i 0) s = .next s))) ∧
  (∀ a l, a.region = .image l →
    (loadImage s l = none → exec (.hostMemoryAccess a) s = .next { s with replies := [.loaded none] }) ∧
    (l.signed = false → (recN (ctxOf s l.ctx).record 1 1).testBit 1 = true → loadImage s l = none) ∧
    (l.signed = true → l.verifies = false → loadImage s l = none) ∧
    ((∃ p ∈ l.image.prods, recN p.2 34 1 ≠ 0) → loadImage s l = none) ∧
    ∀ n t, s.can.norec = false → loadImage s l = some (n, t) → exec (.hostMemoryAccess a) s = .next { t with replies := [.loaded (some n)] } ∧
      ((∀ i ∈ (ctxOf s l.ctx).imgs, i.1 + 1 < 2 ^ 60) → n / 2 ^ 60 = l.ctx) ∧
      ∃ i, (nextSeq (ctxOf s l.ctx), i) ∈ (ctxOf t l.ctx).imgs ∧ ∀ (k c : Nat), (standCores l.stand.toNat l.roots)[k]? = some c →
        (tmplOf i k).length ≤ 256 ∧ ((tmplOf i k).find? (fun e => e.1 == 255)).map (·.2) = some (argEntry c l.argVa l.argReg)) ∧
  (∀ r : MajReq, let valid := fun (i : Nat) => (mjsOf s i).reg.getLsbD 63
    ((∀ i < 32, valid i = true) → allocSet s r = none) ∧ (majFits s r = false → allocSet s r = none) ∧
    ∀ i < 32, valid i = false → (∀ j < i, valid j = true) → majFits s r = true →
      ∃ t, allocSet s r = some (i, t) ∧ let m := mjsOf t i
        m.reg.getLsbD 63 = true ∧ m.n = r.n ∧ m.base = r.off ∧ m.cells = r.cells ∧ (∀ k < r.n, m.mem k = 0 ∧ r.places[k]? = some (m.stack k)) ∧
        (∀ k < r.n, ∀ c < r.cells, (rowAt t (copyPa t m (r.off + 64 * c) k)).extractLsb' 384 128 = 0) ∧
        t.cores = s.cores ∧ ∀ j, j ≠ i → mjsOf t j = mjsOf s j) ∧
  (∀ m, let x := migOf s m
    let ctx := x.mctx.toNat
    let reg := x.mreg.toNat
    (m < 4 → x.mst = 0 → migCause s m x = 0 → ∃ t e, exec (.migrationStart m) s = .next t ∧
      regionEntry (ctxOf s ctx) reg = some e ∧ (migOf t m).mst = 1 ∧ (migOf t m).mpass = 0 ∧ (migOf t m).dirty = [] ∧
      (migOf t m).src0 = (e.w1.extractLsb' 0 56).toNat ∧ (migOf t m).size = 2 ^ e.lsz ∧ t.cores = s.cores) ∧
    (m < 4 → x.mst = 0 → migCause s m x ≠ 0 → ∃ t, exec (.migrationStart m) s = .next t ∧ t.hub.migs = s.hub.migs ∧
      t.cores = s.cores) ∧
    (m < 4 → 1 ≤ x.mst → x.mst ≤ 4 → s.hub.marea.toNat % 2 ^ 25 = 0 → ∀ r < 2 ^ 26,
      (hostByte s (s.hub.marea.toNat + 2 ^ 23 * m + r / 8)).getLsbD (r % 8) = x.dirty.contains r) ∧
    (x.mst = 5 ∨ x.mst = 6 → ∃ t, exec (.migrationReset m) s = .next t ∧ (migOf t m).mst = 0 ∧ t.mem = s.mem ∧ t.cores = s.cores) ∧
    let res := fun (t : State) (r : Nat) => ∀ c, (archOf t c).task.map (·.ctx) = some ctx → ∀ z ∈ (archOf t c).tab, z.2.reg = reg → z.2.res = r
    ((ctxOf s ctx).state = 1 →
      (x.mst = 1 → ∃ t, exec (.migrationPhase m false) s = .next t ∧ (migOf t m).mst = 2 ∧ res t 2) ∧
      (x.mst = 2 → ∃ t, exec (.migrationPhase m false) s = .next t ∧ (migOf t m).mst = 3 ∧ t.mem = s.mem) ∧
      (x.mst = 3 → ∃ t, exec (.migrationPhase m false) s = .next t ∧ (migOf t m).mpass = x.mpass + 1 ∧
        (migOf t m).mst = if x.dirty = [] ∨ 8 ≤ x.mpass + 1 then 4 else 3) ∧
      (x.mst = 4 → sourceBusy s x = true ∨ rowsOut s m = true → exec (.migrationPhase m false) s = .next s) ∧
      (x.mst = 4 → sourceBusy s x = false → rowsOut s m = false → (x.dirty = [] ∨ ∀ a ∈ x.spans, paPkg a = s.pkg.toNat) → x.held = [] → ∃ t, exec (.migrationPhase m false) s = .next t ∧ (migOf t m).mst = 5 ∧
        res t 0 ∧ ∀ c, (archOf t c).task.map (·.ctx) = some ctx → ∀ z ∈ (archOf t c).tab, z.2.reg = reg →
          z.2.w1 = x.mds0.setWidth 64)) ∧
    (1 ≤ x.mst → x.mst ≤ 4 → x.held = [] → ∃ t, exec (.migrationPhase m true) s = .next t ∧ (migOf t m).mst = 6 ∧
      (migOf t m).dirty = []))

/-- R3, R69, R87 to R129: what no computing slot touches: a well-formed `SC` or `VA` instruction that issues puts operations in
flight and changes nothing else: no register of another stream, no flag, no special register, no byte of memory. -/
def Obligations.ComputeFrame : Prop := ∀ (i : Instr) (h : Slot) (s t : State), i.slot? = some h → i.wf = true →
  (h.isSc = true ∨ h.isVa = true) → exec i s = .next t → OnlyComputes s t

/-- R53, R57, R59, R83: a step takes the first event of the agenda (log 3), or what comes by itself; a bundle whose slots meet
no trap and no wait commits the effects of all of them on the state before it; of one slot these are what `exec` gives for
the instruction its word decodes to. A vector that an `smv` could not take yet is taken before the bundle (log 43, DEDUCED). -/
def Obligations.StepRunsTheDecodedInstruction : Prop :=
  (∀ s e l, s.agenda = e :: l → step s = exec e { s with agenda := l }) ∧
  (∀ s, s.agenda = [] → step s = exec (auto s) s) ∧
  ∀ (s0 : State) (k : Sid) (b : Fetched),
    let s := { captureSmv s0 k.core with focus := k }
    let x := strmOf s k
    let p := atBundle s k b
    let clear := mayAct s k = true ∧ boundary s k = none ∧ x.anyDue = false ∧ x.tabAt = none ∧ (∀ u ∈ s.upsets, u.1 ≠ k) ∧ (k.side = true ∨ x.resto = false) ∧ x.due = .bundle ∧
      fetchBundle s k.core x.pc = .ok b ∧ b.slots ≠ [] ∧ badHeader s k b = false ∧ badSlot p b = none ∧ badShape b = false ∧
      tooHeavy s k b = false ∧ limiterHolds s k b = false ∧ waitHold x b.hdr = none ∧ popsEmpty s k b.hdr = false ∧
      sameRow p b.instrs = false ∧ collide p b.instrs = false ∧ undClash p b.instrs = false ∧ popsAfter p b.instrs = false ∧ votes p b.instrs = ([], none)
    let goes := fun (u : State) => exec (.bundle { k := k, ups := [] }) s0 =
      .next (takeDrops (commit p (dropUpsets u k) k b b.instrs) (nodeIds s k.core).1)
    clear →
    (∀ f, foldBundle p p b.instrs = f → f.low = none → f.trap = none → f.high = none → f.last = none → f.check = false →
      goes f.s) ∧
    (∀ h i t, b.slots = [(h.pos, .ok i)] → i.slot? = some h → (archOf s k.core).main.pipe.rep = none →
      (archOf s k.core).main.pipe.nest = none → runSlot h (slotIssue i) p p = .ok t → exec i p = .next t ∧ goes t)

/-- R54, R64, R69 to R79, R84: words laid out from the formats and maps, one of each slot class and of each format, decode to
what they stand for; an unlisted opcode, a `nop` with another bit set and a field outside its values are refused by name. -/
def Obligations.DecodeWords : Prop :=
  decodeSlot 0 0x000461100000 = .ok (.add ⟨0, false, 0, false⟩ ⟨3, 1, 2, 0, 0, 0, 0, 0⟩) ∧
  decodeSlot 1 0x140CA5FFFFFF = .ok (.addi ⟨1, false, 2, true⟩ ⟨5, 5, 0xFFFFFF⟩) ∧
  decodeSlot 0 0x0078FFFFFFFF = .ok (.movi ⟨0, false, 0, false⟩ ⟨7, 0x1FFFFFFF⟩) ∧
  decodeSlot 3 0x000807FFFFD0 = .ok (.brf ⟨3, false, 0, false⟩ ⟨0, 3, 1, 0xFFFFD0⟩) ∧
  decodeSlot 3 0x00140400FFFA = .ok (.jmp ⟨3, false, 0, false⟩ ⟨0, 4, 0, 0xFFFA⟩) ∧
  decodeSlot 3 0x0033FFF00009 = .ok (.loopi ⟨3, false, 0, false⟩ ⟨1, 8191, 9⟩) ∧
  decodeSlot 2 0x001CC24FF552 = .ok (.aadd ⟨2, false, 0, false⟩ ⟨6, 2, 9, 0x1FD, 5, 4, 2⟩) ∧
  decodeSlot 4 0x0017F0514D08 = .ok (.vfma ⟨4, false, 0, false⟩ ⟨31, 32, 40, 41, 5, 0, 2, 0, 0⟩) ∧
  decodeSlot 12 0x001123800748 = .ok (.vldt ⟨12, false, 0, false⟩ ⟨9, 3, 0x800, 7, 2, 1, 0⟩) ∧
  decodeSlot 20 0x0008BC815F80 = .ok (.mma ⟨20, false, 0, false⟩ ⟨2, 1, 3, 1, 4, 0x15F80⟩) ∧
  decodeSlot 21 0x000460000000 = .ok (.cpy ⟨21, false, 0, false⟩ ⟨1, 1, 0, 0, 0, 0⟩) ∧
  decodeSlot 22 0x000440C00000 = .ok (.txp ⟨22, false, 0, false⟩ ⟨1, 0, 0, 0, 6, 0⟩) ∧
  decodeSlot 23 0x0008C0080004 = .ok (.hadv ⟨23, false, 0, false⟩ ⟨3, 0, 0, 4096, 0, 1, 0⟩) ∧
  decodeSlot 0 0x000461100010 = .error .badField ∧ decodeSlot 0 0x00C800000000 = .error .unlistedOpcode ∧
  decodeSlot 7 0x800000000000 = .error .nopBits ∧
  decodeHdr 0x01AE07100005 = { z := 0, rp := true, wp := true, wf := 5, we := true, pop := 0x81, fz := true, st := true
                               pm := 0x100005 } ∧
  decodeDesc 0x18FE7EFFFF = { z := 0, plen := 102375, rrg := true, alp := 6, len := 4095, stl := true, pt := 7 }

/-- R3, R69 to R80, R84: for every slot instruction whose fields are well formed the encoder's word decodes to it, and an
event of the device has no word. -/
def Obligations.EncodeDecode : Prop := ∀ i, Laws.RoundTrip.Statement i

/-- R69 to R80, R84: a word that decodes at a position is the encoder's word of what it decodes to: no bit of a word is
dropped, and no two words stand for one instruction. -/
def Obligations.DecodeEncode : Prop := ∀ (pos : BitVec 5) (w : Parcel) (i : Instr), decodeSlot pos w = .ok i → encode i = some w

/-- R9, R221, R377, R379, R399, R400, R410, R438, R441, R446: what package reset leaves, and that it meets the invariant. That a
register without a reset value holds zero is the model's choice (log 5, DESIGN CHOICE), and so is it that no memory is written then: what HBM
and SRAM hold after power-on reads as zero (log 4, DESIGN CHOICE). -/
def Obligations.ResetInv : Prop := Inv State.reset ∧ State.reset.mem = [] ∧ State.reset.hub.rdy = 0 ∧ State.reset.hub.rfl = 0 ∧
  State.reset.hub.htck = 0 ∧ State.reset.hub.halted = false ∧ State.reset.hub.fcfg = 0x186A000000000 ∧
  State.reset.health.tthr = 0x646E005F5A40 ∧ State.reset.net = [] ∧
  (∀ c, (ctxOf State.reset c).state = 0 ∧ (ctxOf State.reset c).nodes = []) ∧
  (∀ p, pst State.reset p = 0 ∧ (portOf State.reset p).reg.extractLsb' 20 4 = 8) ∧
  ∀ c, let a := archOf State.reset c
    a.run = .idle ∧ a.task = none ∧ a.clr.pt = 3 ∧ a.vcode = 15 ∧ a.main.frame.act = false ∧ a.main.f = 1 ∧ a.main.s = [] ∧
      a.fpc = 0 ∧ a.reqs = [] ∧ a.cp = []

/-- R2, R307: memory keeps its one canonical form in every step: addresses rise and no byte that reads as unwritten is
listed, so that equal memories are equal data. -/
def Obligations.StepKeepsInv : Prop := ∀ (s t : State), Inv s → step s = .next t → Inv t
end

