-- ==== Sys2Proof/Laws/Memory.lean ====
section
/-!
SUPPORT. Laws of tables and of memory: reading after writing, and that every operation on memory keeps its canonical
form, in which addresses rise and no entry reads as an unlisted byte does.
-/
namespace Sys2Proof.Laws
open Sys2Proof.Machine
set_option Elab.async false

/-! ### Tables -/

theorem tget_tput_same {α : Type} (d : α) (t : Tbl α) (n : Nat) (v : α) : tget d (tput t n v) n = v := by
  induction t with
  | nil => simp [tput, tget]
  | cons x t ih =>
    obtain ⟨k, w⟩ := x
    simp only [tput]
    split
    · simp [tget]
    · split
      · simp [tget]
      · have : k ≠ n := by omega
        simp [tget, this, ih]

theorem tget_tput_ne {α : Type} (d : α) (t : Tbl α) {n m : Nat} (v : α) (h : m ≠ n) :
    tget d (tput t n v) m = tget d t m := by
  induction t with
  | nil => simp [tput, tget, Ne.symm h]
  | cons x t ih =>
    obtain ⟨k, w⟩ := x
    simp only [tput]
    split
    · simp [tget, Ne.symm h]
    · split
      · rename_i h1 h2
        subst h2
        simp [tget, Ne.symm h]
      · by_cases hk : k = m <;> simp [tget, hk, ih]

/-- Reading an entry after another, or the same, was set. -/
theorem tget_tput {α : Type} (d : α) (t : Tbl α) (n m : Nat) (v : α) :
    tget d (tput t n v) m = if m = n then v else tget d t m := by
  split
  · rename_i h; rw [h, tget_tput_same]
  · rename_i h; rw [tget_tput_ne d t v h]

theorem tget_tmod {α : Type} (d : α) (t : Tbl α) (n m : Nat) (g : α → α) :
    tget d (tmod d t n g) m = if m = n then g (tget d t n) else tget d t m := tget_tput d t n m _

/-! ### Bytes -/

/-- A write of a byte: the byte reads back, every other byte stands. -/
theorem cellAt_put (m : List Host.Cell) (h : memWf m = true) (a x : Nat) (b : Byte) :
    cellAt (cellPut m a b) x = if x = a then b else cellAt m x := by
  induction m with
  | nil =>
    by_cases hb : b = blank
    · simp [cellPut, cellAt, hb]
    · by_cases hx : a = x <;> simp [cellPut, cellAt, hb, hx, eq_comm]
  | cons c t ih =>
    obtain ⟨k, v⟩ := c
    simp only [memWf, Bool.and_eq_true] at h
    have above : ∀ (t : List Host.Cell) (a y : Nat), cellsAbove a t = true → y ≤ a → cellAt t y = blank := by
      intro t; induction t with
      | nil => intros; rfl
      | cons c t ih =>
        intro a y h1 h2
        simp only [cellsAbove, Bool.and_eq_true, decide_eq_true_eq] at h1
        have : c.1 ≠ y := by omega
        simp [cellAt, this, ih a y h1.2 h2]
    simp only [cellPut]
    by_cases h1 : a < k
    · have ha : cellAt ((k, v) :: t) a = blank := by
        have : k ≠ a := by omega
        simp [cellAt, this, above t k a h.1.2 (by omega)]
      by_cases hb : b = blank
      · simp only [h1, hb, if_true]
        split
        · rename_i hx; rw [hx, ha]
        · rfl
      · simp only [h1, hb, if_true, if_false]
        by_cases hx : x = a
        · simp [cellAt, hx]
        · simp [cellAt, hx, Ne.symm hx]
    · by_cases h2 : a = k
      · subst h2
        simp only [Nat.lt_irrefl, if_true, if_false]
        by_cases hb : b = blank
        · simp only [hb, if_true]
          by_cases hx : x = a
          · simp [hx, above t a a h.1.2 (Nat.le_refl a)]
          · simp [cellAt, hx, Ne.symm hx]
        · by_cases hx : x = a
          · simp [cellAt, hb, hx]
          · simp [cellAt, hb, hx, Ne.symm hx]
      · simp only [h1, h2, if_false]
        by_cases hx : k = x
        · have : x ≠ a := by omega
          simp [cellAt, hx, this]
        · simp [cellAt, hx, ih h.2]

theorem cellsAbove_put {m : List Host.Cell} {k a : Nat} {b : Byte} (h : cellsAbove k m = true) (ha : k < a) :
    cellsAbove k (cellPut m a b) = true := by
  induction m with
  | nil => by_cases hb : b = blank <;> simp [cellPut, cellsAbove, hb, ha]
  | cons c t ih =>
    simp only [cellsAbove, Bool.and_eq_true, decide_eq_true_eq] at h
    simp only [cellPut]
    repeat' split
    all_goals simp [cellsAbove, h, ha, ih h.2]

theorem cellsAbove_trans {m : List Host.Cell} {k a : Nat} (h : cellsAbove a m = true) (hk : k ≤ a) :
    cellsAbove k m = true := by
  induction m with
  | nil => rfl
  | cons c t ih =>
    simp only [cellsAbove, Bool.and_eq_true, decide_eq_true_eq] at h ⊢
    exact ⟨by omega, ih h.2⟩

/-- A write of a byte keeps the canonical form. -/
theorem memWf_put {m : List Host.Cell} (h : memWf m = true) (a : Nat) (b : Byte) : memWf (cellPut m a b) = true := by
  induction m with
  | nil => by_cases hb : b = blank <;> simp [cellPut, memWf, cellsAbove, hb]
  | cons c t ih =>
    obtain ⟨k, v⟩ := c
    have h' := h
    simp only [memWf, Bool.and_eq_true] at h'
    simp only [cellPut]
    split
    · rename_i hk
      split
      · exact h
      · rename_i hb
        simp [memWf, cellsAbove, hb, hk, h', cellsAbove_trans h'.1.2 (Nat.le_of_lt hk)]
    · split
      · rename_i h1 h2
        split
        · exact h'.2
        · rename_i hb; simp [memWf, hb, h', h2]
      · rename_i h1 h2
        simp [memWf, h', ih h'.2, cellsAbove_put h'.1.2 (show k < a by omega)]

/-- A write of several bytes keeps the canonical form. -/
theorem memWf_writeN {m : List Host.Cell} (h : memWf m = true) (a v mask n : Nat) : memWf (writeN m a v mask n) = true := by
  induction n generalizing m a v mask with
  | zero => exact h
  | succ n ih =>
    simp only [writeN]
    apply ih
    split
    · exact memWf_put h _ _
    · exact h

/-- Dropping entries keeps the canonical form. -/
theorem memWf_filter {m : List Host.Cell} (h : memWf m = true) (p : Host.Cell → Bool) : memWf (m.filter p) = true := by
  have above : ∀ (t : List Host.Cell) (k : Nat), cellsAbove k t = true → cellsAbove k (t.filter p) = true := by
    intro t; induction t with
    | nil => intros; rfl
    | cons c t ih =>
      intro k hk
      simp only [cellsAbove, Bool.and_eq_true] at hk
      simp only [List.filter]
      split
      · simp [cellsAbove, hk, ih k hk.2]
      · exact ih k hk.2
  induction m with
  | nil => rfl
  | cons c t ih =>
    simp only [memWf, Bool.and_eq_true] at h
    simp only [List.filter]
    split
    · simp [memWf, h, above t _ h.1.2, ih h.2]
    · exact ih h.2

theorem memWf_foldl_put {m l : List Host.Cell} (h : memWf m = true) :
    memWf (l.foldl (fun m x => cellPut m x.1 x.2) m) = true := by
  induction l generalizing m with
  | nil => exact h
  | cons x t ih => exact ih (memWf_put h _ _)

/-- A byte after a write of several bytes: the byte of the value where the mask has a one, else as before. -/
theorem cellAt_writeN {m : List Host.Cell} (h : memWf m = true) (a v mask n x : Nat) :
    cellAt (writeN m a v mask n) x =
      if a ≤ x ∧ x < a + n ∧ mask / 2 ^ (x - a) % 2 = 1 then BitVec.ofNat 8 (v / 256 ^ (x - a)) else cellAt m x := by
  induction n generalizing m a v mask with
  | zero =>
    have : ¬(a ≤ x ∧ x < a + 0 ∧ mask / 2 ^ (x - a) % 2 = 1) := by omega
    simp only [writeN, if_neg this]
  | succ n ih =>
    simp only [writeN]
    have hw : memWf (if mask % 2 = 1 then cellPut m a (BitVec.ofNat 8 v) else m) = true := by
      split
      · exact memWf_put h _ _
      · exact h
    rw [ih hw]
    by_cases hx : x = a
    · subst hx
      rw [if_neg (by omega)]
      simp only [Nat.sub_self, Nat.pow_zero, Nat.div_one]
      by_cases hm : mask % 2 = 1
      · rw [if_pos hm, cellAt_put m h, if_pos rfl, if_pos (by omega)]
      · rw [if_neg hm, if_neg (by omega)]
    · have hb : cellAt (if mask % 2 = 1 then cellPut m a (BitVec.ofNat 8 v) else m) x = cellAt m x := by
        split
        · rw [cellAt_put m h, if_neg hx]
        · rfl
      rw [hb]
      by_cases hl : a + 1 ≤ x
      · have e : x - a = (x - (a + 1)) + 1 := by omega
        rw [e, Nat.pow_succ, Nat.pow_succ, Nat.mul_comm _ 2, Nat.mul_comm _ 256, ← Nat.div_div_eq_div_mul,
          ← Nat.div_div_eq_div_mul]
        simp only [hl, show a ≤ x from by omega, true_and, show a + 1 + n = a + (n + 1) from by omega]
      · rw [if_neg (by omega), if_neg (by omega)]

/-- Bytes read back after they were written whole. -/
theorem readN_congr {m m' : List Host.Cell} {a n : Nat} (h : ∀ x, a ≤ x → x < a + n → cellAt m x = cellAt m' x) :
    readN m a n = readN m' a n := by
  induction n generalizing a with
  | zero => rfl
  | succ n ih =>
    simp only [readN]
    rw [h a (by omega) (by omega), ih (fun x h1 h2 => h x (by omega) (by omega))]

theorem mask_ones {n i : Nat} (h : i < n) : (2 ^ n - 1) / 2 ^ i % 2 = 1 := by
  have := Nat.testBit_two_pow_sub_one n i
  rw [Nat.testBit_eq_decide_div_mod_eq] at this
  simpa [h] using this

theorem readN_cells {m : List Host.Cell} {a n v : Nat}
    (h : ∀ x, a ≤ x → x < a + n → cellAt m x = BitVec.ofNat 8 (v / 256 ^ (x - a))) : readN m a n = v % 256 ^ n := by
  induction n generalizing a v with
  | zero => simp [readN, Nat.mod_one]
  | succ n ih =>
    simp only [readN]
    rw [h a (by omega) (by omega), ih (a := a + 1) (v := v / 256)]
    · simp only [Nat.sub_self, Nat.pow_zero, Nat.div_one, BitVec.toNat_ofNat]
      rw [show (256 : Nat) ^ (n + 1) = 256 * 256 ^ n from by rw [Nat.pow_succ, Nat.mul_comm], Nat.mod_mul]
    · intro x h1 h2
      rw [h x (by omega) (by omega), show x - a = (x - (a + 1)) + 1 from by omega, Nat.pow_succ, Nat.mul_comm _ 256,
        ← Nat.div_div_eq_div_mul]

/-- `n` bytes read back after they were written whole. -/
theorem readN_writeN_same {m : List Host.Cell} (h : memWf m = true) (a v n : Nat) :
    readN (writeN m a v (2 ^ n - 1) n) a n = v % 256 ^ n := by
  apply readN_cells
  intro x h1 h2
  rw [cellAt_writeN h, if_pos ⟨h1, h2, mask_ones (by omega)⟩]

/-- Bytes outside those written read as before. -/
theorem readN_writeN_apart {m : List Host.Cell} (h : memWf m = true) {a n b k : Nat} (v mask : Nat)
    (hd : b + k ≤ a ∨ a + n ≤ b) : readN (writeN m a v mask n) b k = readN m b k := by
  apply readN_congr
  intro x h1 h2
  rw [cellAt_writeN h, if_neg (by omega)]

end Sys2Proof.Laws
end

