-- ==== Sys2Proof/Laws/State.lean ====
section
/-!
SUPPORT. What the accessors and the plainest updates leave alone: one lemma per field per update, and reading an entry
after it, or another, was set.
-/
namespace Sys2Proof.Laws
open Sys2Proof.Machine
set_option Elab.async false

@[simp] theorem putCore_agenda (s : State) (c : Nat) (x : Core) : (putCore s c x).agenda = s.agenda := rfl
@[simp] theorem putCore_focus (s : State) (c : Nat) (x : Core) : (putCore s c x).focus = s.focus := rfl
@[simp] theorem putCore_iss (s : State) (c : Nat) (x : Core) : (putCore s c x).iss = s.iss := rfl
@[simp] theorem putCore_fresh (s : State) (c : Nat) (x : Core) : (putCore s c x).fresh = s.fresh := rfl
@[simp] theorem putCore_ids (s : State) (c : Nat) (x : Core) : (putCore s c x).ids = s.ids := rfl
@[simp] theorem putCore_upsets (s : State) (c : Nat) (x : Core) : (putCore s c x).upsets = s.upsets := rfl
@[simp] theorem putCore_pkg (s : State) (c : Nat) (x : Core) : (putCore s c x).pkg = s.pkg := rfl
@[simp] theorem putCore_mem (s : State) (c : Nat) (x : Core) : (putCore s c x).mem = s.mem := rfl
@[simp] theorem putCore_poison (s : State) (c : Nat) (x : Core) : (putCore s c x).poison = s.poison := rfl
@[simp] theorem putCore_flaws (s : State) (c : Nat) (x : Core) : (putCore s c x).flaws = s.flaws := rfl
@[simp] theorem putCore_tags (s : State) (c : Nat) (x : Core) : (putCore s c x).tags = s.tags := rfl
@[simp] theorem putCore_rels (s : State) (c : Nat) (x : Core) : (putCore s c x).rels = s.rels := rfl
@[simp] theorem putCore_retd (s : State) (c : Nat) (x : Core) : (putCore s c x).retd = s.retd := rfl
@[simp] theorem putCore_net (s : State) (c : Nat) (x : Core) : (putCore s c x).net = s.net := rfl
@[simp] theorem putCore_hub (s : State) (c : Nat) (x : Core) : (putCore s c x).hub = s.hub := rfl
@[simp] theorem putCore_fab (s : State) (c : Nat) (x : Core) : (putCore s c x).fab = s.fab := rfl
@[simp] theorem putCore_can (s : State) (c : Nat) (x : Core) : (putCore s c x).can = s.can := rfl
@[simp] theorem putCore_health (s : State) (c : Nat) (x : Core) : (putCore s c x).health = s.health := rfl
@[simp] theorem putCore_replies (s : State) (c : Nat) (x : Core) : (putCore s c x).replies = s.replies := rfl

@[simp] theorem putArch_agenda (s : State) (c : Nat) (a : Arch) : (putArch s c a).agenda = s.agenda := rfl
@[simp] theorem putArch_focus (s : State) (c : Nat) (a : Arch) : (putArch s c a).focus = s.focus := rfl
@[simp] theorem putArch_iss (s : State) (c : Nat) (a : Arch) : (putArch s c a).iss = s.iss := rfl
@[simp] theorem putArch_fresh (s : State) (c : Nat) (a : Arch) : (putArch s c a).fresh = s.fresh := rfl
@[simp] theorem putArch_ids (s : State) (c : Nat) (a : Arch) : (putArch s c a).ids = s.ids := rfl
@[simp] theorem putArch_upsets (s : State) (c : Nat) (a : Arch) : (putArch s c a).upsets = s.upsets := rfl
@[simp] theorem putArch_pkg (s : State) (c : Nat) (a : Arch) : (putArch s c a).pkg = s.pkg := rfl
@[simp] theorem putArch_mem (s : State) (c : Nat) (a : Arch) : (putArch s c a).mem = s.mem := rfl
@[simp] theorem putArch_poison (s : State) (c : Nat) (a : Arch) : (putArch s c a).poison = s.poison := rfl
@[simp] theorem putArch_flaws (s : State) (c : Nat) (a : Arch) : (putArch s c a).flaws = s.flaws := rfl
@[simp] theorem putArch_tags (s : State) (c : Nat) (a : Arch) : (putArch s c a).tags = s.tags := rfl
@[simp] theorem putArch_rels (s : State) (c : Nat) (a : Arch) : (putArch s c a).rels = s.rels := rfl
@[simp] theorem putArch_retd (s : State) (c : Nat) (a : Arch) : (putArch s c a).retd = s.retd := rfl
@[simp] theorem putArch_net (s : State) (c : Nat) (a : Arch) : (putArch s c a).net = s.net := rfl
@[simp] theorem putArch_hub (s : State) (c : Nat) (a : Arch) : (putArch s c a).hub = s.hub := rfl
@[simp] theorem putArch_fab (s : State) (c : Nat) (a : Arch) : (putArch s c a).fab = s.fab := rfl
@[simp] theorem putArch_can (s : State) (c : Nat) (a : Arch) : (putArch s c a).can = s.can := rfl
@[simp] theorem putArch_health (s : State) (c : Nat) (a : Arch) : (putArch s c a).health = s.health := rfl
@[simp] theorem putArch_replies (s : State) (c : Nat) (a : Arch) : (putArch s c a).replies = s.replies := rfl

@[simp] theorem modArch_agenda (s : State) (c : Nat) (g : Arch → Arch) : (modArch s c g).agenda = s.agenda := rfl
@[simp] theorem modArch_focus (s : State) (c : Nat) (g : Arch → Arch) : (modArch s c g).focus = s.focus := rfl
@[simp] theorem modArch_iss (s : State) (c : Nat) (g : Arch → Arch) : (modArch s c g).iss = s.iss := rfl
@[simp] theorem modArch_fresh (s : State) (c : Nat) (g : Arch → Arch) : (modArch s c g).fresh = s.fresh := rfl
@[simp] theorem modArch_ids (s : State) (c : Nat) (g : Arch → Arch) : (modArch s c g).ids = s.ids := rfl
@[simp] theorem modArch_upsets (s : State) (c : Nat) (g : Arch → Arch) : (modArch s c g).upsets = s.upsets := rfl
@[simp] theorem modArch_pkg (s : State) (c : Nat) (g : Arch → Arch) : (modArch s c g).pkg = s.pkg := rfl
@[simp] theorem modArch_mem (s : State) (c : Nat) (g : Arch → Arch) : (modArch s c g).mem = s.mem := rfl
@[simp] theorem modArch_poison (s : State) (c : Nat) (g : Arch → Arch) : (modArch s c g).poison = s.poison := rfl
@[simp] theorem modArch_flaws (s : State) (c : Nat) (g : Arch → Arch) : (modArch s c g).flaws = s.flaws := rfl
@[simp] theorem modArch_tags (s : State) (c : Nat) (g : Arch → Arch) : (modArch s c g).tags = s.tags := rfl
@[simp] theorem modArch_rels (s : State) (c : Nat) (g : Arch → Arch) : (modArch s c g).rels = s.rels := rfl
@[simp] theorem modArch_retd (s : State) (c : Nat) (g : Arch → Arch) : (modArch s c g).retd = s.retd := rfl
@[simp] theorem modArch_net (s : State) (c : Nat) (g : Arch → Arch) : (modArch s c g).net = s.net := rfl
@[simp] theorem modArch_hub (s : State) (c : Nat) (g : Arch → Arch) : (modArch s c g).hub = s.hub := rfl
@[simp] theorem modArch_fab (s : State) (c : Nat) (g : Arch → Arch) : (modArch s c g).fab = s.fab := rfl
@[simp] theorem modArch_can (s : State) (c : Nat) (g : Arch → Arch) : (modArch s c g).can = s.can := rfl
@[simp] theorem modArch_health (s : State) (c : Nat) (g : Arch → Arch) : (modArch s c g).health = s.health := rfl
@[simp] theorem modArch_replies (s : State) (c : Nat) (g : Arch → Arch) : (modArch s c g).replies = s.replies := rfl

@[simp] theorem putStrm_agenda (s : State) (k : Sid) (x : Stream) : (putStrm s k x).agenda = s.agenda := rfl
@[simp] theorem putStrm_focus (s : State) (k : Sid) (x : Stream) : (putStrm s k x).focus = s.focus := rfl
@[simp] theorem putStrm_iss (s : State) (k : Sid) (x : Stream) : (putStrm s k x).iss = s.iss := rfl
@[simp] theorem putStrm_fresh (s : State) (k : Sid) (x : Stream) : (putStrm s k x).fresh = s.fresh := rfl
@[simp] theorem putStrm_ids (s : State) (k : Sid) (x : Stream) : (putStrm s k x).ids = s.ids := rfl
@[simp] theorem putStrm_upsets (s : State) (k : Sid) (x : Stream) : (putStrm s k x).upsets = s.upsets := rfl
@[simp] theorem putStrm_pkg (s : State) (k : Sid) (x : Stream) : (putStrm s k x).pkg = s.pkg := rfl
@[simp] theorem putStrm_mem (s : State) (k : Sid) (x : Stream) : (putStrm s k x).mem = s.mem := rfl
@[simp] theorem putStrm_poison (s : State) (k : Sid) (x : Stream) : (putStrm s k x).poison = s.poison := rfl
@[simp] theorem putStrm_flaws (s : State) (k : Sid) (x : Stream) : (putStrm s k x).flaws = s.flaws := rfl
@[simp] theorem putStrm_tags (s : State) (k : Sid) (x : Stream) : (putStrm s k x).tags = s.tags := rfl
@[simp] theorem putStrm_rels (s : State) (k : Sid) (x : Stream) : (putStrm s k x).rels = s.rels := rfl
@[simp] theorem putStrm_retd (s : State) (k : Sid) (x : Stream) : (putStrm s k x).retd = s.retd := rfl
@[simp] theorem putStrm_net (s : State) (k : Sid) (x : Stream) : (putStrm s k x).net = s.net := rfl
@[simp] theorem putStrm_hub (s : State) (k : Sid) (x : Stream) : (putStrm s k x).hub = s.hub := rfl
@[simp] theorem putStrm_fab (s : State) (k : Sid) (x : Stream) : (putStrm s k x).fab = s.fab := rfl
@[simp] theorem putStrm_can (s : State) (k : Sid) (x : Stream) : (putStrm s k x).can = s.can := rfl
@[simp] theorem putStrm_health (s : State) (k : Sid) (x : Stream) : (putStrm s k x).health = s.health := rfl
@[simp] theorem putStrm_replies (s : State) (k : Sid) (x : Stream) : (putStrm s k x).replies = s.replies := rfl

@[simp] theorem modStrm_agenda (s : State) (k : Sid) (g : Stream → Stream) : (modStrm s k g).agenda = s.agenda := rfl
@[simp] theorem modStrm_focus (s : State) (k : Sid) (g : Stream → Stream) : (modStrm s k g).focus = s.focus := rfl
@[simp] theorem modStrm_iss (s : State) (k : Sid) (g : Stream → Stream) : (modStrm s k g).iss = s.iss := rfl
@[simp] theorem modStrm_fresh (s : State) (k : Sid) (g : Stream → Stream) : (modStrm s k g).fresh = s.fresh := rfl
@[simp] theorem modStrm_ids (s : State) (k : Sid) (g : Stream → Stream) : (modStrm s k g).ids = s.ids := rfl
@[simp] theorem modStrm_upsets (s : State) (k : Sid) (g : Stream → Stream) : (modStrm s k g).upsets = s.upsets := rfl
@[simp] theorem modStrm_pkg (s : State) (k : Sid) (g : Stream → Stream) : (modStrm s k g).pkg = s.pkg := rfl
@[simp] theorem modStrm_mem (s : State) (k : Sid) (g : Stream → Stream) : (modStrm s k g).mem = s.mem := rfl
@[simp] theorem modStrm_poison (s : State) (k : Sid) (g : Stream → Stream) : (modStrm s k g).poison = s.poison := rfl
@[simp] theorem modStrm_flaws (s : State) (k : Sid) (g : Stream → Stream) : (modStrm s k g).flaws = s.flaws := rfl
@[simp] theorem modStrm_tags (s : State) (k : Sid) (g : Stream → Stream) : (modStrm s k g).tags = s.tags := rfl
@[simp] theorem modStrm_rels (s : State) (k : Sid) (g : Stream → Stream) : (modStrm s k g).rels = s.rels := rfl
@[simp] theorem modStrm_retd (s : State) (k : Sid) (g : Stream → Stream) : (modStrm s k g).retd = s.retd := rfl
@[simp] theorem modStrm_net (s : State) (k : Sid) (g : Stream → Stream) : (modStrm s k g).net = s.net := rfl
@[simp] theorem modStrm_hub (s : State) (k : Sid) (g : Stream → Stream) : (modStrm s k g).hub = s.hub := rfl
@[simp] theorem modStrm_fab (s : State) (k : Sid) (g : Stream → Stream) : (modStrm s k g).fab = s.fab := rfl
@[simp] theorem modStrm_can (s : State) (k : Sid) (g : Stream → Stream) : (modStrm s k g).can = s.can := rfl
@[simp] theorem modStrm_health (s : State) (k : Sid) (g : Stream → Stream) : (modStrm s k g).health = s.health := rfl
@[simp] theorem modStrm_replies (s : State) (k : Sid) (g : Stream → Stream) : (modStrm s k g).replies = s.replies := rfl

@[simp] theorem putCtx_agenda (s : State) (c : Nat) (x : Ctx) : (putCtx s c x).agenda = s.agenda := rfl
@[simp] theorem putCtx_focus (s : State) (c : Nat) (x : Ctx) : (putCtx s c x).focus = s.focus := rfl
@[simp] theorem putCtx_iss (s : State) (c : Nat) (x : Ctx) : (putCtx s c x).iss = s.iss := rfl
@[simp] theorem putCtx_fresh (s : State) (c : Nat) (x : Ctx) : (putCtx s c x).fresh = s.fresh := rfl
@[simp] theorem putCtx_ids (s : State) (c : Nat) (x : Ctx) : (putCtx s c x).ids = s.ids := rfl
@[simp] theorem putCtx_upsets (s : State) (c : Nat) (x : Ctx) : (putCtx s c x).upsets = s.upsets := rfl
@[simp] theorem putCtx_pkg (s : State) (c : Nat) (x : Ctx) : (putCtx s c x).pkg = s.pkg := rfl
@[simp] theorem putCtx_mem (s : State) (c : Nat) (x : Ctx) : (putCtx s c x).mem = s.mem := rfl
@[simp] theorem putCtx_poison (s : State) (c : Nat) (x : Ctx) : (putCtx s c x).poison = s.poison := rfl
@[simp] theorem putCtx_flaws (s : State) (c : Nat) (x : Ctx) : (putCtx s c x).flaws = s.flaws := rfl
@[simp] theorem putCtx_tags (s : State) (c : Nat) (x : Ctx) : (putCtx s c x).tags = s.tags := rfl
@[simp] theorem putCtx_rels (s : State) (c : Nat) (x : Ctx) : (putCtx s c x).rels = s.rels := rfl
@[simp] theorem putCtx_retd (s : State) (c : Nat) (x : Ctx) : (putCtx s c x).retd = s.retd := rfl
@[simp] theorem putCtx_cores (s : State) (c : Nat) (x : Ctx) : (putCtx s c x).cores = s.cores := rfl
@[simp] theorem putCtx_net (s : State) (c : Nat) (x : Ctx) : (putCtx s c x).net = s.net := rfl
@[simp] theorem putCtx_fab (s : State) (c : Nat) (x : Ctx) : (putCtx s c x).fab = s.fab := rfl
@[simp] theorem putCtx_can (s : State) (c : Nat) (x : Ctx) : (putCtx s c x).can = s.can := rfl
@[simp] theorem putCtx_health (s : State) (c : Nat) (x : Ctx) : (putCtx s c x).health = s.health := rfl
@[simp] theorem putCtx_replies (s : State) (c : Nat) (x : Ctx) : (putCtx s c x).replies = s.replies := rfl

@[simp] theorem modCtx_agenda (s : State) (c : Nat) (g : Ctx → Ctx) : (modCtx s c g).agenda = s.agenda := rfl
@[simp] theorem modCtx_focus (s : State) (c : Nat) (g : Ctx → Ctx) : (modCtx s c g).focus = s.focus := rfl
@[simp] theorem modCtx_iss (s : State) (c : Nat) (g : Ctx → Ctx) : (modCtx s c g).iss = s.iss := rfl
@[simp] theorem modCtx_fresh (s : State) (c : Nat) (g : Ctx → Ctx) : (modCtx s c g).fresh = s.fresh := rfl
@[simp] theorem modCtx_ids (s : State) (c : Nat) (g : Ctx → Ctx) : (modCtx s c g).ids = s.ids := rfl
@[simp] theorem modCtx_upsets (s : State) (c : Nat) (g : Ctx → Ctx) : (modCtx s c g).upsets = s.upsets := rfl
@[simp] theorem modCtx_pkg (s : State) (c : Nat) (g : Ctx → Ctx) : (modCtx s c g).pkg = s.pkg := rfl
@[simp] theorem modCtx_mem (s : State) (c : Nat) (g : Ctx → Ctx) : (modCtx s c g).mem = s.mem := rfl
@[simp] theorem modCtx_poison (s : State) (c : Nat) (g : Ctx → Ctx) : (modCtx s c g).poison = s.poison := rfl
@[simp] theorem modCtx_flaws (s : State) (c : Nat) (g : Ctx → Ctx) : (modCtx s c g).flaws = s.flaws := rfl
@[simp] theorem modCtx_tags (s : State) (c : Nat) (g : Ctx → Ctx) : (modCtx s c g).tags = s.tags := rfl
@[simp] theorem modCtx_rels (s : State) (c : Nat) (g : Ctx → Ctx) : (modCtx s c g).rels = s.rels := rfl
@[simp] theorem modCtx_retd (s : State) (c : Nat) (g : Ctx → Ctx) : (modCtx s c g).retd = s.retd := rfl
@[simp] theorem modCtx_cores (s : State) (c : Nat) (g : Ctx → Ctx) : (modCtx s c g).cores = s.cores := rfl
@[simp] theorem modCtx_net (s : State) (c : Nat) (g : Ctx → Ctx) : (modCtx s c g).net = s.net := rfl
@[simp] theorem modCtx_fab (s : State) (c : Nat) (g : Ctx → Ctx) : (modCtx s c g).fab = s.fab := rfl
@[simp] theorem modCtx_can (s : State) (c : Nat) (g : Ctx → Ctx) : (modCtx s c g).can = s.can := rfl
@[simp] theorem modCtx_health (s : State) (c : Nat) (g : Ctx → Ctx) : (modCtx s c g).health = s.health := rfl
@[simp] theorem modCtx_replies (s : State) (c : Nat) (g : Ctx → Ctx) : (modCtx s c g).replies = s.replies := rfl

@[simp] theorem emit_agenda (s : State) (x : Flight) : (emit s x).agenda = s.agenda := rfl
@[simp] theorem emit_focus (s : State) (x : Flight) : (emit s x).focus = s.focus := rfl
@[simp] theorem emit_iss (s : State) (x : Flight) : (emit s x).iss = s.iss := rfl
@[simp] theorem emit_fresh (s : State) (x : Flight) : (emit s x).fresh = s.fresh := rfl
@[simp] theorem emit_ids (s : State) (x : Flight) : (emit s x).ids = s.ids := rfl
@[simp] theorem emit_upsets (s : State) (x : Flight) : (emit s x).upsets = s.upsets := rfl
@[simp] theorem emit_pkg (s : State) (x : Flight) : (emit s x).pkg = s.pkg := rfl
@[simp] theorem emit_mem (s : State) (x : Flight) : (emit s x).mem = s.mem := rfl
@[simp] theorem emit_poison (s : State) (x : Flight) : (emit s x).poison = s.poison := rfl
@[simp] theorem emit_flaws (s : State) (x : Flight) : (emit s x).flaws = s.flaws := rfl
@[simp] theorem emit_tags (s : State) (x : Flight) : (emit s x).tags = s.tags := rfl
@[simp] theorem emit_rels (s : State) (x : Flight) : (emit s x).rels = s.rels := rfl
@[simp] theorem emit_retd (s : State) (x : Flight) : (emit s x).retd = s.retd := rfl
@[simp] theorem emit_net (s : State) (x : Flight) : (emit s x).net = s.net := rfl
@[simp] theorem emit_hub (s : State) (x : Flight) : (emit s x).hub = s.hub := rfl
@[simp] theorem emit_fab (s : State) (x : Flight) : (emit s x).fab = s.fab := rfl
@[simp] theorem emit_can (s : State) (x : Flight) : (emit s x).can = s.can := rfl
@[simp] theorem emit_health (s : State) (x : Flight) : (emit s x).health = s.health := rfl
@[simp] theorem emit_replies (s : State) (x : Flight) : (emit s x).replies = s.replies := rfl

@[simp] theorem emitS_agenda (p s : State) (h : Slot) (opc : BitVec 8) (sd : BitVec 5) (v : Word) (l : Nat) (fl : BitVec 6) : (emitS p s h opc sd v l fl).agenda = s.agenda := rfl
@[simp] theorem emitS_focus (p s : State) (h : Slot) (opc : BitVec 8) (sd : BitVec 5) (v : Word) (l : Nat) (fl : BitVec 6) : (emitS p s h opc sd v l fl).focus = s.focus := rfl
@[simp] theorem emitS_iss (p s : State) (h : Slot) (opc : BitVec 8) (sd : BitVec 5) (v : Word) (l : Nat) (fl : BitVec 6) : (emitS p s h opc sd v l fl).iss = s.iss := rfl
@[simp] theorem emitS_fresh (p s : State) (h : Slot) (opc : BitVec 8) (sd : BitVec 5) (v : Word) (l : Nat) (fl : BitVec 6) : (emitS p s h opc sd v l fl).fresh = s.fresh := rfl
@[simp] theorem emitS_ids (p s : State) (h : Slot) (opc : BitVec 8) (sd : BitVec 5) (v : Word) (l : Nat) (fl : BitVec 6) : (emitS p s h opc sd v l fl).ids = s.ids := rfl
@[simp] theorem emitS_upsets (p s : State) (h : Slot) (opc : BitVec 8) (sd : BitVec 5) (v : Word) (l : Nat) (fl : BitVec 6) : (emitS p s h opc sd v l fl).upsets = s.upsets := rfl
@[simp] theorem emitS_pkg (p s : State) (h : Slot) (opc : BitVec 8) (sd : BitVec 5) (v : Word) (l : Nat) (fl : BitVec 6) : (emitS p s h opc sd v l fl).pkg = s.pkg := rfl
@[simp] theorem emitS_mem (p s : State) (h : Slot) (opc : BitVec 8) (sd : BitVec 5) (v : Word) (l : Nat) (fl : BitVec 6) : (emitS p s h opc sd v l fl).mem = s.mem := rfl
@[simp] theorem emitS_poison (p s : State) (h : Slot) (opc : BitVec 8) (sd : BitVec 5) (v : Word) (l : Nat) (fl : BitVec 6) : (emitS p s h opc sd v l fl).poison = s.poison := rfl
@[simp] theorem emitS_flaws (p s : State) (h : Slot) (opc : BitVec 8) (sd : BitVec 5) (v : Word) (l : Nat) (fl : BitVec 6) : (emitS p s h opc sd v l fl).flaws = s.flaws := rfl
@[simp] theorem emitS_tags (p s : State) (h : Slot) (opc : BitVec 8) (sd : BitVec 5) (v : Word) (l : Nat) (fl : BitVec 6) : (emitS p s h opc sd v l fl).tags = s.tags := rfl
@[simp] theorem emitS_rels (p s : State) (h : Slot) (opc : BitVec 8) (sd : BitVec 5) (v : Word) (l : Nat) (fl : BitVec 6) : (emitS p s h opc sd v l fl).rels = s.rels := rfl
@[simp] theorem emitS_retd (p s : State) (h : Slot) (opc : BitVec 8) (sd : BitVec 5) (v : Word) (l : Nat) (fl : BitVec 6) : (emitS p s h opc sd v l fl).retd = s.retd := rfl
@[simp] theorem emitS_net (p s : State) (h : Slot) (opc : BitVec 8) (sd : BitVec 5) (v : Word) (l : Nat) (fl : BitVec 6) : (emitS p s h opc sd v l fl).net = s.net := rfl
@[simp] theorem emitS_hub (p s : State) (h : Slot) (opc : BitVec 8) (sd : BitVec 5) (v : Word) (l : Nat) (fl : BitVec 6) : (emitS p s h opc sd v l fl).hub = s.hub := rfl
@[simp] theorem emitS_fab (p s : State) (h : Slot) (opc : BitVec 8) (sd : BitVec 5) (v : Word) (l : Nat) (fl : BitVec 6) : (emitS p s h opc sd v l fl).fab = s.fab := rfl
@[simp] theorem emitS_can (p s : State) (h : Slot) (opc : BitVec 8) (sd : BitVec 5) (v : Word) (l : Nat) (fl : BitVec 6) : (emitS p s h opc sd v l fl).can = s.can := rfl
@[simp] theorem emitS_health (p s : State) (h : Slot) (opc : BitVec 8) (sd : BitVec 5) (v : Word) (l : Nat) (fl : BitVec 6) : (emitS p s h opc sd v l fl).health = s.health := rfl
@[simp] theorem emitS_replies (p s : State) (h : Slot) (opc : BitVec 8) (sd : BitVec 5) (v : Word) (l : Nat) (fl : BitVec 6) : (emitS p s h opc sd v l fl).replies = s.replies := rfl

@[simp] theorem emitF_agenda (p s : State) (h : Slot) (opc : BitVec 8) (fx : BitVec 4) (v : Bool) (fl : BitVec 6) : (emitF p s h opc fx v fl).agenda = s.agenda := rfl
@[simp] theorem emitF_focus (p s : State) (h : Slot) (opc : BitVec 8) (fx : BitVec 4) (v : Bool) (fl : BitVec 6) : (emitF p s h opc fx v fl).focus = s.focus := rfl
@[simp] theorem emitF_iss (p s : State) (h : Slot) (opc : BitVec 8) (fx : BitVec 4) (v : Bool) (fl : BitVec 6) : (emitF p s h opc fx v fl).iss = s.iss := rfl
@[simp] theorem emitF_fresh (p s : State) (h : Slot) (opc : BitVec 8) (fx : BitVec 4) (v : Bool) (fl : BitVec 6) : (emitF p s h opc fx v fl).fresh = s.fresh := rfl
@[simp] theorem emitF_ids (p s : State) (h : Slot) (opc : BitVec 8) (fx : BitVec 4) (v : Bool) (fl : BitVec 6) : (emitF p s h opc fx v fl).ids = s.ids := rfl
@[simp] theorem emitF_upsets (p s : State) (h : Slot) (opc : BitVec 8) (fx : BitVec 4) (v : Bool) (fl : BitVec 6) : (emitF p s h opc fx v fl).upsets = s.upsets := rfl
@[simp] theorem emitF_pkg (p s : State) (h : Slot) (opc : BitVec 8) (fx : BitVec 4) (v : Bool) (fl : BitVec 6) : (emitF p s h opc fx v fl).pkg = s.pkg := rfl
@[simp] theorem emitF_mem (p s : State) (h : Slot) (opc : BitVec 8) (fx : BitVec 4) (v : Bool) (fl : BitVec 6) : (emitF p s h opc fx v fl).mem = s.mem := rfl
@[simp] theorem emitF_poison (p s : State) (h : Slot) (opc : BitVec 8) (fx : BitVec 4) (v : Bool) (fl : BitVec 6) : (emitF p s h opc fx v fl).poison = s.poison := rfl
@[simp] theorem emitF_flaws (p s : State) (h : Slot) (opc : BitVec 8) (fx : BitVec 4) (v : Bool) (fl : BitVec 6) : (emitF p s h opc fx v fl).flaws = s.flaws := rfl
@[simp] theorem emitF_tags (p s : State) (h : Slot) (opc : BitVec 8) (fx : BitVec 4) (v : Bool) (fl : BitVec 6) : (emitF p s h opc fx v fl).tags = s.tags := rfl
@[simp] theorem emitF_rels (p s : State) (h : Slot) (opc : BitVec 8) (fx : BitVec 4) (v : Bool) (fl : BitVec 6) : (emitF p s h opc fx v fl).rels = s.rels := rfl
@[simp] theorem emitF_retd (p s : State) (h : Slot) (opc : BitVec 8) (fx : BitVec 4) (v : Bool) (fl : BitVec 6) : (emitF p s h opc fx v fl).retd = s.retd := rfl
@[simp] theorem emitF_net (p s : State) (h : Slot) (opc : BitVec 8) (fx : BitVec 4) (v : Bool) (fl : BitVec 6) : (emitF p s h opc fx v fl).net = s.net := rfl
@[simp] theorem emitF_hub (p s : State) (h : Slot) (opc : BitVec 8) (fx : BitVec 4) (v : Bool) (fl : BitVec 6) : (emitF p s h opc fx v fl).hub = s.hub := rfl
@[simp] theorem emitF_fab (p s : State) (h : Slot) (opc : BitVec 8) (fx : BitVec 4) (v : Bool) (fl : BitVec 6) : (emitF p s h opc fx v fl).fab = s.fab := rfl
@[simp] theorem emitF_can (p s : State) (h : Slot) (opc : BitVec 8) (fx : BitVec 4) (v : Bool) (fl : BitVec 6) : (emitF p s h opc fx v fl).can = s.can := rfl
@[simp] theorem emitF_health (p s : State) (h : Slot) (opc : BitVec 8) (fx : BitVec 4) (v : Bool) (fl : BitVec 6) : (emitF p s h opc fx v fl).health = s.health := rfl
@[simp] theorem emitF_replies (p s : State) (h : Slot) (opc : BitVec 8) (fx : BitVec 4) (v : Bool) (fl : BitVec 6) : (emitF p s h opc fx v fl).replies = s.replies := rfl

@[simp] theorem countHot_agenda (s : State) (c i : Nat) : (countHot s c i).agenda = s.agenda := rfl
@[simp] theorem countHot_focus (s : State) (c i : Nat) : (countHot s c i).focus = s.focus := rfl
@[simp] theorem countHot_iss (s : State) (c i : Nat) : (countHot s c i).iss = s.iss := rfl
@[simp] theorem countHot_fresh (s : State) (c i : Nat) : (countHot s c i).fresh = s.fresh := rfl
@[simp] theorem countHot_ids (s : State) (c i : Nat) : (countHot s c i).ids = s.ids := rfl
@[simp] theorem countHot_upsets (s : State) (c i : Nat) : (countHot s c i).upsets = s.upsets := rfl
@[simp] theorem countHot_pkg (s : State) (c i : Nat) : (countHot s c i).pkg = s.pkg := rfl
@[simp] theorem countHot_mem (s : State) (c i : Nat) : (countHot s c i).mem = s.mem := rfl
@[simp] theorem countHot_poison (s : State) (c i : Nat) : (countHot s c i).poison = s.poison := rfl
@[simp] theorem countHot_flaws (s : State) (c i : Nat) : (countHot s c i).flaws = s.flaws := rfl
@[simp] theorem countHot_tags (s : State) (c i : Nat) : (countHot s c i).tags = s.tags := rfl
@[simp] theorem countHot_rels (s : State) (c i : Nat) : (countHot s c i).rels = s.rels := rfl
@[simp] theorem countHot_retd (s : State) (c i : Nat) : (countHot s c i).retd = s.retd := rfl
@[simp] theorem countHot_net (s : State) (c i : Nat) : (countHot s c i).net = s.net := rfl
@[simp] theorem countHot_hub (s : State) (c i : Nat) : (countHot s c i).hub = s.hub := rfl
@[simp] theorem countHot_fab (s : State) (c i : Nat) : (countHot s c i).fab = s.fab := rfl
@[simp] theorem countHot_can (s : State) (c i : Nat) : (countHot s c i).can = s.can := rfl
@[simp] theorem countHot_health (s : State) (c i : Nat) : (countHot s c i).health = s.health := rfl
@[simp] theorem countHot_replies (s : State) (c i : Nat) : (countHot s c i).replies = s.replies := rfl

@[simp] theorem openCycle_agenda (s : State) (k : Sid) (mark : Nat) (b : Bool) : (openCycle s k mark b).agenda = s.agenda := rfl
@[simp] theorem openCycle_focus (s : State) (k : Sid) (mark : Nat) (b : Bool) : (openCycle s k mark b).focus = s.focus := rfl
@[simp] theorem openCycle_iss (s : State) (k : Sid) (mark : Nat) (b : Bool) : (openCycle s k mark b).iss = s.iss := rfl
@[simp] theorem openCycle_fresh (s : State) (k : Sid) (mark : Nat) (b : Bool) : (openCycle s k mark b).fresh = s.fresh := rfl
@[simp] theorem openCycle_ids (s : State) (k : Sid) (mark : Nat) (b : Bool) : (openCycle s k mark b).ids = s.ids := rfl
@[simp] theorem openCycle_upsets (s : State) (k : Sid) (mark : Nat) (b : Bool) : (openCycle s k mark b).upsets = s.upsets := rfl
@[simp] theorem openCycle_pkg (s : State) (k : Sid) (mark : Nat) (b : Bool) : (openCycle s k mark b).pkg = s.pkg := rfl
@[simp] theorem openCycle_mem (s : State) (k : Sid) (mark : Nat) (b : Bool) : (openCycle s k mark b).mem = s.mem := rfl
@[simp] theorem openCycle_poison (s : State) (k : Sid) (mark : Nat) (b : Bool) : (openCycle s k mark b).poison = s.poison := rfl
@[simp] theorem openCycle_flaws (s : State) (k : Sid) (mark : Nat) (b : Bool) : (openCycle s k mark b).flaws = s.flaws := rfl
@[simp] theorem openCycle_tags (s : State) (k : Sid) (mark : Nat) (b : Bool) : (openCycle s k mark b).tags = s.tags := rfl
@[simp] theorem openCycle_rels (s : State) (k : Sid) (mark : Nat) (b : Bool) : (openCycle s k mark b).rels = s.rels := rfl
@[simp] theorem openCycle_retd (s : State) (k : Sid) (mark : Nat) (b : Bool) : (openCycle s k mark b).retd = s.retd := rfl
@[simp] theorem openCycle_net (s : State) (k : Sid) (mark : Nat) (b : Bool) : (openCycle s k mark b).net = s.net := rfl
@[simp] theorem openCycle_hub (s : State) (k : Sid) (mark : Nat) (b : Bool) : (openCycle s k mark b).hub = s.hub := rfl
@[simp] theorem openCycle_fab (s : State) (k : Sid) (mark : Nat) (b : Bool) : (openCycle s k mark b).fab = s.fab := rfl
@[simp] theorem openCycle_can (s : State) (k : Sid) (mark : Nat) (b : Bool) : (openCycle s k mark b).can = s.can := rfl
@[simp] theorem openCycle_health (s : State) (k : Sid) (mark : Nat) (b : Bool) : (openCycle s k mark b).health = s.health := rfl
@[simp] theorem openCycle_replies (s : State) (k : Sid) (mark : Nat) (b : Bool) : (openCycle s k mark b).replies = s.replies := rfl

@[simp] theorem putCtx_hub_htck (s : State) (c : Nat) (x : Ctx) : (putCtx s c x).hub.htck = s.hub.htck := rfl
@[simp] theorem modCtx_hub_htck (s : State) (c : Nat) (g : Ctx → Ctx) : (modCtx s c g).hub.htck = s.hub.htck := rfl
@[simp] theorem putCtx_hub_rdy (s : State) (c : Nat) (x : Ctx) : (putCtx s c x).hub.rdy = s.hub.rdy := rfl
@[simp] theorem modCtx_hub_rdy (s : State) (c : Nat) (g : Ctx → Ctx) : (modCtx s c g).hub.rdy = s.hub.rdy := rfl
@[simp] theorem putCtx_hub_rfl (s : State) (c : Nat) (x : Ctx) : (putCtx s c x).hub.rfl = s.hub.rfl := rfl
@[simp] theorem modCtx_hub_rfl (s : State) (c : Nat) (g : Ctx → Ctx) : (modCtx s c g).hub.rfl = s.hub.rfl := rfl
@[simp] theorem putCtx_hub_part (s : State) (c : Nat) (x : Ctx) : (putCtx s c x).hub.part = s.hub.part := rfl
@[simp] theorem modCtx_hub_part (s : State) (c : Nat) (g : Ctx → Ctx) : (modCtx s c g).hub.part = s.hub.part := rfl
@[simp] theorem putCtx_hub_halted (s : State) (c : Nat) (x : Ctx) : (putCtx s c x).hub.halted = s.hub.halted := rfl
@[simp] theorem modCtx_hub_halted (s : State) (c : Nat) (g : Ctx → Ctx) : (modCtx s c g).hub.halted = s.hub.halted := rfl
@[simp] theorem putCtx_hub_fcfg (s : State) (c : Nat) (x : Ctx) : (putCtx s c x).hub.fcfg = s.hub.fcfg := rfl
@[simp] theorem modCtx_hub_fcfg (s : State) (c : Nat) (g : Ctx → Ctx) : (modCtx s c g).hub.fcfg = s.hub.fcfg := rfl
@[simp] theorem putCtx_hub_order (s : State) (c : Nat) (x : Ctx) : (putCtx s c x).hub.order = s.hub.order := rfl
@[simp] theorem modCtx_hub_order (s : State) (c : Nat) (g : Ctx → Ctx) : (modCtx s c g).hub.order = s.hub.order := rfl
@[simp] theorem putCtx_hub_banks (s : State) (c : Nat) (x : Ctx) : (putCtx s c x).hub.banks = s.hub.banks := rfl
@[simp] theorem modCtx_hub_banks (s : State) (c : Nat) (g : Ctx → Ctx) : (modCtx s c g).hub.banks = s.hub.banks := rfl
@[simp] theorem putCtx_hub_bars (s : State) (c : Nat) (x : Ctx) : (putCtx s c x).hub.bars = s.hub.bars := rfl
@[simp] theorem modCtx_hub_bars (s : State) (c : Nat) (g : Ctx → Ctx) : (modCtx s c g).hub.bars = s.hub.bars := rfl
@[simp] theorem putCtx_hub_saves (s : State) (c : Nat) (x : Ctx) : (putCtx s c x).hub.saves = s.hub.saves := rfl
@[simp] theorem modCtx_hub_saves (s : State) (c : Nat) (g : Ctx → Ctx) : (modCtx s c g).hub.saves = s.hub.saves := rfl
@[simp] theorem putCtx_hub_ring (s : State) (c : Nat) (x : Ctx) : (putCtx s c x).hub.ring = s.hub.ring := rfl
@[simp] theorem modCtx_hub_ring (s : State) (c : Nat) (g : Ctx → Ctx) : (modCtx s c g).hub.ring = s.hub.ring := rfl
@[simp] theorem putCtx_hub_migs (s : State) (c : Nat) (x : Ctx) : (putCtx s c x).hub.migs = s.hub.migs := rfl
@[simp] theorem modCtx_hub_migs (s : State) (c : Nat) (g : Ctx → Ctx) : (modCtx s c g).hub.migs = s.hub.migs := rfl
@[simp] theorem putCtx_hub_marea (s : State) (c : Nat) (x : Ctx) : (putCtx s c x).hub.marea = s.hub.marea := rfl
@[simp] theorem modCtx_hub_marea (s : State) (c : Nat) (g : Ctx → Ctx) : (modCtx s c g).hub.marea = s.hub.marea := rfl
@[simp] theorem putCtx_hub_samap (s : State) (c : Nat) (x : Ctx) : (putCtx s c x).hub.samap = s.hub.samap := rfl
@[simp] theorem modCtx_hub_samap (s : State) (c : Nat) (g : Ctx → Ctx) : (modCtx s c g).hub.samap = s.hub.samap := rfl
@[simp] theorem putCtx_hub_mjs (s : State) (c : Nat) (x : Ctx) : (putCtx s c x).hub.mjs = s.hub.mjs := rfl
@[simp] theorem modCtx_hub_mjs (s : State) (c : Nat) (g : Ctx → Ctx) : (modCtx s c g).hub.mjs = s.hub.mjs := rfl
@[simp] theorem putCtx_hub_tokq (s : State) (c : Nat) (x : Ctx) : (putCtx s c x).hub.tokq = s.hub.tokq := rfl
@[simp] theorem modCtx_hub_tokq (s : State) (c : Nat) (g : Ctx → Ctx) : (modCtx s c g).hub.tokq = s.hub.tokq := rfl
@[simp] theorem putCtx_hub_tokAt (s : State) (c : Nat) (x : Ctx) : (putCtx s c x).hub.tokAt = s.hub.tokAt := rfl
@[simp] theorem modCtx_hub_tokAt (s : State) (c : Nat) (g : Ctx → Ctx) : (modCtx s c g).hub.tokAt = s.hub.tokAt := rfl
@[simp] theorem putCtx_hub_rr (s : State) (c : Nat) (x : Ctx) : (putCtx s c x).hub.rr = s.hub.rr := rfl
@[simp] theorem modCtx_hub_rr (s : State) (c : Nat) (g : Ctx → Ctx) : (modCtx s c g).hub.rr = s.hub.rr := rfl
@[simp] theorem putCtx_hub_turns (s : State) (c : Nat) (x : Ctx) : (putCtx s c x).hub.turns = s.hub.turns := rfl
@[simp] theorem modCtx_hub_turns (s : State) (c : Nat) (g : Ctx → Ctx) : (modCtx s c g).hub.turns = s.hub.turns := rfl
@[simp] theorem putCtx_hub_flips (s : State) (c : Nat) (x : Ctx) : (putCtx s c x).hub.flips = s.hub.flips := rfl
@[simp] theorem modCtx_hub_flips (s : State) (c : Nat) (g : Ctx → Ctx) : (modCtx s c g).hub.flips = s.hub.flips := rfl

/-! ### Reading after writing -/

theorem coreOf_putCore (s : State) (c d : Nat) (x : Core) : coreOf (putCore s c x) d = if d = c then x else coreOf s d :=
  tget_tput _ _ _ _ _

@[simp] theorem coreOf_putCore_same (s : State) (c : Nat) (x : Core) : coreOf (putCore s c x) c = x :=
  tget_tput_same _ _ _ _

@[simp] theorem archOf_putArch_same (s : State) (c : Nat) (a : Arch) : archOf (putArch s c a) c = a := by
  simp [archOf, putArch]

@[simp] theorem archOf_modArch_same (s : State) (c : Nat) (g : Arch → Arch) : archOf (modArch s c g) c = g (archOf s c) := by
  simp [modArch]

theorem coreOf_modArch (s : State) (c d : Nat) (g : Arch → Arch) : coreOf (modArch s c g) d =
    if d = c then { coreOf s c with arch := g (archOf s c) } else coreOf s d := coreOf_putCore _ _ _ _

theorem archOf_modArch_ne (s : State) {c d : Nat} (g : Arch → Arch) (h : d ≠ c) :
    archOf (modArch s c g) d = archOf s d := by
  simp [archOf, coreOf_modArch, h]

@[simp] theorem stream_withStream_same (a : Arch) (b : Bool) (x : Stream) : (a.withStream b x).stream b = x := by
  cases b <;> rfl

theorem stream_withStream (a : Arch) (b c : Bool) (x : Stream) :
    (a.withStream b x).stream c = if c = b then x else a.stream c := by
  cases b <;> cases c <;> rfl

@[simp] theorem strmOf_modStrm_same (s : State) (k : Sid) (g : Stream → Stream) :
    strmOf (modStrm s k g) k = g (strmOf s k) := by
  simp [strmOf, modStrm, putStrm]

@[simp] theorem strmOf_putStrm_same (s : State) (k : Sid) (x : Stream) : strmOf (putStrm s k x) k = x := by
  simp [strmOf, putStrm]

theorem strmOf_modStrm_ne (s : State) {k j : Sid} (g : Stream → Stream) (h : j ≠ k) :
    strmOf (modStrm s k g) j = strmOf s j := by
  by_cases hc : j.core = k.core
  · have hs : j.side ≠ k.side := by
      intro e; apply h; cases j; cases k; simp_all
    simp [strmOf, modStrm, putStrm, hc, stream_withStream, hs]
  · simp [strmOf, modStrm, putStrm, archOf_modArch_ne _ _ hc]

theorem ctxOf_putCtx (s : State) (c d : Nat) (x : Ctx) : ctxOf (putCtx s c x) d = if d = c then x else ctxOf s d :=
  tget_tput _ _ _ _ _

@[simp] theorem ctxOf_putCtx_same (s : State) (c : Nat) (x : Ctx) : ctxOf (putCtx s c x) c = x :=
  tget_tput_same _ _ _ _

@[simp] theorem ctxOf_modCtx_same (s : State) (c : Nat) (g : Ctx → Ctx) : ctxOf (modCtx s c g) c = g (ctxOf s c) := by
  simp [modCtx]

theorem ctxOf_modCtx_ne (s : State) {c d : Nat} (g : Ctx → Ctx) (h : d ≠ c) : ctxOf (modCtx s c g) d = ctxOf s d := by
  simp [modCtx, ctxOf_putCtx, h]

/-! ### Hard-wired registers (R10, R16) -/

@[simp] theorem reg_zero (x : Stream) : x.reg 0 = 0 := rfl
@[simp] theorem flag_zero (x : Stream) : x.flag 0 = true := rfl
@[simp] theorem maskReg_zero (x : Cluster) : x.maskReg 0 = 0xFFFF := rfl
@[simp] theorem setReg_zero (x : Stream) (w : Word) : x.setReg 0 w = x := rfl
@[simp] theorem setFlag_zero (x : Stream) (b : Bool) : x.setFlag 0 b = x := rfl

/-- A scalar register after a write: the word at its number, every other as before. -/
theorem reg_setReg (x : Stream) (n m : BitVec 5) (w : Word) (h : n ≠ 0) :
    (x.setReg n.toNat w).reg m = if m = n then w else x.reg m := by
  have h0 : n.toNat ≠ 0 := fun e => h (BitVec.eq_of_toNat_eq (by simpa using e))
  by_cases hm : m = 0
  · subst hm; rw [if_neg (Ne.symm h)]; rfl
  · have e : (m.toNat = n.toNat) = (m = n) := propext ⟨BitVec.eq_of_toNat_eq, congrArg _⟩
    simp only [Stream.setReg, Stream.reg, if_neg h0, if_neg hm, tget_tput, e]

end Sys2Proof.Laws
end

