-- ==== Sys2Proof/Laws/Ops.lean ====
section
/-!
SUPPORT. What each shared operation does, said once: the issue of a slot, an operation put in flight, an access, a request,
the writes of memory, a trap's entry.
-/
namespace Sys2Proof.Laws
open Sys2Proof.Machine
set_option Elab.async false

/-! ### The issue of one slot (R59) -/

/-- A slot that does not execute has no effect. -/
theorem runSlot_off {h : Slot} {p : State} (off : slotOn p h = false) (g : State → State → SlotRes) (s : State) :
    runSlot h g p s = .ok s := by simp [runSlot, off]

/-- A slot that executes does what its meaning says. -/
theorem runSlot_on {h : Slot} {p : State} (on : slotOn p h = true) (g : State → State → SlotRes) (s : State) :
    runSlot h g p s = g p s := by simp [runSlot, on]

/-- A slot by itself never stops: it always answers a next state. -/
theorem slotStep_next (h : Slot) (g : State → State → SlotRes) (s : State) : ∃ t, slotStep h g s = .next t := by
  unfold slotStep; split <;> exact ⟨_, rfl⟩

theorem slotStep_off {h : Slot} {s : State} (off : slotOn s h = false) (g : State → State → SlotRes) :
    slotStep h g s = .next s := by simp [slotStep, runSlot_off off]

theorem slotStep_ok {h : Slot} {g : State → State → SlotRes} {s t : State} (on : slotOn s h = true) (r : g s s = .ok t) :
    slotStep h g s = .next t := by simp [slotStep, runSlot_on on, r]

theorem slotStep_hold {h : Slot} {g : State → State → SlotRes} {s : State} {n : Nat} {d : Bool} {w : Wait} (on : slotOn s h = true)
    (r : g s s = .hold n d w) : slotStep h g s = .next (applyWait s s.focus w) := by simp [slotStep, runSlot_on on, r]

theorem slotStep_trap {h : Slot} {g : State → State → SlotRes} {s : State} {t : Trap} (on : slotOn s h = true) (r : g s s = .trap t) :
    slotStep h g s = .next (takeTrap s s.focus t) := by simp [slotStep, runSlot_on on, r]

/-- Everything that a slot by itself can do: nothing, its effects, a wait, a trap. -/
theorem slotStep_cases {h : Slot} {g : State → State → SlotRes} {s t : State} (e : slotStep h g s = .next t) :
    (slotOn s h = false ∧ t = s) ∨ (slotOn s h = true ∧ (g s s = .ok t ∨ (∃ n d w, g s s = .hold n d w ∧ t = applyWait s s.focus w) ∨
      ∃ x, g s s = .trap x ∧ t = takeTrap s s.focus x)) := by
  cases on : slotOn s h with
  | false => rw [slotStep_off on] at e; cases e; exact .inl ⟨rfl, rfl⟩
  | true =>
    refine .inr ⟨rfl, ?_⟩
    cases r : g s s with
    | ok u => rw [slotStep_ok on r] at e; cases e; exact .inl rfl
    | hold n d w => rw [slotStep_hold on r] at e; cases e; exact .inr (.inl ⟨n, d, w, rfl, rfl⟩)
    | trap x => rw [slotStep_trap on r] at e; cases e; exact .inr (.inr ⟨x, rfl, rfl⟩)

/-! ### Operations in flight (R28, R57) -/

/-- An operation put in flight stands last in the issuing stream's pipe. -/
@[simp] theorem emit_strm (s : State) (x : Flight) : strmOf (emit s x) s.focus =
    { strmOf s s.focus with pipe := { (strmOf s s.focus).pipe with ops := (strmOf s s.focus).pipe.ops ++ [x] } } := by simp [emit]

theorem emit_strm_ne (s : State) (x : Flight) {k : Sid} (h : k ≠ s.focus) : strmOf (emit s x) k = strmOf s k := by
  simp only [emit]; exact strmOf_modStrm_ne s _ h


/-- Nothing outside the cores changes. -/
theorem emit_outside (s : State) (x : Flight) : SameOutside s (emit s x) :=
  ⟨rfl, rfl, rfl, rfl, rfl, rfl, rfl, rfl, rfl, rfl, rfl, rfl⟩

/-- No other core changes. -/
theorem emit_cores (s : State) (x : Flight) : SameCores s (emit s x) s.focus.core := by
  intro c hc; show coreOf (putCore s s.focus.core _) c = _; rw [coreOf_putCore, if_neg hc]

/-- The new operation. -/
theorem emit_newOp (s : State) (x : Flight) : NewOp s (emit s x) x := by simp [NewOp]

/-! ### Accesses (R136, R285 to R297) -/

/-- An access that is answered has found an entry that maps its address, is allowed there, and the region is resident. -/
theorem access_ok {s : State} {c : Nat} {a : Ask} {va : Word} {i pa : Nat} {e : TEntry} (h : access s c a va = .ok (i, e, pa)) :
    lookupE (archOf s c).tab (wf va 0 48) = some (i, e) ∧ pa = entryPa c e a.engWr (wf va 0 48) ∧ askPerm s c e a pa = true ∧
      ((a.timed && decide (e.lcl = 7)) || (a.own && !inSlice s c pa)) = false ∧ e.res = 0 := by
  unfold access at h
  split at h
  · cases h
  · rename_i j f hl
    by_cases h1 : (!askPerm s c f a (entryPa c f a.engWr (wf va 0 48))) = true
    · simp [h1] at h
    · by_cases h2 : ((a.timed && decide (f.lcl = 7)) || (a.own && !inSlice s c (entryPa c f a.engWr (wf va 0 48)))) = true
      · simp only [h1, h2] at h; simp at h
      · simp only [h1, h2] at h
        cases hr : f.res with
        | zero =>
          simp only [hr] at h
          simp only [Bool.false_eq_true, ↓reduceIte, Except.ok.injEq, Prod.mk.injEq] at h
          obtain ⟨rfl, rfl, rfl⟩ := h
          refine ⟨hl, rfl, by simpa using h1, by simpa using h2, hr⟩
        | succ n =>
          rcases n with _ | _ | n <;> simp [hr] at h

/-- An address that no entry maps is the unmapped trap. -/
theorem access_unmapped {s : State} {c : Nat} {a : Ask} {va : Word} (h : lookupE (archOf s c).tab (wf va 0 48) = none) :
    access s c a va = .error 3 := by simp [access, h]

/-! ### Requests (R57, R307) -/

/-- A request enters the issuing core's list, and takes the next identity. -/
theorem issueReq_spec (s : State) (h : Slot) (op : ReqOp) (pa len : Nat) (data : Row) (mask : BitVec 64) (cmp : Word) (ord : BitVec 2)
    (scp : Nat) (hnd : Option Nat) (part : Bool) : let t := (issueReq s h op pa len data mask cmp ord scp hnd part).2
    (issueReq s h op pa len data mask cmp ord scp hnd part).1 = s.ids ∧ t.ids = s.ids + 1 ∧ t.mem = s.mem ∧ t.hub = s.hub ∧ t.net = s.net ∧
      t.focus = s.focus ∧ ∃ r, NewReq s t r ∧ r.id = s.ids ∧ r.op = op ∧ r.pa = pa ∧ r.len = len ∧ r.data = data ∧ r.mask = mask ∧
        r.cmp = cmp ∧ r.side = s.focus.side ∧ r.slot = h.pos ∧ r.sent = false := by
  refine ⟨rfl, rfl, rfl, rfl, rfl, rfl, ?_⟩
  let c := coreOf s s.focus.core
  let r : Req :=
    { id := s.ids, side := s.focus.side, slot := h.pos, pc := s.iss.pc, op := op, pa := pa, len := len, data := data, mask := mask
      cmp := cmp, acq := ord = 1, rel := ord = 2, scp := scp, hnd := hnd
      wait := reqWaits s s.focus pa (relScopes s s.focus (op == .store) ord scp)
      stg := if c.split ∨ op = .load then none else some c.seq, sent := false
      sig := op != .load && !(relScopes s s.focus (op == .store) ord scp).isEmpty
      part := part, ctx := (nodeIds s s.focus.core).1, node := (nodeIds s s.focus.core).2 }
  exact ⟨r, congrArg Arch.reqs (archOf_modArch_same s s.focus.core fun a => { a with reqs := a.reqs ++ [r] }),
    rfl, rfl, rfl, rfl, rfl, rfl, rfl, rfl, rfl, rfl⟩

/-! ### Writes of memory (R2, R391) -/

@[simp] theorem markDirty_mem (s : State) (pa : Nat) : (markDirty s pa).mem = s.mem := by unfold markDirty; dsimp only; split <;> rfl
@[simp] theorem dropRels_mem (s : State) (pa mask : Nat) : (dropRels s pa mask).mem = s.mem := by unfold dropRels; dsimp only; split <;> rfl
@[simp] theorem dropDisc_mem (s : State) (pa : Nat) : (dropDisc s pa).mem = s.mem := by unfold dropDisc; dsimp only; split <;> rfl
@[simp] theorem poisonRow_mem (s : State) (pa : Nat) : (poisonRow s pa).mem = s.mem := by unfold poisonRow; split <;> rfl
@[simp] theorem countStack_mem (s : State) (pa : Nat) (b : Option Nat) : (countStack s pa b).mem = s.mem := by
  unfold countStack; split <;> rfl
@[simp] theorem meetError_mem (s : State) (pa : Nat) : (meetError s pa).mem = s.mem := by
  unfold meetError; split
  · simp
  · split <;> simp
@[simp] theorem meetIf_mem (s : State) (p : Prop) [Decidable p] (pa : Nat) : (if p then meetError s pa else s).mem = s.mem := by
  split <;> simp
@[simp] theorem noteBytes_mem (s : State) (pa mask : Nat) : (noteBytes s pa mask).mem = s.mem := by simp [noteBytes]

/-- Every write of memory keeps its canonical form. -/
theorem memWf_writeRow {s : State} (h : memWf s.mem = true) (pa : Nat) (r : Row) : memWf (writeRow s pa r).mem = true := by
  simp only [writeRow, noteBytes_mem]; exact memWf_writeN h _ _ _ _
theorem memWf_writePart {s : State} (h : memWf s.mem = true) (pa : Nat) (r : Row) (m : BitVec 64) : memWf (writePart s pa r m).mem = true := by
  simp only [writePart, noteBytes_mem]; exact memWf_writeN (by simpa using h) _ _ _ _
theorem memWf_writeWord {s : State} (h : memWf s.mem = true) (pa : Nat) (w : Word) : memWf (writeWord s pa w).mem = true := by
  simp only [writeWord, noteBytes_mem]; exact memWf_writeN (by simpa using h) _ _ _ _
theorem memWf_writeRec {s : State} (h : memWf s.mem = true) (a n v : Nat) : memWf (writeRec s a n v).mem = true := memWf_writeN h _ _ _ _

/-- Memory after reset is in canonical form. -/
theorem memWf_reset : memWf State.reset.mem = true := rfl

/-- A byte after a row was written. -/
theorem cellAt_writeRow {s : State} (h : memWf s.mem = true) (pa : Nat) (r : Row) (x : Nat)
    (out : x < canon (rowBase pa) ∨ canon (rowBase pa) + 64 ≤ x) : cellAt (writeRow s pa r).mem x = cellAt s.mem x := by
  simp only [writeRow, noteBytes_mem]; rw [cellAt_writeN h, if_neg (by omega)]

theorem writeRec_cores (s : State) (a n v : Nat) : (writeRec s a n v).cores = s.cores := rfl
theorem writeRec_focus (s : State) (a n v : Nat) : (writeRec s a n v).focus = s.focus := rfl
theorem writeRec_hub (s : State) (a n v : Nat) : (writeRec s a n v).hub = s.hub := rfl

/-- An error record keeps the canonical form, and no core changes. -/
theorem logPkg_spec (s : State) (e : ErrRec) : (memWf s.mem = true → memWf (logPkg s e).mem = true) ∧ (logPkg s e).cores = s.cores ∧
    (logPkg s e).focus = s.focus ∧ (logPkg s e).hub.ctxs = s.hub.ctxs := by
  unfold logPkg; dsimp only; split
  · exact ⟨id, rfl, rfl, rfl⟩
  · generalize hu : writeRec s _ _ _ = u
    have hm : memWf s.mem = true → memWf u.mem = true := fun h => by rw [← hu]; exact memWf_writeRec h _ _ _
    have h1 : u.cores = s.cores := by rw [← hu, writeRec_cores]
    have h2 : u.focus = s.focus := by rw [← hu, writeRec_focus]
    have h3 : u.hub = s.hub := by rw [← hu, writeRec_hub]
    have h4 : u.hub.ctxs = s.hub.ctxs := by rw [h3]
    exact ⟨hm, h1, h2, h4⟩

theorem logCtx_spec (s : State) (c : Nat) (e : ErrRec) : (memWf s.mem = true → memWf (logCtx s c e).mem = true) ∧
    (logCtx s c e).cores = s.cores ∧ (logCtx s c e).focus = s.focus := by
  unfold logCtx; dsimp only; split
  · exact ⟨id, rfl, rfl⟩
  · generalize hu : writeRec s _ _ _ = u
    have hm : memWf s.mem = true → memWf u.mem = true := fun h => by rw [← hu]; exact memWf_writeRec h _ _ _
    have h1 : u.cores = s.cores := by rw [← hu, writeRec_cores]
    have h2 : u.focus = s.focus := by rw [← hu, writeRec_focus]
    exact ⟨hm, h1, h2⟩

/-! ### Traps (R209, R210) -/

/-- Tokens given up leave memory, messages and contexts alone. -/
theorem returnTokens_outside (s : State) (c : Nat) : (returnTokens s c).mem = s.mem ∧ (returnTokens s c).net = s.net ∧
    (returnTokens s c).focus = s.focus ∧ (returnTokens s c).hub.ctxs = s.hub.ctxs := by
  refine ⟨rfl, rfl, rfl, ?_⟩
  unfold returnTokens; dsimp only; rw [modArch_hub]; dsimp only; split <;> split <;> rfl

/-- H-trap entry leaves memory, messages and contexts alone. -/
theorem enterHandler_outside (s : State) (k : Sid) (t : Trap) (hnd : BitVec 48) :
    (enterHandler s k t hnd).mem = s.mem ∧ (enterHandler s k t hnd).net = s.net ∧ (enterHandler s k t hnd).focus = s.focus ∧
      (enterHandler s k t hnd).hub.ctxs = s.hub.ctxs := by
  unfold enterHandler; dsimp only
  rw [putArch_mem, putArch_net, putArch_focus, putArch_hub]
  cases k.side
  · exact returnTokens_outside s k.core
  · exact ⟨rfl, rfl, rfl, rfl⟩

/-- The taken trap's stream stands at the handler's header, with the frame holding what R210 says. -/
theorem enterHandler_strm (s : State) (k : Sid) (t : Trap) (hnd : BitVec 48) : let y := strmOf (enterHandler s k t hnd) k
    y.pc = hnd ∧ y.due = .header ∧ y.stage = 0 ∧ y.lc0 = 0 ∧ y.lc1 = 0 ∧ y.frame.tcause = causeOf k t ∧ y.frame.tpc = t.tpc ∧
      y.frame.tfa = t.tfa ∧ y.frame.targ = t.targ := by
  have e : ∀ (u : State) (a : Arch) (x : Stream) (v : BitVec 32),
      strmOf (putArch u k.core { a.withStream k.side x with fpc := v }) k = x := by
    intro u a x v
    rw [strmOf, archOf_putArch_same]; unfold Arch.stream Arch.withStream; cases k.side <;> rfl
  unfold enterHandler; dsimp only; rw [e]; exact ⟨rfl, rfl, rfl, rfl, rfl, rfl, rfl, rfl, rfl⟩

end Sys2Proof.Laws
end

