-- ==== Sys2Proof/Tests/Slice0.lean ====
section
/-!
SUPPORT. Tests of the model: a word of every slot instruction, an ill-formed term for every check, small steps, and for
every statement a state that meets its hypotheses. Expected values come from the rules named, by hand.
-/
namespace Sys2Proof.Tests
open Sys2Proof.Machine
set_option Elab.async false

/-! ### Decoding: one word of every slot instruction, laid out from the formats of R69 and R70 and the maps of R75 to R79 -/

/-- Every word decodes at its position to the instruction beside it, and the encoder gives the word back. -/
def decodes (l : List (BitVec 5 × Parcel × Instr)) : Bool := l.all fun x => match decodeSlot x.1 x.2.1 with
  | .ok i => decide (i = x.2.2) && decide (encode i = some x.2.1)
  | .error _ => false

theorem test_decode_sc_1 : decodes [
  (0, 0x0807F1280000, .add ⟨0, false, 1, false⟩ ⟨31, 17, 5, 0, 0, 0, 0, 0⟩),
  (1, 0xC00BF1280000, .sub ⟨1, true, 8, false⟩ ⟨31, 17, 5, 0, 0, 0, 0, 0⟩),
  (0, 0x7C13F1280000, .and ⟨0, false, 15, true⟩ ⟨31, 17, 5, 0, 0, 0, 0, 0⟩),
  (1, 0xB417F1280000, .or ⟨1, true, 6, true⟩ ⟨31, 17, 5, 0, 0, 0, 0, 0⟩),
  (0, 0x681BF1280000, .xor ⟨0, false, 13, false⟩ ⟨31, 17, 5, 0, 0, 0, 0, 0⟩),
  (1, 0xA02BF1280000, .shl ⟨1, true, 4, false⟩ ⟨31, 17, 5, 0, 0, 0, 0, 0⟩),
  (0, 0x5C2FF1280000, .shr ⟨0, false, 11, true⟩ ⟨31, 17, 5, 0, 0, 0, 0, 0⟩),
  (1, 0x9433F1280000, .sra ⟨1, true, 2, true⟩ ⟨31, 17, 5, 0, 0, 0, 0, 0⟩),
  (0, 0x4843F1280000, .mul ⟨0, false, 9, false⟩ ⟨31, 17, 5, 0, 0, 0, 0, 0⟩),
  (1, 0x8047F1280000, .mulh ⟨1, true, 0, false⟩ ⟨31, 17, 5, 0, 0, 0, 0, 0⟩),
  (0, 0x3C4BF1280000, .mulhz ⟨0, false, 7, true⟩ ⟨31, 17, 5, 0, 0, 0, 0, 0⟩),
  (1, 0xF44FF1280000, .div ⟨1, true, 14, true⟩ ⟨31, 17, 5, 0, 0, 0, 0, 0⟩),
  (0, 0x2853F1280000, .divz ⟨0, false, 5, false⟩ ⟨31, 17, 5, 0, 0, 0, 0, 0⟩),
  (1, 0xE057F1280000, .rem ⟨1, true, 12, false⟩ ⟨31, 17, 5, 0, 0, 0, 0, 0⟩),
  (0, 0x1C5BF1280000, .remz ⟨0, false, 3, true⟩ ⟨31, 17, 5, 0, 0, 0, 0, 0⟩),
  (1, 0xD45FF1280000, .min ⟨1, true, 10, true⟩ ⟨31, 17, 5, 0, 0, 0, 0, 0⟩),
  (0, 0x0863F1280000, .max ⟨0, false, 1, false⟩ ⟨31, 17, 5, 0, 0, 0, 0, 0⟩),
  (1, 0xC067F1280000, .minz ⟨1, true, 8, false⟩ ⟨31, 17, 5, 0, 0, 0, 0, 0⟩),
  (0, 0x7C6BF1280000, .maxz ⟨0, false, 15, true⟩ ⟨31, 17, 5, 0, 0, 0, 0, 0⟩),
  (1, 0xB40FC2800001, .addi ⟨1, true, 6, true⟩ ⟨30, 2, 8388609⟩),
  (0, 0x681FC2800001, .andi ⟨0, false, 13, false⟩ ⟨30, 2, 8388609⟩),
  (1, 0xA023C2800001, .ori ⟨1, true, 4, false⟩ ⟨30, 2, 8388609⟩),
  (0, 0x5C27C2800001, .xori ⟨0, false, 11, true⟩ ⟨30, 2, 8388609⟩),
  (1, 0x94353400003F, .shli ⟨1, true, 2, true⟩ ⟨9, 20, 63⟩),
  (0, 0x48393400003F, .shri ⟨0, false, 9, false⟩ ⟨9, 20, 63⟩),
  (1, 0x803D3400003F, .srai ⟨1, true, 0, false⟩ ⟨9, 20, 63⟩)] = true := by decide +kernel
theorem test_decode_sc_2 : decodes [
  (0, 0x3C6C03E026C0, .cmp ⟨0, false, 7, true⟩ ⟨0, 3, 28, 0, 9, 11, 0, 0⟩),
  (1, 0xF47013B68001, .cmpi ⟨1, true, 14, true⟩ ⟨0, 19, 11960321⟩),
  (0, 0x2874E8483400, .csel ⟨0, false, 5, false⟩ ⟨7, 8, 9, 0, 13, 0, 0, 0⟩),
  (1, 0xE07B30000003, .movi ⟨1, true, 12, false⟩ ⟨25, 268435459⟩),
  (0, 0x1C7CDFFFFFFE, .movs ⟨0, false, 3, true⟩ ⟨6, 536870910⟩),
  (1, 0xD4803E000000, .clz ⟨1, true, 10, true⟩ ⟨1, 30, 0, 0, 0, 0, 0, 0⟩),
  (0, 0x08845D000000, .popc ⟨0, false, 1, false⟩ ⟨2, 29, 0, 0, 0, 0, 0, 0⟩),
  (1, 0xC0887C002F04, .bfx ⟨1, true, 8, false⟩ ⟨3, 28, 12036⟩),
  (0, 0x7C8C9B001000, .bfi ⟨0, false, 15, true⟩ ⟨4, 27, 4096⟩),
  (1, 0xB490BA680021, .fadd ⟨1, true, 6, true⟩ ⟨5, 26, 13, 0, 0, 0, 2, 1⟩),
  (0, 0x6894BA680021, .fsub ⟨0, false, 13, false⟩ ⟨5, 26, 13, 0, 0, 0, 2, 1⟩),
  (1, 0xA098BA680021, .fmul ⟨1, true, 4, false⟩ ⟨5, 26, 13, 0, 0, 0, 2, 1⟩),
  (0, 0x5C9CD974C012, .ffma ⟨0, false, 11, true⟩ ⟨6, 25, 14, 19, 0, 0, 1, 2⟩),
  (1, 0x94A0F8780001, .fmin ⟨1, true, 2, true⟩ ⟨7, 24, 15, 0, 0, 0, 0, 1⟩),
  (0, 0x48A517800002, .fmax ⟨0, false, 9, false⟩ ⟨8, 23, 16, 0, 0, 0, 0, 2⟩),
  (1, 0x80A8168831C2, .fcmp ⟨1, true, 0, false⟩ ⟨0, 22, 17, 0, 12, 7, 0, 2⟩),
  (0, 0x3CAD55000351, .fcvt ⟨0, false, 7, true⟩ ⟨10, 21, 0, 0, 0, 13, 1, 1⟩),
  (1, 0xF4B174900081, .fsgn ⟨1, true, 14, true⟩ ⟨11, 20, 18, 0, 0, 2, 0, 1⟩),
  (0, 0x28B400003C00, .pset ⟨0, false, 5, false⟩ ⟨0, 0, 0, 0, 15, 0, 0, 0⟩),
  (1, 0xE0B800003800, .pclr ⟨1, true, 12, false⟩ ⟨0, 0, 0, 0, 14, 0, 0, 0⟩),
  (0, 0x1CBC00003589, .pand ⟨0, false, 3, true⟩ ⟨0, 0, 0, 0, 13, 6, 0, 9⟩),
  (1, 0xD4C00000314A, .por ⟨1, true, 10, true⟩ ⟨0, 0, 0, 0, 12, 5, 0, 10⟩),
  (0, 0x08C400002D00, .pnot ⟨0, false, 1, false⟩ ⟨0, 0, 0, 0, 11, 4, 0, 0⟩)] = true := by decide +kernel
theorem test_decode_br : decodes [
  (3, 0xC00400800000, .bra ⟨3, true, 8, false⟩ ⟨0, 0, 0, 8388608⟩),
  (3, 0x7C0813000006, .brf ⟨3, false, 15, true⟩ ⟨0, 9, 1, 6⟩),
  (3, 0xB40FE07FFFFA, .call ⟨3, true, 6, true⟩ ⟨31, 0, 0, 8388602⟩),
  (3, 0x681015000000, .ret ⟨3, false, 13, false⟩ ⟨0, 21, 0, 0⟩),
  (3, 0xA01416008006, .jmp ⟨3, true, 4, false⟩ ⟨0, 22, 0, 32774⟩),
  (3, 0x5C1B30080001, .loop ⟨3, false, 11, true⟩ ⟨1, 4864, 524289⟩),
  (3, 0x9431FFF00001, .loopi ⟨3, true, 2, true⟩ ⟨0, 8191, 1⟩),
  (3, 0x481C00000001, .lbrk ⟨3, false, 9, false⟩ ⟨0, 0, 0, 1⟩),
  (3, 0x802000000000, .done ⟨3, true, 0, false⟩ ⟨0, 0, 0, 0⟩),
  (3, 0x3C241700BEEF, .trap ⟨3, false, 7, true⟩ ⟨0, 23, 0, 48879⟩),
  (3, 0xF42800000000, .eret ⟨3, true, 14, true⟩ ⟨0, 0, 0, 0⟩),
  (3, 0x282C00000000, .yield ⟨3, false, 5, false⟩ ⟨0, 0, 0, 0⟩)] = true := by decide +kernel
theorem test_decode_sm_1 : decodes [
  (2, 0xE004A60407E5, .ld ⟨2, true, 12, false⟩ ⟨5, 6, 0, 257, 15, 9, 1⟩),
  (2, 0x1C080743FC12, .st ⟨2, false, 3, true⟩ ⟨0, 7, 8, 255, 0, 4, 2⟩),
  (2, 0xD40D2003FC00, .ldx ⟨2, true, 10, true⟩ ⟨9, 0, 0, 255, 0, 0, 0⟩),
  (2, 0x08100053F800, .stx ⟨2, false, 1, false⟩ ⟨0, 0, 10, 254, 0, 0, 0⟩),
  (2, 0xC014005A3C00, .stg ⟨2, true, 8, false⟩ ⟨0, 0, 11, 143, 0, 0, 0⟩),
  (2, 0x7C1980041C00, .ldg ⟨2, false, 15, true⟩ ⟨12, 0, 0, 263, 0, 0, 0⟩),
  (2, 0xB41DAE7E00D5, .aadd ⟨2, true, 6, true⟩ ⟨13, 14, 15, 384, 3, 5, 1⟩),
  (2, 0x6821AE7E00D5, .aand ⟨2, false, 13, false⟩ ⟨13, 14, 15, 384, 3, 5, 1⟩),
  (2, 0xA025AE7E00D5, .aor ⟨2, true, 4, false⟩ ⟨13, 14, 15, 384, 3, 5, 1⟩),
  (2, 0x5C29AE7E00D5, .axor ⟨2, false, 11, true⟩ ⟨13, 14, 15, 384, 3, 5, 1⟩),
  (2, 0x942DAE7E00D5, .amin ⟨2, true, 2, true⟩ ⟨13, 14, 15, 384, 3, 5, 1⟩),
  (2, 0x4831AE7E00D5, .amax ⟨2, false, 9, false⟩ ⟨13, 14, 15, 384, 3, 5, 1⟩),
  (2, 0x8035AE7E00D5, .aminz ⟨2, true, 0, false⟩ ⟨13, 14, 15, 384, 3, 5, 1⟩),
  (2, 0x3C39AE7E00D5, .amaxz ⟨2, false, 7, true⟩ ⟨13, 14, 15, 384, 3, 5, 1⟩),
  (2, 0xF43DAE7E00D5, .axch ⟨2, true, 14, true⟩ ⟨13, 14, 15, 384, 3, 5, 1⟩),
  (2, 0x2845AE7E00D5, .afadd ⟨2, false, 5, false⟩ ⟨13, 14, 15, 384, 3, 5, 1⟩),
  (2, 0xE0421193FC1E, .acas ⟨2, true, 12, false⟩ ⟨16, 17, 18, 255, 0, 7, 2⟩),
  (2, 0x1C4A74A80028, .mjld ⟨2, false, 3, true⟩ ⟨19, 20, 21, 0, 0, 10, 0⟩),
  (2, 0xD44ED7C00028, .mjst ⟨2, true, 10, true⟩ ⟨22, 23, 24, 0, 0, 10, 0⟩),
  (2, 0x085000000000, .fenceAcquire ⟨2, false, 1, false⟩ ⟨0, 0, 0, 0, 0, 0, 0⟩),
  (2, 0xC05000000424, .fenceRelease ⟨2, true, 8, false⟩ ⟨0, 0, 0, 1, 0, 9, 0⟩),
  (2, 0x7C500000080C, .fenceFull ⟨2, false, 15, true⟩ ⟨0, 0, 0, 2, 0, 3, 0⟩),
  (2, 0xB45000000C04, .fenceEngineComplete ⟨2, true, 6, true⟩ ⟨0, 0, 0, 3, 0, 1, 0⟩),
  (2, 0x685000001020, .fencePublishVisible ⟨2, false, 13, false⟩ ⟨0, 0, 0, 4, 0, 8, 0⟩),
  (2, 0xA05400003C1C, .bar ⟨2, true, 4, false⟩ ⟨0, 0, 0, 15, 0, 7, 0⟩),
  (2, 0x5C5B20D00400, .evpop ⟨2, false, 11, true⟩ ⟨25, 0, 26, 1, 0, 0, 0⟩)] = true := by decide +kernel
theorem test_decode_sm_2 : decodes [
  (2, 0x945C1BE5541A, .evpost ⟨2, true, 2, true⟩ ⟨0, 27, 28, 341, 0, 6, 2⟩),
  (2, 0x4863BE000000, .launch ⟨2, false, 9, false⟩ ⟨29, 30, 0, 0, 0, 0, 0⟩),
  (2, 0x8067E0017C00, .sysr ⟨2, true, 0, false⟩ ⟨31, 0, 0, 95, 0, 0, 0⟩),
  (2, 0x3C6800088000, .sysw ⟨2, false, 7, true⟩ ⟨0, 0, 1, 32, 0, 0, 0⟩),
  (2, 0xF46C43000000, .tq ⟨2, true, 14, true⟩ ⟨2, 3, 0, 0, 0, 0, 0⟩),
  (2, 0x287004280018, .chsigReady ⟨2, false, 5, false⟩ ⟨0, 4, 5, 0, 0, 6, 0⟩),
  (2, 0xE07006380418, .chsigReturn ⟨2, true, 12, false⟩ ⟨0, 6, 7, 1, 0, 6, 0⟩),
  (2, 0x1C7408000000, .brel ⟨2, false, 3, true⟩ ⟨0, 8, 0, 0, 0, 0, 0⟩)] = true := by decide +kernel
theorem test_decode_va_1 : decodes [
  (11, 0xD407F0520732, .vadd ⟨11, true, 10, true⟩ ⟨31, 32, 41, 0, 7, 3, 0, 1, 0⟩),
  (4, 0x080BD0D00628, .vsub ⟨4, false, 1, false⟩ ⟨30, 33, 40, 0, 6, 2, 2, 0, 0⟩),
  (5, 0xC00FB14E05A2, .vmul ⟨5, true, 8, false⟩ ⟨29, 34, 39, 0, 5, 10, 0, 1, 0⟩),
  (6, 0x7C1391CC0490, .vmulh ⟨6, false, 15, true⟩ ⟨28, 35, 38, 0, 4, 9, 0, 0, 0⟩),
  (7, 0xB417724A2B14, .vfma ⟨7, true, 6, true⟩ ⟨27, 36, 37, 5, 3, 1, 1, 0, 0⟩),
  (8, 0x681B724A2B14, .vfms ⟨8, false, 13, false⟩ ⟨27, 36, 37, 5, 3, 1, 1, 0, 0⟩),
  (9, 0xA01F724A2B14, .vfnma ⟨9, true, 4, false⟩ ⟨27, 36, 37, 5, 3, 1, 1, 0, 0⟩),
  (10, 0x5C2340840208, .vmin ⟨10, false, 11, true⟩ ⟨26, 1, 2, 0, 2, 0, 2, 0, 0⟩),
  (11, 0x942721880150, .vmax ⟨11, true, 2, true⟩ ⟨25, 3, 4, 0, 1, 5, 0, 0, 0⟩),
  (4, 0x482B02800072, .vabs ⟨4, false, 9, false⟩ ⟨24, 5, 0, 0, 0, 7, 0, 1, 0⟩),
  (5, 0x802EE3000720, .vneg ⟨5, true, 0, false⟩ ⟨23, 6, 0, 0, 7, 2, 0, 0, 0⟩),
  (6, 0x3C32C3A80030, .vand ⟨6, false, 7, true⟩ ⟨22, 7, 20, 0, 0, 3, 0, 0, 0⟩),
  (7, 0xF436A42A0140, .vor ⟨7, true, 14, true⟩ ⟨21, 8, 21, 0, 1, 4, 0, 0, 0⟩),
  (8, 0x283A84AC0250, .vxor ⟨8, false, 5, false⟩ ⟨20, 9, 22, 0, 2, 5, 0, 0, 0⟩),
  (9, 0xE03E652E0360, .vshl ⟨9, true, 12, false⟩ ⟨19, 10, 23, 0, 3, 6, 0, 0, 0⟩),
  (10, 0x1C4245B00470, .vshr ⟨10, false, 3, true⟩ ⟨18, 11, 24, 0, 4, 7, 0, 0, 0⟩),
  (11, 0xD44626320580, .vsra ⟨11, true, 10, true⟩ ⟨17, 12, 25, 0, 5, 8, 0, 0, 0⟩),
  (4, 0x0848E81E5B40, .vcmp ⟨4, false, 1, false⟩ ⟨7, 16, 15, 11, 3, 4, 0, 0, 0⟩),
  (5, 0xC04DE71A0200, .vsel ⟨5, true, 8, false⟩ ⟨15, 14, 13, 0, 2, 0, 0, 0, 0⟩),
  (6, 0x7C51C6985990, .vclamp ⟨6, false, 15, true⟩ ⟨14, 13, 12, 11, 1, 9, 0, 0, 0⟩),
  (7, 0xB455B4800600, .vmov ⟨7, true, 6, true⟩ ⟨13, 41, 0, 0, 6, 0, 0, 0, 0⟩),
  (8, 0x68598F800580, .vbcs ⟨8, false, 13, false⟩ ⟨12, 31, 0, 0, 5, 8, 0, 0, 0⟩),
  (9, 0xA05D747E0470, .vext ⟨9, true, 4, false⟩ ⟨11, 40, 63, 0, 4, 7, 0, 0, 0⟩),
  (10, 0x5C614F3E0010, .vins ⟨10, false, 11, true⟩ ⟨10, 30, 31, 0, 0, 1, 0, 0, 0⟩),
  (11, 0x946526001342, .vred ⟨11, true, 2, true⟩ ⟨9, 12, 0, 2, 3, 4, 0, 1, 0⟩),
  (4, 0x486905940260, .vshuf ⟨4, false, 9, false⟩ ⟨8, 11, 10, 0, 2, 6, 0, 0, 0⟩)] = true := by decide +kernel
theorem test_decode_va_2 : decodes [
  (5, 0x806CE513F900, .vrmg ⟨5, true, 0, false⟩ ⟨7, 10, 9, 63, 1, 0, 0, 0, 0⟩),
  (6, 0x3C70C4860778, .vcvt ⟨6, false, 7, true⟩ ⟨6, 9, 3, 0, 7, 7, 2, 0, 0⟩),
  (7, 0xF474A40E06A2, .vpack ⟨7, true, 14, true⟩ ⟨5, 8, 7, 0, 6, 10, 0, 1, 0⟩),
  (8, 0x287883820590, .vunpk ⟨8, false, 5, false⟩ ⟨4, 7, 1, 0, 5, 9, 0, 0, 0⟩),
  (9, 0xE07C630704B0, .vqnt ⟨9, true, 12, false⟩ ⟨3, 6, 3, 32, 4, 11, 0, 0, 0⟩),
  (10, 0x1C80428F0BC0, .vdqnt ⟨10, false, 3, true⟩ ⟨2, 5, 7, 33, 3, 12, 0, 0, 0⟩),
  (11, 0xD48422061282, .vdot4 ⟨11, true, 10, true⟩ ⟨1, 4, 3, 2, 2, 8, 0, 1, 0⟩),
  (4, 0x088810000004, .vexp2 ⟨4, false, 1, false⟩ ⟨0, 32, 0, 0, 0, 0, 1, 0, 0⟩),
  (5, 0xC08C30800104, .vlog2 ⟨5, true, 8, false⟩ ⟨1, 33, 0, 0, 1, 0, 1, 0, 0⟩),
  (6, 0x7C9051000204, .vrcp ⟨6, false, 15, true⟩ ⟨2, 34, 0, 0, 2, 0, 1, 0, 0⟩),
  (7, 0xB49471800304, .vrsq ⟨7, true, 6, true⟩ ⟨3, 35, 0, 0, 3, 0, 1, 0, 0⟩),
  (8, 0x689892000404, .vsqrt ⟨8, false, 13, false⟩ ⟨4, 36, 0, 0, 4, 0, 1, 0, 0⟩),
  (9, 0xA09CB2800504, .vtanh ⟨9, true, 4, false⟩ ⟨5, 37, 0, 0, 5, 0, 1, 0, 0⟩),
  (10, 0x5CA0E30A0000, .vmand ⟨10, false, 11, true⟩ ⟨7, 6, 5, 0, 0, 0, 0, 0, 0⟩),
  (11, 0x94A4C2880000, .vmor ⟨11, true, 2, true⟩ ⟨6, 5, 4, 0, 0, 0, 0, 0, 0⟩),
  (4, 0x48A8A2000000, .vmnot ⟨4, false, 9, false⟩ ⟨5, 4, 0, 0, 0, 0, 0, 0, 0⟩),
  (5, 0x80AFE1800200, .vmpop ⟨5, true, 0, false⟩ ⟨31, 3, 0, 0, 2, 0, 0, 0, 0⟩),
  (6, 0x3CB3CEB80140, .vrng ⟨6, false, 7, true⟩ ⟨30, 29, 28, 0, 1, 4, 0, 0, 0⟩)] = true := by decide +kernel
theorem test_decode_vl : decodes [
  (15, 0xF407FE7FF0E8, .vld ⟨15, true, 14, true⟩ ⟨31, 30, 2047, 0, 7, 1, 0⟩),
  (16, 0x280BDD800010, .vst ⟨16, false, 5, false⟩ ⟨30, 29, 2048, 0, 0, 2, 0⟩),
  (17, 0xE00FBC0010C0, .vstm ⟨17, true, 12, false⟩ ⟨29, 28, 1, 0, 6, 0, 0⟩),
  (18, 0x1C139BFFFFA8, .vldt ⟨18, false, 3, true⟩ ⟨28, 27, 4095, 15, 5, 1, 0⟩),
  (19, 0xD4176F123080, .vldh ⟨19, true, 10, true⟩ ⟨27, 15, 291, 0, 4, 0, 0⟩),
  (12, 0x081B4E321000, .vsth ⟨12, false, 1, false⟩ ⟨26, 14, 801, 0, 0, 0, 0⟩),
  (13, 0xC01F2001F000, .vldx ⟨13, true, 8, false⟩ ⟨25, 0, 31, 0, 0, 0, 0⟩),
  (14, 0x7C230001E000, .vstx ⟨14, false, 15, true⟩ ⟨24, 0, 30, 0, 0, 0, 0⟩),
  (15, 0xB426F6000067, .vxfer ⟨15, true, 6, true⟩ ⟨23, 22, 0, 0, 3, 0, 7⟩),
  (16, 0x682AB4006011, .vqpush ⟨16, false, 13, false⟩ ⟨21, 20, 6, 0, 0, 2, 1⟩),
  (17, 0xA02E72801140, .vbld ⟨17, true, 4, false⟩ ⟨19, 18, 2049, 1, 2, 0, 0⟩)] = true := by decide +kernel
theorem test_decode_mx : decodes [
  (20, 0x5C07FBE07F00, .mlw ⟨20, false, 11, true⟩ ⟨15, 1, 3, 0, 31, 32512⟩),
  (20, 0x940B97DFC000, .mma ⟨20, true, 2, true⟩ ⟨14, 0, 2, 1, 30, 2080768⟩),
  (20, 0x480F6BB01F80, .mmar ⟨20, false, 9, false⟩ ⟨13, 1, 1, 0, 29, 1056640⟩),
  (20, 0x801304003F80, .mzr ⟨20, true, 0, false⟩ ⟨12, 0, 0, 1, 0, 16256⟩),
  (20, 0x3C16E780C240, .mst ⟨20, false, 7, true⟩ ⟨11, 1, 0, 1, 28, 49728⟩),
  (20, 0xF41A9B600000, .mscl ⟨20, true, 14, true⟩ ⟨10, 0, 3, 0, 27, 0⟩),
  (20, 0x281E7750A180, .mnest ⟨20, false, 5, false⟩ ⟨9, 1, 2, 1, 26, 1089920⟩),
  (20, 0xE0220F224460, .mcop ⟨20, true, 12, false⟩ ⟨8, 0, 1, 1, 25, 148576⟩),
  (20, 0x1C25E31F2000, .smv ⟨20, false, 3, true⟩ ⟨7, 1, 0, 0, 24, 2039808⟩)] = true := by decide +kernel
theorem test_decode_cp : decodes [
  (21, 0xD40462FAF800, .cpy ⟨21, true, 10, true⟩ ⟨1, 1, 0, 0, 23, 1767424⟩),
  (21, 0x080882D9F000, .cpg ⟨21, false, 1, false⟩ ⟨2, 0, 0, 0, 22, 1699840⟩),
  (21, 0xC00CE2B80000, .cps ⟨21, true, 8, false⟩ ⟨3, 1, 0, 0, 21, 1572864⟩),
  (21, 0x7C1102970200, .cptOffload ⟨21, false, 15, true⟩ ⟨4, 0, 0, 0, 20, 1507840⟩),
  (21, 0xB41162600600, .cptFetch ⟨21, true, 6, true⟩ ⟨5, 1, 0, 0, 19, 1536⟩),
  (21, 0x68158256EC00, .cpz ⟨21, false, 13, false⟩ ⟨6, 0, 0, 0, 18, 1502208⟩),
  (21, 0xA019E2350400, .coll ⟨21, true, 4, false⟩ ⟨7, 1, 0, 0, 17, 1377280⟩),
  (21, 0x5C1E02040000, .pub ⟨21, false, 11, true⟩ ⟨8, 0, 0, 0, 16, 262144⟩),
  (21, 0x942261F30000, .cpf ⟨21, true, 2, true⟩ ⟨9, 1, 0, 0, 15, 1245184⟩),
  (21, 0x482681D20500, .cpc ⟨21, false, 9, false⟩ ⟨10, 0, 0, 0, 14, 1180928⟩)] = true := by decide +kernel
theorem test_decode_tx : decodes [
  (22, 0x8006E1BFBEC0, .txp ⟨22, true, 0, false⟩ ⟨11, 1, 0, 0, 13, 2080448⟩),
  (22, 0x3C0B19800000, .txw ⟨22, false, 7, true⟩ ⟨12, 0, 3, 0, 12, 0⟩)] = true := by decide +kernel
theorem test_decode_hq : decodes [
  (23, 0xF407FE000000, .hdef ⟨23, true, 14, true⟩ ⟨15, 31, 0, 0, 0, 0, 0⟩),
  (23, 0x280B80080004, .hadv ⟨23, false, 5, false⟩ ⟨14, 0, 0, 4096, 0, 1, 0⟩),
  (23, 0xE00C000001B0, .hqry ⟨23, true, 12, false⟩ ⟨0, 0, 0, 3, 3, 0, 0⟩),
  (23, 0x1C103C000070, .qcfg ⟨23, false, 3, true⟩ ⟨0, 30, 0, 0, 7, 0, 0⟩),
  (23, 0xD4143BC80060, .qspl ⟨23, true, 10, true⟩ ⟨0, 29, 28, 4096, 6, 0, 0⟩)] = true := by decide +kernel

/-! ### The worked words of the spec -/

/-- Words whose fields the spec writes out: sections 03 to 08, 13, 16 and 17. -/
theorem test_worked_words : decodes [
  (0, 0x000529500000, .add ⟨0, false, 0, false⟩ ⟨9, 9, 10, 0, 0, 0, 0, 0⟩), (4, 0x000450040030, .vadd ⟨4, false, 0, false⟩ ⟨2, 32, 2, 0, 0, 3, 0, 0, 0⟩),
  (6, 0x001460841810, .vfma ⟨6, false, 0, false⟩ ⟨3, 1, 2, 3, 0, 1, 0, 0, 0⟩), (14, 0x001024000400, .vldt ⟨14, false, 0, false⟩ ⟨1, 4, 0, 4, 0, 0, 0⟩),
  (1, 0x007006530028, .cmpi ⟨1, false, 0, false⟩ ⟨0, 6, 0x530028⟩), (0, 0x009061100000, .fadd ⟨0, false, 0, false⟩ ⟨3, 1, 2, 0, 0, 0, 0, 0⟩),
  (3, 0x001A20000005, .loop ⟨3, false, 0, false⟩ ⟨1, 0x200, 5⟩), (5, 0x0084A0842872, .vdot4 ⟨5, false, 0, false⟩ ⟨5, 1, 2, 5, 0, 7, 0, 1, 0⟩),
  (2, 0x0004A407F900, .ld ⟨2, false, 0, false⟩ ⟨5, 4, 0, 0x1FE, 4, 0, 0⟩), (2, 0x00440638001E, .afadd ⟨2, false, 0, false⟩ ⟨0, 6, 7, 0, 0, 7, 2⟩),
  (13, 0x001463001000, .vldh ⟨13, false, 0, false⟩ ⟨3, 3, 1, 0, 0, 0, 0⟩), (23, 0x0008C0000104, .hadv ⟨23, false, 0, false⟩ ⟨3, 0, 0, 2, 0, 1, 0⟩),
  (20, 0x000948800780, .mma ⟨20, false, 0, false⟩ ⟨5, 0, 1, 0, 4, 0x780⟩), (2, 0x005000000414, .fenceRelease ⟨2, false, 0, false⟩ ⟨0, 0, 0, 1, 0, 5, 0⟩),
  (2, 0x00540000080C, .bar ⟨2, false, 0, false⟩ ⟨0, 0, 0, 2, 0, 3, 0⟩), (2, 0x005840180000, .evpop ⟨2, false, 0, false⟩ ⟨2, 0, 3, 0, 0, 0, 0⟩),
  (2, 0x005C05302400, .evpost ⟨2, false, 0, false⟩ ⟨0, 5, 6, 9, 0, 0, 0⟩), (2, 0x00614B000000, .launch ⟨2, false, 0, false⟩ ⟨10, 11, 0, 0, 0, 0, 0⟩),
  (2, 0x007006380018, .chsigReady ⟨2, false, 0, false⟩ ⟨0, 6, 7, 0, 0, 6, 0⟩), (2, 0x006D84000000, .tq ⟨2, false, 0, false⟩ ⟨12, 4, 0, 0, 0, 0, 0⟩),
  (2, 0x0064A0008000, .sysr ⟨2, false, 0, false⟩ ⟨5, 0, 0, 0x20, 0, 0, 0⟩), (2, 0x006800209400, .sysw ⟨2, false, 0, false⟩ ⟨0, 0, 4, 0x25, 0, 0, 0⟩),
  (2, 0x00080428000A, .st ⟨2, false, 0, false⟩ ⟨0, 4, 5, 0, 0, 2, 2⟩), (2, 0x0004C40002C9, .ld ⟨2, false, 0, false⟩ ⟨6, 4, 0, 0, 11, 2, 1⟩),
  (3, 0x28240E000001, .trap ⟨3, false, 5, false⟩ ⟨0, 14, 0, 1⟩), (0, 0x1C0529500000, .add ⟨0, false, 3, true⟩ ⟨9, 9, 10, 0, 0, 0, 0, 0⟩),
  (3, 0x181C00000001, .lbrk ⟨3, false, 3, false⟩ ⟨0, 0, 0, 1⟩), (3, 0x002800000000, .eret ⟨3, false, 0, false⟩ ⟨0, 0, 0, 0⟩),
  (0, 0x006C0B901400, .cmp ⟨0, false, 0, false⟩ ⟨0, 11, 18, 0, 5, 0, 0, 0⟩), (1, 0x000D6B000008, .addi ⟨1, false, 0, false⟩ ⟨11, 11, 8⟩),
  (8, 0x0064C2800030, .vred ⟨8, false, 0, false⟩ ⟨6, 5, 0, 0, 0, 3, 0, 0, 0⟩), (3, 0x003003A00003, .loopi ⟨3, false, 0, false⟩ ⟨0, 58, 3⟩),
  (12, 0x0008C6003000, .vst ⟨12, false, 0, false⟩ ⟨6, 6, 3, 0, 0, 0, 0⟩), (4, 0x004820800840, .vcmp ⟨4, false, 0, false⟩ ⟨1, 1, 0, 1, 0, 4, 0, 0, 0⟩),
  (3, 0x000400FFFF22, .bra ⟨3, false, 0, false⟩ ⟨0, 0, 0, 0xFFFF22⟩), (4, 0x000C60840170, .vmul ⟨4, false, 0, false⟩ ⟨3, 1, 2, 0, 1, 7, 0, 0, 0⟩),
  (0, 0x007880000091, .movi ⟨0, false, 0, false⟩ ⟨4, 0x91⟩), (0, 0x007C94560000, .movs ⟨0, false, 0, false⟩ ⟨4, 0x14560000⟩)] = true := by decide +kernel

/-- R54, R64: the header and the descriptor that section 03 works out. -/
theorem test_worked_headers :
    decodeHdr 0x001C05000011 = { z := 0, rp := false, wp := false, wf := 3, we := true, pop := 1, fz := false, st := true, pm := 0x11 } ∧
    decodeDesc 0x00000035001D = { z := 0, plen := 3, rrg := false, alp := 5, len := 1, stl := true, pt := 5 } := by decide +kernel


/-! ### Well-formedness: one ill-formed term for every check -/

/-- None of these is well formed, and so no word that stands for one decodes to it. -/
def refused (l : List Instr) : Bool := l.all fun i => !i.wf

/-- Slots of the classes, and a slot word at a position of no class. -/
def sc : Slot := ⟨0, false, 0, false⟩
def smS : Slot := ⟨2, false, 0, false⟩
def brS : Slot := ⟨3, false, 0, false⟩
def va (c : Nat) : Slot := ⟨BitVec.ofNat 5 (4 + c), false, 0, false⟩
def vl (c : Nat) : Slot := ⟨BitVec.ofNat 5 (12 + c), false, 0, false⟩
def mxS : Slot := ⟨20, false, 0, false⟩
def cpS : Slot := ⟨21, false, 0, false⟩
def txS : Slot := ⟨22, false, 0, false⟩
def hqS : Slot := ⟨23, false, 0, false⟩
def out : Slot := ⟨24, false, 0, false⟩

/-- R55, R69: a `nop` stands at a listed position with its other bits zero. -/
theorem test_wf_nop : refused ([.nop out, .nop { sc with vt := true }, .nop { sc with pf := 1 }, .nop { sc with pn := true }]) = true := by decide +kernel

/-- R87: the three-register forms name no other field. -/
theorem test_wf_alu : refused ([Instr.add, .sub, .and, .or, .xor, .shl, .shr, .sra, .mul, .mulh, .mulhz, .div, .divz, .rem, .remz, .min, .max, .minz, .maxz].flatMap fun f => [f brS ⟨0, 0, 0, 0, 0, 0, 0, 0⟩] ++
  ([⟨0, 0, 0, 1, 0, 0, 0, 0⟩, ⟨0, 0, 0, 0, 1, 0, 0, 0⟩, ⟨0, 0, 0, 0, 0, 1, 0, 0⟩, ⟨0, 0, 0, 0, 0, 0, 1, 0⟩, ⟨0, 0, 0, 0, 0, 0, 0, 1⟩].map (f sc))) = true := by decide +kernel

/-- R87, R94: immediate forms stand in an SC slot; shifts take six bits; a field of `bfx` and `bfi` lies in the register. -/
theorem test_wf_imm : refused (([Instr.addi, .andi, .ori, .xori, .shli, .shri, .srai, .cmpi].map fun f => f brS ⟨0, 0, 0⟩) ++
  ([Instr.shli, .shri, .srai].map fun f => f sc ⟨0, 0, 64⟩) ++ [.movi brS ⟨0, 0⟩, .movs brS ⟨0, 0⟩,
  .bfx sc ⟨0, 0, 0⟩, .bfx sc ⟨0, 0, 0x1041⟩, .bfx sc ⟨0, 0, 0x4040⟩, .bfi sc ⟨0, 0, 0x2040⟩, .bfi sc ⟨0, 0, 0⟩,
  .bfx brS ⟨0, 0, 0x40⟩, .bfi brS ⟨0, 0, 0x40⟩]) = true := by decide +kernel

/-- R89 to R99: the other SC forms. -/
theorem test_wf_scalar : refused ([.cmp sc ⟨1, 0, 0, 0, 0, 0, 0, 0⟩, .cmp sc ⟨0, 0, 0, 1, 0, 0, 0, 0⟩, .cmp sc ⟨0, 0, 0, 0, 0, 0, 1, 0⟩, .cmp sc ⟨0, 0, 0, 0, 0, 0, 0, 1⟩, .cmp sc ⟨0, 0, 0, 0, 0, 12, 0, 0⟩, 
  .cmpi sc ⟨1, 0, 0⟩, .cmpi sc ⟨0, 0, 0xC00000⟩, .csel sc ⟨0, 0, 0, 1, 0, 0, 0, 0⟩, .csel sc ⟨0, 0, 0, 0, 0, 1, 0, 0⟩, .clz sc ⟨0, 0, 1, 0, 0, 0, 0, 0⟩, .popc sc ⟨0, 0, 1, 0, 0, 0, 0, 0⟩, 
  .fadd sc ⟨0, 0, 0, 0, 0, 0, 3, 0⟩, .fsub sc ⟨0, 0, 0, 0, 0, 0, 0, 3⟩, .fmul sc ⟨0, 0, 0, 1, 0, 0, 0, 0⟩, .fadd sc ⟨0, 0, 0, 0, 1, 0, 0, 0⟩, .fsub sc ⟨0, 0, 0, 0, 0, 1, 0, 0⟩, 
  .ffma sc ⟨0, 0, 0, 0, 1, 0, 0, 0⟩, .ffma sc ⟨0, 0, 0, 0, 0, 0, 0, 4⟩, .fmin sc ⟨0, 0, 0, 0, 0, 0, 1, 0⟩, .fmax sc ⟨0, 0, 0, 0, 0, 0, 0, 3⟩, 
  .fcmp sc ⟨1, 0, 0, 0, 0, 0, 0, 0⟩, .fcmp sc ⟨0, 0, 0, 0, 0, 8, 0, 0⟩, .fcmp sc ⟨0, 0, 0, 0, 0, 0, 0, 3⟩, .fcvt sc ⟨0, 0, 0, 0, 0, 3, 0, 4⟩, .fcvt sc ⟨0, 0, 0, 0, 0, 1, 0, 1⟩, 
  .fcvt sc ⟨0, 0, 0, 0, 0, 5, 0, 0⟩, .fcvt sc ⟨0, 0, 0, 0, 0, 0, 0, 15⟩, .fcvt sc ⟨0, 0, 0, 0, 0, 0, 3, 1⟩, .fsgn sc ⟨0, 0, 0, 0, 0, 3, 0, 0⟩, .fsgn sc ⟨0, 0, 0, 0, 0, 0, 0, 3⟩, 
  .pset sc ⟨1, 0, 0, 0, 0, 0, 0, 0⟩, .pclr sc ⟨0, 0, 0, 0, 0, 1, 0, 0⟩, .pand sc ⟨0, 1, 0, 0, 0, 0, 0, 0⟩, .por sc ⟨0, 0, 0, 0, 0, 0, 1, 0⟩, .pnot sc ⟨0, 0, 0, 0, 0, 0, 0, 1⟩]) = true := by decide +kernel

/-- R101 to R109: the BR forms. -/
theorem test_wf_branch : refused ([.bra sc ⟨0, 0, 0, 0⟩, .bra brS ⟨1, 0, 0, 0⟩, .bra brS ⟨0, 1, 0, 0⟩, .bra brS ⟨0, 0, 1, 0⟩, .brf brS ⟨1, 0, 0, 0⟩, .call brS ⟨0, 1, 0, 0⟩, .ret brS ⟨0, 0, 0, 1⟩, .jmp brS ⟨1, 0, 0, 0⟩, 
  .jmp brS ⟨0, 0, 1, 0⟩, .loop brS ⟨0, 1, 1⟩, .loop brS ⟨0, 0, 0⟩, .loopi brS ⟨0, 0, 0⟩, .lbrk brS ⟨0, 0, 0, 2⟩, .lbrk brS ⟨0, 1, 0, 0⟩, .done brS ⟨0, 0, 0, 1⟩, .trap brS ⟨1, 0, 0, 0⟩, 
  .eret brS ⟨0, 1, 0, 0⟩, .yield brS ⟨0, 0, 1, 0⟩]) = true := by decide +kernel

/-- R137 to R152: orders, scopes, arrival cycles and offsets of the SM accesses. -/
theorem test_wf_scalarMemory : refused ([.ld sc ⟨0, 0, 0, 0, 1, 0, 0⟩, .ld smS ⟨0, 0, 1, 0, 1, 0, 0⟩, .ld smS ⟨0, 0, 0, 0, 0, 0, 0⟩, .ld smS ⟨0, 0, 0, 0, 1, 0, 2⟩, .ld smS ⟨0, 0, 0, 0, 1, 1, 0⟩, .ld smS ⟨0, 0, 0, 0, 1, 10, 1⟩, 
  .st smS ⟨0, 0, 0, 0, 0, 0, 1⟩, .st smS ⟨1, 0, 0, 0, 0, 0, 0⟩, .st smS ⟨0, 0, 0, 0, 1, 0, 0⟩, .ldx smS ⟨0, 0, 0, 256, 0, 0, 0⟩, .ldx smS ⟨0, 1, 0, 0, 0, 0, 0⟩, .stx smS ⟨0, 0, 0, 256, 0, 0, 0⟩, 
  .stx smS ⟨1, 0, 0, 0, 0, 0, 0⟩, .stg smS ⟨0, 0, 0, 0x180, 0, 0, 0⟩, .stg smS ⟨0, 0, 0, 32, 0, 0, 0⟩, .ldg smS ⟨0, 0, 0, 0x90, 0, 0, 0⟩, .ldg smS ⟨0, 0, 0, 0x108, 0, 0, 0⟩, 
  .mjld smS ⟨0, 0, 0, 0, 0, 9, 0⟩, .mjst smS ⟨0, 0, 0, 1, 0, 10, 0⟩, .acas smS ⟨0, 0, 0, 0, 0, 0, 3⟩] ++
  ([Instr.aadd, .aand, .aor, .axor, .amin, .amax, .aminz, .amaxz, .axch, .afadd].flatMap fun f => [f smS ⟨1, 0, 0, 0, 0, 0, 0⟩, f smS ⟨0, 0, 0, 0, 0, 0, 3⟩, f smS ⟨0, 0, 0, 0, 0, 10, 1⟩])) = true := by decide +kernel

/-- R198 to R208: fences, barriers, events and system registers. -/
theorem test_wf_sync : refused ([.fenceAcquire smS ⟨0, 0, 0, 1, 0, 0, 0⟩, .fenceRelease smS ⟨0, 0, 0, 1, 0, 10, 0⟩, .fenceFull smS ⟨1, 0, 0, 2, 0, 0, 0⟩, .fenceEngineComplete smS ⟨0, 0, 0, 3, 0, 0, 0⟩, 
  .fencePublishVisible smS ⟨0, 0, 0, 4, 0, 0, 0⟩, .bar smS ⟨0, 0, 0, 16, 0, 2, 0⟩, .bar smS ⟨0, 0, 0, 0, 0, 4, 0⟩, .evpop smS ⟨3, 0, 3, 0, 0, 0, 0⟩, .evpop smS ⟨0, 0, 0, 2, 0, 0, 0⟩, 
  .evpost smS ⟨0, 0, 0, 0, 0, 0, 1⟩, .launch smS ⟨0, 0, 0, 1, 0, 0, 0⟩, .launch smS ⟨0, 0, 1, 0, 0, 0, 0⟩, .tq smS ⟨0, 0, 1, 0, 0, 0, 0⟩, .chsigReady smS ⟨0, 0, 0, 1, 0, 6, 0⟩, .chsigReturn smS ⟨0, 0, 0, 1, 0, 5, 0⟩, 
  .brel smS ⟨0, 0, 0, 1, 0, 0, 0⟩] ++
  ([0x12, 0x1F, 0x2D, 0x2F, 0x3B, 0x3F, 0x60, 0x1FF].flatMap fun n => [.sysr smS ⟨0, 0, 0, n, 0, 0, 0⟩, .sysw smS ⟨0, 0, 0, n, 0, 0, 0⟩])) = true := by decide +kernel

/-- R55, R70, R72: every VA form stands at a VA position, with bit 0 zero, and names no operand above 41 or type above 12. -/
theorem test_wf_vectorCommon : refused ([Instr.vadd, .vsub, .vmul, .vmulh, .vfma, .vfms, .vfnma, .vmin, .vmax, .vabs, .vneg, .vand, .vor, .vxor, .vshl, .vshr, .vsra, .vcmp, .vsel, .vclamp, .vmov, .vbcs, .vext, .vins, .vred, .vshuf, .vrmg, .vcvt, .vpack, .vunpk, .vqnt, .vdqnt, .vdot4, .vexp2, .vlog2, .vrcp, .vrsq, .vsqrt, .vtanh, .vmand, .vmor, .vmnot, .vmpop, .vrng].flatMap fun f =>
  [f sc ⟨0, 0, 0, 0, 0, 4, 0, 0, 0⟩, f (va 0) ⟨0, 0, 0, 0, 0, 4, 0, 0, 1⟩, f (va 0) ⟨0, 42, 0, 0, 0, 0, 0, 0, 0⟩, f (va 0) ⟨0, 0, 0, 0, 0, 13, 0, 0, 0⟩]) = true := by decide +kernel

/-- R111 to R131: types, roundings, saturation, masks and parts of the VA forms. -/
theorem test_wf_vector : refused ([.vadd (va 0) ⟨0, 0, 0, 0, 0, 0, 3, 0, 0⟩, .vadd (va 0) ⟨0, 0, 0, 0, 0, 3, 1, 0, 0⟩, .vadd (va 0) ⟨0, 0, 0, 0, 0, 0, 0, 1, 0⟩, .vmin (va 0) ⟨0, 0, 0, 0, 0, 3, 0, 1, 0⟩, .vmulh (va 0) ⟨0, 0, 0, 0, 0, 0, 0, 0, 0⟩, .vfma (va 0) ⟨0, 0, 0, 0, 0, 3, 0, 0, 0⟩, .vfms (va 0) ⟨0, 0, 0, 42, 0, 0, 0, 0, 0⟩, 
  .vfnma (va 0) ⟨0, 0, 0, 0, 0, 0, 0, 1, 0⟩, .vabs (va 0) ⟨0, 0, 0, 0, 0, 4, 0, 0, 0⟩, .vneg (va 0) ⟨0, 0, 1, 0, 0, 0, 0, 0, 0⟩, .vand (va 0) ⟨0, 0, 0, 0, 0, 0, 0, 0, 0⟩, .vcmp (va 0) ⟨8, 0, 0, 0, 0, 0, 0, 0, 0⟩, .vcmp (va 0) ⟨0, 0, 0, 8, 0, 0, 0, 0, 0⟩, .vcmp (va 0) ⟨0, 0, 0, 6, 0, 3, 0, 0, 0⟩, .vcmp (va 0) ⟨0, 0, 0, 12, 0, 3, 0, 0, 0⟩, 
  .vsel (va 0) ⟨0, 0, 0, 0, 0, 1, 0, 0, 0⟩, .vsel (va 0) ⟨0, 0, 0, 1, 0, 0, 0, 0, 0⟩, .vclamp (va 0) ⟨0, 0, 0, 42, 0, 0, 0, 0, 0⟩, .vmov (va 0) ⟨0, 0, 1, 0, 0, 0, 0, 0, 0⟩, .vbcs (va 0) ⟨0, 32, 0, 0, 0, 0, 0, 0, 0⟩, .vext (va 0) ⟨0, 0, 16, 0, 0, 0, 0, 0, 0⟩, .vext (va 0) ⟨0, 0, 0, 0, 0, 9, 0, 0, 0⟩, .vins (va 0) ⟨0, 0, 0, 0, 1, 0, 0, 0, 0⟩, .vins (va 0) ⟨0, 0, 16, 0, 0, 0, 0, 0, 0⟩, 
  .vred (va 0) ⟨0, 0, 0, 3, 0, 0, 0, 0, 0⟩, .vred (va 0) ⟨0, 0, 0, 0, 0, 1, 0, 0, 0⟩, .vshuf (va 0) ⟨0, 0, 0, 0, 0, 9, 0, 0, 0⟩, .vrmg (va 0) ⟨0, 0, 0, 0, 0, 1, 0, 0, 0⟩, .vcvt (va 0) ⟨0, 0, 0, 0, 0, 0, 0, 0, 0⟩, .vcvt (va 0) ⟨0, 0, 0, 4, 0, 3, 0, 0, 0⟩, .vcvt (va 0) ⟨0, 0, 2, 1, 0, 0, 0, 0, 0⟩, .vcvt (va 0) ⟨0, 0, 0, 1, 0, 0, 3, 0, 0⟩, 
  .vcvt (va 0) ⟨0, 0, 0, 11, 0, 0, 0, 0, 0⟩, .vpack (va 0) ⟨0, 0, 0, 0, 0, 4, 0, 0, 0⟩, .vunpk (va 0) ⟨0, 0, 2, 0, 0, 5, 0, 0, 0⟩, .vunpk (va 0) ⟨0, 0, 0, 0, 0, 5, 0, 1, 0⟩, .vqnt (va 0) ⟨0, 0, 4, 0, 0, 11, 0, 0, 0⟩, .vqnt (va 0) ⟨0, 0, 8, 0, 0, 12, 0, 0, 0⟩, .vdqnt (va 0) ⟨0, 0, 0, 0, 0, 10, 0, 0, 0⟩, .vdot4 (va 0) ⟨0, 0, 0, 0, 0, 9, 0, 0, 0⟩, 
  .vexp2 (va 0) ⟨0, 0, 0, 0, 0, 0, 2, 0, 0⟩, .vtanh (va 0) ⟨0, 0, 0, 0, 0, 0, 0, 1, 0⟩, .vmand (va 0) ⟨0, 8, 0, 0, 0, 0, 0, 0, 0⟩, .vmor (va 0) ⟨0, 0, 8, 0, 0, 0, 0, 0, 0⟩, .vmnot (va 0) ⟨8, 0, 0, 0, 0, 0, 0, 0, 0⟩, .vmpop (va 0) ⟨0, 8, 0, 0, 0, 0, 0, 0, 0⟩, .vmand (va 0) ⟨0, 0, 0, 0, 1, 0, 0, 0, 0⟩, .vrng (va 0) ⟨0, 0, 0, 0, 0, 3, 0, 0, 0⟩]) = true := by decide +kernel

/-- R137 to R142, R154, R160: the VL forms. -/
theorem test_wf_vectorMemory : refused ([.vld (va 0) ⟨0, 0, 0, 0, 0, 0, 0⟩, .vld (vl 0) ⟨0, 0, 0, 1, 0, 0, 0⟩, .vld (vl 0) ⟨0, 0, 0, 0, 0, 2, 0⟩, .vld (vl 0) ⟨0, 0, 0, 0, 0, 0, 1⟩, .vst (vl 0) ⟨0, 0, 0, 0, 1, 0, 0⟩, .vst (vl 0) ⟨0, 0, 0, 0, 0, 1, 0⟩, .vstm (vl 0) ⟨0, 0, 0, 0, 0, 3, 0⟩, 
  .vldt (vl 0) ⟨0, 0, 0, 0, 0, 0, 0⟩, .vldh (vl 0) ⟨0, 16, 0, 0, 0, 0, 0⟩, .vldh (vl 0) ⟨0, 0, 0, 0, 0, 1, 0⟩, .vsth (vl 0) ⟨0, 16, 0, 0, 0, 0, 0⟩, .vsth (vl 0) ⟨0, 0, 0, 0, 1, 0, 0⟩, .vldx (vl 0) ⟨0, 0, 32, 0, 0, 0, 0⟩, 
  .vldx (vl 0) ⟨0, 0, 0, 0, 1, 0, 0⟩, .vstx (vl 0) ⟨0, 1, 0, 0, 0, 0, 0⟩, .vxfer (vl 0) ⟨0, 0, 1, 0, 0, 0, 0⟩, .vqpush (vl 0) ⟨0, 1, 0, 0, 0, 0, 0⟩, .vqpush (vl 0) ⟨0, 0, 7, 0, 0, 0, 0⟩, .vqpush (vl 0) ⟨0, 0, 7, 0, 0, 0, 1⟩, 
  .vqpush (vl 0) ⟨0, 0, 4, 0, 0, 0, 2⟩, .vqpush (vl 0) ⟨0, 0, 0, 0, 0, 0, 3⟩, .vqpush (vl 0) ⟨0, 0, 0, 0, 1, 0, 0⟩, .vbld (vl 0) ⟨0, 0, 0, 0, 0, 0, 0⟩]) = true := by decide +kernel

/-- R172 to R196: the engine commands. -/
theorem test_wf_engines : refused ([.mlw cpS ⟨0, 0, 0, 0, 0, 0⟩, .mlw mxS ⟨0, 0, 0, 1, 0, 0⟩, .mlw mxS ⟨0, 0, 0, 0, 0, 0x4000 ||| 0x3F80⟩, .mma mxS ⟨0, 0, 0, 0, 0, 1⟩, .mmar mxS ⟨0, 0, 0, 0, 0, 64⟩, .mzr mxS ⟨0, 0, 1, 0, 0, 0⟩, .mzr mxS ⟨0, 0, 0, 0, 1, 0⟩, 
  .mst mxS ⟨0, 0, 1, 0, 0, 0⟩, .mst mxS ⟨0, 0, 0, 0, 0, 32⟩, .mscl mxS ⟨0, 0, 0, 1, 0, 0⟩, .mscl mxS ⟨0, 0, 0, 0, 0, 1⟩, .mnest mxS ⟨0, 0, 0, 0, 0, 0x3FC0⟩, .mcop mxS ⟨0, 0, 0, 0, 0, 16⟩, .smv mxS ⟨0, 0, 1, 0, 0, 0⟩, 
  .smv mxS ⟨0, 0, 0, 0, 0, 0x18000⟩, .smv mxS ⟨0, 0, 0, 0, 0, 0x6000⟩, .cpy mxS ⟨0, 0, 0, 0, 0, 0⟩, .cpy cpS ⟨0, 0, 1, 0, 0, 0⟩, .cpy cpS ⟨0, 0, 0, 1, 0, 0⟩, .cpy cpS ⟨0, 0, 0, 0, 0, 0x1B0000⟩, .cpy cpS ⟨0, 0, 0, 0, 0, 0x10000⟩, 
  .cpy cpS ⟨0, 0, 0, 0, 0, 0x800⟩, .cpg cpS ⟨0, 0, 0, 0, 0, 1⟩, .cps cpS ⟨0, 0, 0, 0, 0, 0x8000⟩, .cptOffload cpS ⟨0, 0, 0, 0, 0, 0x400⟩, .cptFetch cpS ⟨0, 0, 0, 0, 0, 0⟩, .cpz cpS ⟨0, 0, 0, 0, 0, 0x500⟩, .coll cpS ⟨0, 0, 0, 0, 0, 0x600⟩, 
  .pub cpS ⟨0, 0, 0, 0, 0, 1⟩, .cpf cpS ⟨0, 0, 0, 0, 0, 1⟩, .cpc cpS ⟨0, 0, 0, 0, 0, 0x600⟩, .txp txS ⟨0, 0, 1, 0, 0, 0⟩, .txp txS ⟨0, 0, 0, 0, 0, 96⟩, .txw txS ⟨0, 0, 0, 0, 0, 1⟩, .txw txS ⟨0, 0, 0, 1, 0, 0⟩]) = true := by decide +kernel

/-- R156 to R162: the HQ forms. -/
theorem test_wf_handles : refused ([.hdef cpS ⟨0, 0, 0, 0, 0, 0, 0⟩, .hdef hqS ⟨0, 0, 1, 0, 0, 0, 0⟩, .hdef hqS ⟨0, 0, 0, 1, 0, 0, 0⟩, .hadv hqS ⟨0, 0, 0, 4097, 0, 0, 0⟩, .hadv hqS ⟨0, 0, 0, 0, 0, 2, 0⟩, .hadv hqS ⟨0, 1, 0, 0, 0, 0, 0⟩, .hqry hqS ⟨0, 0, 0, 4, 0, 0, 0⟩, 
  .hqry hqS ⟨1, 0, 0, 2, 0, 0, 0⟩, .hqry hqS ⟨0, 0, 0, 1, 1, 0, 0⟩, .hqry hqS ⟨0, 0, 0, 3, 4, 0, 0⟩, .qcfg hqS ⟨1, 0, 0, 0, 0, 0, 0⟩, .qcfg hqS ⟨0, 0, 0, 0, 0, 0, 1⟩, .qspl hqS ⟨0, 0, 0, 8, 0, 0, 0⟩, .qspl hqS ⟨0, 0, 0, 16, 7, 0, 0⟩]) = true := by decide +kernel

/-- R160, R208: events name a core, a context, a set or a unit that exists. -/
theorem test_wf_events : refused ([.bundle ⟨⟨80, false⟩, []⟩, .bundle ⟨⟨1024, false⟩, []⟩, .emptyBundle ⟨127, true⟩, .blockEntry ⟨208, false⟩, .taskEntry 1104, .residencyChange 16 0 0, .clearingTokenGrant 72, .majorityRepair 32, .intakeWrite 0 16 0, .islandRailOff 64, .partWrite 8 0, 
  .tdecWrite 16 0 0, .portEnable 64, .routeInstall 256 0, .secondTierPortTrain 8 .supported, .chainGo 16, .migrationStart 4]) = true := by decide +kernel


/-! ### A small state -/

/-- What an event does to a state, as a test. -/
def after (i : Instr) (s : State) (g : State → Bool) : Bool := match exec i s with
  | .next t => g t
  | _ => false

/-- An event leaves exactly a given state. -/
def leaves (i : Instr) (s u : State) : Bool := after i s fun t => decide (t = u)

/-- A table entry of 64 KiB: valid, at a virtual and a physical address, with its third word and its region (R286). -/
def entry (va pa w3 reg : Nat) : TEntry :=
  { w0 := BitVec.ofNat 64 (2 ^ 63 + 16 * 2 ^ 48 + va), w1 := BitVec.ofNat 64 pa, w2 := 0, w3 := BitVec.ofNat 64 w3, reg := reg }

/-- Physical HBM address of this package. -/
def hbm (o : Nat) : Nat := 2 ^ 46 + o

/-- A handle word: valid, the number of rows, base row 0, a peer and a side (R153). -/
def handleW (rows prd cns base peer prod : Nat) : Word :=
  BitVec.ofNat 64 (base * 2 ^ 48 + rows * 2 ^ 44 + prd * 2 ^ 31 + cns * 2 ^ 18 + peer * 2 ^ 8 + 2 ^ 7 + prod * 2 ^ 6)

/-- A node of a task that runs on one core. -/
def node0 (core : Nat) : Node :=
  { record := 0, src := .host 0 0, st := .placed, stand := [core], draw := 0, gone := [], begun := [core], restart := true
    undo := [], pubs := [], sides := [], back := none, reruns := 0, log0 := 0, log1 := 0, since := 0, word := none
    kill := none, depth := 0, born := 0, late := [] }

/-- A core runs node 2 of context 1 with four regions in its table: its own slice, HBM, the slice of core 300 and a majority
region; its registers hold addresses in them, and numbers at the ends of their ranges. -/
def busy (core : Nat) (side : Bool) (pt : BitVec 3) : State :=
  let x := { Stream.idle with
    s := [(1, 0x10000), (2, 5), (3, 0x20000), (4, 0x30040), (5, 8), (6, 0x30000), (7, 300), (8, 0x7FFFFFFFFFFFFFFF), (9, 0x8000000000000000)
          , (10, 0xFFFFFFFFFFFFFFFF), (11, 64), (12, 0x40000)]
    f := 5, pc := 0x1000, blk := { hdr := 0x1000, ext := 0x9000, pt := pt, rrg := false }, due := .bundle }
  let cl : Cluster := { Cluster.idle with v := [(1, 0x1234567890ABCDEF112233445566778899AABBCCDDEEFF00), (2, 77)], m := [(1, 0xA5C3)]
                                          und := [(3, 5)] }
  let a := { Arch.idle with
    main := x, side := x, run := .running, cl := [(0, cl), (1, cl)], und := [(2, 9)], shd := [(1, [(3, 4)])]
    h := [(1, handleW 2 3 1 100 core 1), (2, handleW 2 3 1 100 9 0), (3, handleW 2 3 1 100 9 1)]
    tab := [(0, entry 0x10000 (core * 2 ^ 22) 0xE000 1), (1, entry 0x20000 (hbm 0x100000) 0xC000 2)
            , (2, entry 0x30000 (300 * 2 ^ 22) 0xC000 3), (3, entry 0x40000 (hbm 0x200000) 0xC020 4)]
    task := some { ctx := 1, node := 2, alb := 0, aln := 0, hnd := some 0x7000, ent := 0, k := 0, c := 1, next := 0, left := 0, live := true } }
  let s := putCore State.reset core { Core.idle with arch := a, split := true }
  let s := modCtx s 1 (fun c => { c with state := 1, nodes := [(2, node0 core)] })
  let m := (List.range 16).foldl (fun m i => cellPut m (core * 2 ^ 22 + i) (BitVec.ofNat 8 (i + 1))) []
  { s with iss := { s.iss with pc := 0x4100, len := 18 }, focus := ⟨core, side⟩, mem := m }

/-- The state in which most tests run: core 5, main stream, point P5. -/
def s5 : State := busy 5 false 5

/-- The operations an instruction adds in flight: the cycles its result is ahead (R57), value and flags. -/
def adds (i : Instr) (s : State) : List (Nat × Nat × Nat) := match exec i s with
  | .next t => ((strmOf t s.focus).pipe.ops.drop (strmOf s s.focus).pipe.ops.length).map (fun x => (x.rem, x.val.toNat, x.flags.toNat))
  | _ => []

/-- Each instruction adds one operation with the latency, the value and the flags beside it. -/
def results (s : State) (l : List (Instr × Nat × Nat × Nat)) : Bool :=
  l.all fun x => adds x.1 s == [(inFlight x.2.1, x.2.2.1, x.2.2.2)]

/-- A flag operation writes f[15]. -/
def flagsTo (s : State) (l : List (Instr × Bool)) : Bool := l.all fun x => after x.1 s fun t =>
  match (strmOf t s.focus).pipe.ops with
  | [y] => decide (y.dst = .f 15 ∧ y.val = BitVec.ofNat 512 x.2.toNat)
  | _ => false


/-! ### One step of the scalar instructions, at the ends of their ranges -/

/-- s[31] from s[a] and s[b]. -/
def rr (a b : BitVec 5) : ScR := ⟨31, a, b, 0, 0, 0, 0, 0⟩

/-- R86, R87: wraps, sign extension and shift counts by hand. Registers: s2 = 5, s5 = 8, s8 = 2^63 - 1, s9 = -2^63, s10 = -1, s11 = 64. -/
theorem test_integer : results s5 [
  (.add sc (rr 8 2), 1, 0x8000000000000004, 32), (.sub sc (rr 9 2), 1, 0x7FFFFFFFFFFFFFFB, 32), (.add sc (rr 10 5), 1, 7, 0),
  (.addi sc ⟨31, 9, 0xFFFFFF⟩, 1, 0x7FFFFFFFFFFFFFFF, 32), (.and sc (rr 8 10), 1, 0x7FFFFFFFFFFFFFFF, 0), (.or sc (rr 9 2), 1, 0x8000000000000005, 0),
  (.xor sc (rr 10 2), 1, 0xFFFFFFFFFFFFFFFA, 0), (.andi sc ⟨31, 10, 0x800000⟩, 1, 0xFFFFFFFFFF800000, 0), (.ori sc ⟨31, 2, 0x7FFFF0⟩, 1, 0x7FFFF5, 0),
  (.xori sc ⟨31, 10, 0xFFFFFF⟩, 1, 0, 0), (.shl sc (rr 2 11), 1, 5, 0), (.shl sc (rr 2 10), 1, 0x8000000000000000, 0), (.shr sc (rr 9 2), 1, 0x400000000000000, 0),
  (.sra sc (rr 9 2), 1, 0xFC00000000000000, 0), (.shli sc ⟨31, 2, 63⟩, 1, 0x8000000000000000, 0), (.shri sc ⟨31, 10, 63⟩, 1, 1, 0),
  (.srai sc ⟨31, 9, 63⟩, 1, 0xFFFFFFFFFFFFFFFF, 0), (.mul sc (rr 8 2), 3, 0x7FFFFFFFFFFFFFFB, 32), (.mulh sc (rr 9 9), 3, 0x4000000000000000, 0),
  (.mulhz sc (rr 10 10), 3, 0xFFFFFFFFFFFFFFFE, 0), (.min sc (rr 9 2), 1, 0x8000000000000000, 0), (.max sc (rr 9 2), 1, 5, 0),
  (.minz sc (rr 9 2), 1, 5, 0), (.maxz sc (rr 9 2), 1, 0x8000000000000000, 0)] = true := by decide +kernel

/-- R88: the corners of division, and truncation toward zero; the merged latency in a block at P3. -/
theorem test_division : (results s5 [
  (.div sc (rr 9 10), 18, 0x8000000000000000, 32), (.div sc (rr 2 0), 18, 0xFFFFFFFFFFFFFFFF, 32), (.divz sc (rr 10 2), 18, 0x3333333333333333, 0),
  (.rem sc (rr 9 2), 18, 0xFFFFFFFFFFFFFFFD, 0), (.rem sc (rr 2 0), 18, 5, 32), (.remz sc (rr 9 2), 18, 3, 0), (.remz sc (rr 9 0), 18, 0x8000000000000000, 32),
  (.divz sc (rr 2 0), 18, 0xFFFFFFFFFFFFFFFF, 32)] &&
  results (busy 5 false 3) [(.div sc (rr 10 2), 9, 0, 0), (.rem sc (rr 9 10), 9, 0, 0), (.mul sc (rr 2 5), 2, 40, 0)]) = true := by decide +kernel

/-- R89 to R94: selection, constants, counts and bit fields. `s5` has f2 set and f3 clear. -/
theorem test_bits : results s5 [
  (.csel sc ⟨31, 2, 5, 0, 2, 0, 0, 0⟩, 1, 5, 0), (.csel sc ⟨31, 2, 5, 0, 3, 0, 0, 0⟩, 1, 8, 0), (.movi sc ⟨31, 0x10000000⟩, 1, 0xFFFFFFFFF0000000, 0),
  (.movs sc ⟨2, 3⟩, 1, 0xA0000003, 0), (.clz sc (rr 0 0), 1, 64, 0), (.clz sc (rr 2 0), 1, 61, 0), (.popc sc (rr 8 0), 1, 63, 0),
  (.bfx sc ⟨31, 9, (1 <<< 13) ||| (4 <<< 6) ||| 60⟩, 1, 0xFFFFFFFFFFFFFFF8, 0), (.bfx sc ⟨31, 9, (4 <<< 6) ||| 60⟩, 1, 8, 0),
  (.bfi sc ⟨2, 10, (2 <<< 6) ||| 62⟩, 1, 0xC000000000000005, 0), (.bfi sc ⟨2, 10, 64 <<< 6⟩, 1, 0xFFFFFFFFFFFFFFFF, 0)] = true := by decide +kernel

/-- R89, R92: compares, signed and unsigned, and the flag operations write f[15]. -/
theorem test_flags : flagsTo s5 [
  (.cmp sc ⟨0, 9, 2, 0, 15, 2, 0, 0⟩, true), (.cmp sc ⟨0, 9, 2, 0, 15, 6, 0, 0⟩, false), (.cmp sc ⟨0, 2, 5, 0, 15, 11, 0, 0⟩, true),
  (.cmpi sc ⟨0, 10, (15 <<< 16) ||| 0xFFFF⟩, true), (.cmpi sc ⟨0, 2, (5 <<< 20) ||| (15 <<< 16) ||| 0x8000⟩, true), (.pset sc ⟨0, 0, 0, 0, 15, 0, 0, 0⟩, true),
  (.pclr sc ⟨0, 0, 0, 0, 15, 0, 0, 0⟩, false), (.pand sc ⟨0, 0, 0, 0, 15, 2, 0, 3⟩, false), (.por sc ⟨0, 0, 0, 0, 15, 2, 0, 3⟩, true),
  (.pnot sc ⟨0, 0, 0, 0, 15, 3, 0, 0⟩, true)] = true := by decide +kernel

/-- The same state with float words: s20 = 1.0, s21 = 3.0, s22 = -0.0, s23 = infinity, s24 = 2.0 in FP32. -/
def sf : State := modStrm s5 s5.focus fun x => { x with
  s := x.s ++ [(20, 0x3F800000), (21, 0x40400000), (22, 0x80000000), (23, 0x7F800000), (24, 0x40000000)] }

/-- R95 to R99: float arithmetic on values whose result is plain, the invalid difference of infinities (flag `INV`, R38), a
conversion to S32 and one to BF16, and sign operations. -/
theorem test_float : (results sf [
  (.fadd sc ⟨31, 20, 24, 0, 0, 0, 0, 0⟩, 4, 0x40400000, 0), (.fsub sc ⟨31, 20, 24, 0, 0, 0, 0, 0⟩, 4, 0xBF800000, 0), (.fmul sc ⟨31, 21, 24, 0, 0, 0, 0, 0⟩, 4, 0x40C00000, 0),
  (.ffma sc ⟨31, 21, 24, 20, 0, 0, 0, 0⟩, 4, 0x40E00000, 0), (.fmin sc ⟨31, 21, 22, 0, 0, 0, 0, 0⟩, 4, 0x80000000, 0), (.fmax sc ⟨31, 21, 23, 0, 0, 0, 0, 0⟩, 4, 0x7F800000, 0),
  (.fcvt sc ⟨31, 21, 0, 0, 0, 0, 0, 3⟩, 4, 3, 0), (.fcvt sc ⟨31, 21, 0, 0, 0, 0, 0, 1⟩, 4, 0x4040, 0), (.fsgn sc ⟨31, 21, 22, 0, 0, 0, 0, 0⟩, 1, 0xC0400000, 0),
  (.fsgn sc ⟨31, 22, 22, 0, 0, 2, 0, 0⟩, 1, 0, 0)] &&
  (adds (.fsub sc ⟨31, 23, 23, 0, 0, 0, 0, 0⟩) sf).map (·.2.2) == [1] && flagsTo sf [(.fcmp sc ⟨0, 20, 21, 0, 15, 2, 0, 0⟩, true)]) = true := by decide +kernel


/-! ### Witnesses: the scalar, control and trap statements -/

theorem witness_ScalarIntegerResults : slotOn s5 sc = true ∧ slotOn s5 { sc with pf := 3, pn := true } = true := by decide +kernel

theorem witness_ScalarDivideResults : slotOn s5 sc = true ∧ rs s5 0 = 0 ∧ rs s5 2 ≠ 0 ∧ (rs s5 9).toInt = -2 ^ 63 ∧ (rs s5 10).toInt = -1 := by
  decide +kernel

theorem witness_CompareSelectBits : slotOn s5 sc = true ∧ rs s5 0 = 0 ∧ rs s5 10 ≠ 0 ∧ 62 + 2 ≤ 64 := by decide +kernel

theorem witness_ScalarFloatResults : slotOn sf sc = true ∧ (2 : BitVec 4).toNat ≤ 2 := by decide +kernel

theorem witness_FlagOperations : slotOn s5 sc = true ∧ leaves (.nop sc) s5 s5 = true := by decide +kernel

theorem witness_PredicatedOffDoesNothing :
    (Instr.add ⟨0, false, 3, false⟩ (rr 1 2)).slot? = some ⟨0, false, 3, false⟩ ∧ slotOn s5 ⟨0, false, 3, false⟩ = false ∧
    slotOn s5 ⟨23, false, 2, true⟩ = false ∧ leaves (.add ⟨0, false, 3, false⟩ (rr 1 2)) s5 s5 = true ∧
    leaves (.hdef ⟨23, false, 2, true⟩ ⟨1, 1, 0, 0, 0, 0, 0⟩) s5 s5 = true := by decide +kernel

/-- s[31] reads s8 + s2 in the bundle after, as R57 says. -/
theorem witness_AddIsReadByTheNextBundle :
    slotOn s5 sc = true ∧ s5.focus.side = false ∧ (strmOf s5 s5.focus).pipe = Pipe.empty ∧ (strmOf s5 s5.focus).cyc = [] ∧
    (coreOf s5 5).roll = [] ∧
    (after (.add sc (rr 8 2)) s5 fun t => after (.writeBack 5) (openCycle t s5.focus 0 false) fun u =>
      decide ((strmOf u s5.focus).reg 31 = 0x8000000000000004 ∧ (strmOf u s5.focus).reg 2 = 5)) = true := by decide +kernel

/-- The bundle's target, if it has one. -/
def target (i : Instr) (s : State) : Option (BitVec 48 × Bool) := match exec i s with
  | .next t => t.iss.jump
  | _ => none

/-- R101, R102: displacements are signed; `ret` asks for a header; f2 is set in `s5` and f3 clear. -/
theorem witness_ControlTransfers : slotOn s5 brS = true ∧ target (.bra brS ⟨0, 0, 0, 0xFFFFFA⟩) s5 = some (0x40FA, false) ∧
    target (.brf brS ⟨0, 2, 0, 6⟩) s5 = some (0x4106, false) ∧ target (.brf brS ⟨0, 2, 1, 6⟩) s5 = none ∧
    target (.brf brS ⟨0, 3, 1, 6⟩) s5 = some (0x4106, false) ∧ target (.call brS ⟨4, 0, 0, 6⟩) s5 = some (0x4106, true) ∧
    adds (.call brS ⟨4, 0, 0, 6⟩) s5 = [(1, 0x9000, 0)] ∧ target (.ret brS ⟨0, 1, 0, 0⟩) s5 = some (0x10000, true) ∧
    target (.jmp brS ⟨0, 1, 0, 0xFFFA⟩) s5 = some (0xFFFA, false) := by decide +kernel

/-- The loop registers of level 1 after an instruction, with the bundle's target. -/
def loop1 (i : Instr) (s : State) : Option (Nat × Nat × Nat × Option Nat) := match exec i s with
  | .next t => let x := strmOf t s.focus; some (x.lc1.toNat, x.lb1.toNat, x.le1.toNat, t.iss.jump.map (·.1.toNat))
  | _ => none

/-- R103: the counts 0, 5 and 2^63 - 1; the end bundle, the next one, cannot be read and counts as one parcel. -/
theorem witness_LoopSetup : slotOn s5 brS = true ∧ loopIllegal s5 3 = false ∧ loopIllegal s5 2 = true ∧ rs s5 0 = 0 ∧ rs s5 2 = 5 ∧ 2 ^ 32 ≤ (rs s5 8).toNat ∧
    loop1 (.loopi brS ⟨1, 8191, 3⟩) s5 = some (8191, 0x4112, 0x4112, none) ∧
    loop1 (.loop brS ⟨1, 2 <<< 8, 3⟩) s5 = some (5, 0x4112, 0x4112, none) ∧
    loop1 (.loopi brS ⟨1, 0, 3⟩) s5 = some (0, 0x4112, 0x4112, some 0x4118) ∧
    (after (.loop brS ⟨1, 8 <<< 8, 3⟩) s5 fun t => decide ((strmOf t s5.focus).frame.tcause.toNat % 256 = 8)) = true := by decide +kernel

/-- Loop 0 runs inside loop 1. -/
def sLoop : State := modStrm s5 s5.focus fun x => { x with lc0 := 3, lb0 := 0x4100, le0 := 0x4106, lc1 := 2, lb1 := 0x4000, le1 := 0x4200 }
/-- An active trap frame. -/
def sFrame : State := modStrm s5 s5.focus fun x => { x with
  lc0 := 3, lc1 := 2, frame := { x.frame with
    tcause := 0x80000003, tpc := 0x2000, tflg := 0xF1, tfpc := 0x3F05, tblk := 0x1000, tlc0 := 7, tlb0 := 0x100, tle0 := 0x200
    held := { Pipe.empty with ops := [mkFlight s5 sc 1 (.s 4) 9 mask64 1 0 .none, { mkFlight s5 sc 1 (.s 6) 9 mask64 1 0 .none with fpx := true }] } } }

theorem witness_LoopBreakAndEnds : slotOn sLoop brS = true ∧ (strmOf sLoop sLoop.focus).lc1 ≠ 0 ∧ (strmOf sLoop sLoop.focus).lc0 ≠ 0 ∧
    (strmOf s5 s5.focus).lc0 = 0 ∧ (strmOf s5 s5.focus).lc1 = 0 ∧ (strmOf sFrame sFrame.focus).frame.act = true ∧
    (strmOf s5 s5.focus).frame.act = false ∧
    target (.lbrk brS ⟨0, 0, 0, 1⟩) sLoop = some (0x4206, false) ∧ target (.lbrk brS ⟨0, 0, 0, 0⟩) sLoop = some (0x410C, false) ∧
    leaves (.lbrk brS ⟨0, 0, 0, 1⟩) s5 s5 = true ∧
    (after (.lbrk brS ⟨0, 0, 0, 0⟩) sLoop fun t => decide ((strmOf t s5.focus).lc0 = 0 ∧ (strmOf t s5.focus).lc1 = 2)) = true ∧
    (after (.done brS ⟨0, 0, 0, 0⟩) s5 fun t => t.iss.ends == 1) = true ∧ (after (.yield brS ⟨0, 0, 0, 0⟩) s5 fun t => t.iss.ends == 2) = true ∧
    leaves (.yield brS ⟨0, 0, 0, 0⟩) (busy 5 true 5) (busy 5 true 5) = true ∧ (after (.eret brS ⟨0, 0, 0, 0⟩) sFrame fun t => t.iss.ends == 3) = true ∧
    (after (.trap brS ⟨0, 2, 0, 77⟩) s5 fun t => decide (t.iss.soft = some (77, 5))) = true ∧
    (after (.eret brS ⟨0, 0, 0, 0⟩) s5 fun t => decide ((strmOf t s5.focus).frame.tcause.toNat % 256 = 1)) = true := by decide +kernel

/-- One witness for each clause, at the end bundle of one level and of both. -/
theorem witness_SequencingAfterCommit :
    let x := strmOf sLoop sLoop.focus
    let i := { s5.iss with pc := 0x4106, len := 6 }
    i.ends = 0 ∧ (flow x { i with jump := some (0x5000, false) }).pc = 0x5000 ∧ (flow x { i with pc := 0x4000 }).pc = 0x4006 ∧
    (flow x i).pc = 0x4100 ∧ (flow x i).lc0 = 2 ∧ (flow { x with lc0 := 1 } i).pc = 0x410C ∧ (flow { x with lc0 := 1 } i).lc0 = 0 ∧
    (flow { x with lc0 := 1, le1 := 0x4106 } i).pc = 0x4000 ∧ (flow { x with lc0 := 1, le1 := 0x4106 } i).lc1 = 1 := by decide +kernel

/-- A handler trap is taken in `s5`; one under an active frame stops the core. -/
theorem witness_TrapEntry : takerOf 7 = .handler ∧ (strmOf s5 s5.focus).frame.act = false ∧ handlerOf s5 s5.focus = some 0x7000 ∧
    (strmOf (takeTrap sLoop s5.focus (mkTrap sLoop sc 7 4 99 0)) s5.focus).frame.tlc0 = 3 ∧
    (strmOf (takeTrap sLoop s5.focus (mkTrap sLoop sc 7 4 99 0)) s5.focus).pc = 0x7000 ∧
    (strmOf (takeTrap sLoop s5.focus (mkTrap sLoop sc 7 4 99 0)) s5.focus).lc0 = 0 ∧
    (strmOf sFrame s5.focus).frame.act = true ∧ (archOf sFrame 5).run = .running ∧
    (archOf (takeTrap sFrame s5.focus (mkTrap sFrame sc 7 4 0 0)) 5).run = .stopped := by decide +kernel

theorem test_eret : (let u := returnFrame sFrame s5.focus Block.none false
    let y := strmOf u s5.focus
    decide (y.pc = 0x2000 ∧ y.f = 0xF1 ∧ y.lc0 = 7 ∧ y.frame.act = false ∧ y.pipe.ops.map (·.dst) = [.s 4] ∧ (archOf u 5).fpc = 0x3F05)) = true := by
  decide +kernel

/-- R42, R98: 3.0 to S32, Z32, S64, Z64 and BF16; 5 as S32, Z32, S64 and Z64 to FP32. -/
theorem witness_ScalarFloatResults_conversions : (results sf [
    (.fcvt sc ⟨31, 21, 0, 0, 0, 0, 0, 3⟩, 4, 3, 0), (.fcvt sc ⟨31, 21, 0, 0, 0, 0, 0, 4⟩, 4, 3, 0),
    (.fcvt sc ⟨31, 21, 0, 0, 0, 0, 0, 13⟩, 4, 3, 0), (.fcvt sc ⟨31, 21, 0, 0, 0, 0, 0, 14⟩, 4, 3, 0),
    (.fcvt sc ⟨31, 2, 0, 0, 0, 3, 0, 0⟩, 4, 0x40A00000, 0), (.fcvt sc ⟨31, 2, 0, 0, 0, 4, 0, 0⟩, 4, 0x40A00000, 0),
    (.fcvt sc ⟨31, 2, 0, 0, 0, 13, 0, 0⟩, 4, 0x40A00000, 0), (.fcvt sc ⟨31, 2, 0, 0, 0, 14, 0, 0⟩, 4, 0x40A00000, 0)]) = true := by
  decide +kernel

/-- A drained stream at the end of its last bundle. -/
def ending (d : Due) (s : State) (k : Sid) : State := { modStrm s k (fun x => { x with due := d, cyc := [], resto := false, pipe := Pipe.empty, pend := [] }) with focus := k }

/-- R106 to R109: `done` retires the main stream's task and stops the side stream, `yield` goes on at the header that the program counter stands at, and a software
trap is taken at the boundary with its code and argument. -/
theorem witness_LoopBreakAndEnds_ends :
    let k : Sid := ⟨5, false⟩
    let d := ending .done s5 k
    let y := ending .yield s5 k
    let c := modStrm s5 k (fun x => { x with pend := [(BitVec.ofNat 64 (12 + 3 * 2 ^ 8 + 77 * 2 ^ 32), 0x4100, 9)] })
    mayAct d k = true ∧ doneFree d k = true ∧ ((archOf d 5).task.map (·.live)) = some true ∧ (archOf (streamAct d k) 5).task = none ∧
    (strmOf (streamAct d k) k).due = .nothing ∧ mayAct y k = true ∧ (strmOf (streamAct y k) k).due = .header ∧
    (strmOf c k).landsBad = false ∧
    ((boundary c k).map fun t => ((strmOf t k).frame.tcause.toNat % 256, (strmOf t k).frame.targ.toNat, (strmOf t k).pc.toNat)) =
      some (12, 9, 0x7000) := by decide +kernel


/-! ### Vector instructions -/

/-- Elements of a list, the rest zero. -/
def vec (w : Nat) (l : List Nat) : Row := ofElems w l

/-- Cluster 1 holds: v1, v2 the S8 elements of the example of R128; v3 the FP32 lanes of the example of R122; v4 FP32 1.0, 3.0, -2.0,
infinity, 4.0; v5 zero; v6 indices 3, 2, 1, 0; v7 S32 elements -2^31, 7, -1, 2; v8 GQ header 1.0, zero point 0; q7 one entry of twos. -/
def sv : State := modArch s5 5 fun a => { a with
  cl := tput a.cl 1 { Cluster.idle with
    v := [(1, vec 8 [3, 0xFE, 7, 1, 0, 0xFB, 4, 6]), (2, vec 8 [2, 2, 0xFF, 5, 9, 3, 0xFD, 1]),
          (3, vec 32 (0x4B800000 :: List.replicate 15 0x3F800000)), (4, vec 32 [0x3F800000, 0x40400000, 0xC0000000, 0x7F800000, 0x40800000]),
          (6, vec 32 [3, 2, 1, 0]), (7, vec 32 [0x80000000, 7, 0xFFFFFFFF, 2]), (8, vec 32 [0x3C00])]
    m := [(1, 0xA5C3), (2, 0x00FF), (3, 1)], la := vec 32 [11], lm := vec 32 [22] }
  q := tput a.q 7 { Queue.idle with ents := [{ id := 0, data := vec 32 [2, 2], src := 64, ctx := 1, node := 2, rel := false }] } }

/-- A position of cluster 1. -/
def v1 : Slot := ⟨5, false, 0, false⟩

/-- The first elements of the one operation an instruction adds, with the cycles its result is ahead and its flags; none where the
element is not written. -/
def elems (i : Instr) (w n : Nat) : Nat × Nat × List (Option Nat) := match exec i sv with
  | .next t => match (strmOf t sv.focus).pipe.ops with
    | [x] => (x.rem, x.flags.toNat, (List.range n).map fun e => if elem w x.mask e = 0 then none else some (elem w x.val e))
    | _ => (99, 0, [])
  | _ => (99, 0, [])

/-- An instruction's latency, flags and first elements. -/
def vgives (w : Nat) (l : List (Instr × Nat × Nat × List (Option Nat))) : Bool :=
  l.all fun x => elems x.1 w x.2.2.2.length == (inFlight x.2.1, x.2.2.1, x.2.2.2)

/-- R111 to R118: integer forms, a wrap and a saturation (`IOV` is bit 5), a mask, a queue head; FP32 sums, products and fused
forms by hand. -/
theorem test_vector_arith : vgives 32 [
  (.vadd v1 ⟨9, 7, 7, 0, 0, 3, 0, 0, 0⟩, 1, 32, [some 0, some 14, some 0xFFFFFFFE, some 4]), (.vadd v1 ⟨9, 7, 7, 0, 0, 3, 0, 1, 0⟩, 1, 32, [some 0x80000000, some 14]),
  (.vsub v1 ⟨9, 6, 7, 0, 3, 4, 0, 1, 0⟩, 1, 32, [some 0, none]), (.vadd v1 ⟨9, 6, 39, 0, 0, 4, 0, 0, 0⟩, 1, 0, [some 5, some 4, some 1, some 0]),
  (.vadd v1 ⟨9, 4, 4, 0, 1, 0, 0, 0, 0⟩, 4, 0, [some 0x40000000, some 0x40C00000, none, none, none]),
  (.vsub v1 ⟨9, 4, 4, 0, 3, 0, 0, 0, 0⟩, 4, 0, [some 0]), (.vmul v1 ⟨9, 4, 4, 0, 1, 0, 0, 0, 0⟩, 4, 0, [some 0x3F800000, some 0x41100000]),
  (.vmul v1 ⟨9, 7, 6, 0, 3, 3, 0, 0, 0⟩, 3, 32, [some 0x80000000]), (.vmulh v1 ⟨9, 7, 7, 0, 0, 3, 0, 0, 0⟩, 3, 0, [some 0x40000000, some 0, some 0, some 0]),
  (.vmulh v1 ⟨9, 7, 7, 0, 0, 4, 0, 0, 0⟩, 3, 0, [some 0x40000000, some 0, some 0xFFFFFFFE, some 0]),
  (.vfma v1 ⟨9, 4, 4, 4, 2, 0, 0, 0, 0⟩, 5, 0, [some 0x40000000, some 0x41400000, some 0x40000000, some 0x7F800000]),
  (.vfms v1 ⟨9, 4, 4, 4, 3, 0, 0, 0, 0⟩, 5, 0, [some 0, none]), (.vfnma v1 ⟨9, 4, 4, 4, 3, 0, 0, 0, 0⟩, 5, 0, [some 0]),
  (.vmin v1 ⟨9, 7, 6, 0, 0, 3, 0, 0, 0⟩, 1, 0, [some 0x80000000, some 2, some 0xFFFFFFFF, some 0]), (.vmax v1 ⟨9, 7, 6, 0, 0, 4, 0, 0, 0⟩, 1, 0, [some 0x80000000, some 7, some 0xFFFFFFFF, some 2]),
  (.vabs v1 ⟨9, 7, 0, 0, 0, 3, 0, 1, 0⟩, 1, 32, [some 0x7FFFFFFF, some 7, some 1]), (.vneg v1 ⟨9, 7, 0, 0, 0, 3, 0, 0, 0⟩, 1, 32, [some 0x80000000, some 0xFFFFFFF9, some 1]),
  (.vand v1 ⟨9, 7, 6, 0, 0, 4, 0, 0, 0⟩, 1, 0, [some 0, some 2, some 1, some 0]), (.vor v1 ⟨9, 7, 6, 0, 0, 4, 0, 0, 0⟩, 1, 0, [some 0x80000003, some 7]),
  (.vxor v1 ⟨9, 7, 6, 0, 0, 4, 0, 0, 0⟩, 1, 0, [some 0x80000003, some 5]), (.vshl v1 ⟨9, 7, 6, 0, 0, 4, 0, 0, 0⟩, 1, 0, [some 0, some 28]),
  (.vshr v1 ⟨9, 7, 6, 0, 0, 4, 0, 0, 0⟩, 1, 0, [some 0x10000000, some 1]), (.vsra v1 ⟨9, 7, 6, 0, 0, 3, 0, 0, 0⟩, 1, 0, [some 0xF0000000, some 1]),
  (.vclamp v1 ⟨9, 7, 5, 6, 0, 3, 0, 0, 0⟩, 1, 0, [some 0, some 2, some 0, some 0])] = true := by decide +kernel

/-- R119 to R130: selection and moves, the reduction of the example of R122, byte rotation, packing, the example of R128, a
conversion of 3.0, quantizing by a header of scale one (an infinity saturates and is inexact, R47), masks. -/
theorem test_vector_moves : (vgives 32 [
  (.vsel v1 ⟨9, 6, 7, 0, 1, 0, 0, 0, 0⟩, 1, 0, [some 3, some 2, some 0xFFFFFFFF, some 2]), (.vmov v1 ⟨9, 40, 0, 0, 1, 0, 0, 0, 0⟩, 1, 0, [some 11, some 0, none]),
  (.vmov v1 ⟨9, 41, 0, 0, 0, 0, 0, 0, 0⟩, 1, 0, [some 22]), (.vbcs v1 ⟨9, 2, 0, 0, 1, 0, 0, 0, 0⟩, 1, 0, [some 5, some 5, none]),
  (.vext v1 ⟨9, 6, 1, 0, 2, 4, 0, 0, 0⟩, 1, 0, [some 2, some 2]), (.vins v1 ⟨9, 5, 2, 0, 0, 4, 0, 0, 0⟩, 1, 0, [none, none, some 8, none]),
  (.vred v1 ⟨9, 3, 0, 0, 0, 0, 0, 0, 0⟩, 6, 16, [some 0x4B800007, some 0x4B800007]), (.vred v1 ⟨9, 7, 0, 1, 3, 3, 0, 0, 0⟩, 6, 0, [some 0x80000000, none]),
  (.vshuf v1 ⟨9, 7, 6, 0, 0, 4, 0, 0, 0⟩, 1, 0, [some 2, some 0xFFFFFFFF, some 7, some 0x80000000]), (.vrmg v1 ⟨9, 7, 6, 60, 0, 0, 0, 0, 0⟩, 1, 0, [some 0, some 3, some 2]),
  (.vcvt v1 ⟨9, 4, 0, 3, 0, 0, 0, 0, 0⟩, 3, 1, [some 1, some 3, some 0xFFFFFFFE, some 0x7FFFFFFF]), (.vdqnt v1 ⟨9, 1, 0, 8, 2, 11, 0, 0, 0⟩, 3, 0, [some 0x40400000, some 0xC0000000]),
  (.vdot4 v1 ⟨9, 1, 2, 5, 0, 7, 0, 1, 0⟩, 3, 0, [some 0, some 0xFFFFFFEB]), (.vmpop v1 ⟨9, 1, 0, 0, 3, 0, 0, 0, 0⟩, 1, 0, [some 8, none])] &&
  vgives 8 [(.vpack v1 ⟨9, 7, 6, 0, 0, 7, 0, 1, 0⟩, 1, 32, [some 0, some 0x80, some 7, some 0]), (.vqnt v1 ⟨9, 4, 1, 8, 0, 11, 0, 0, 0⟩, 3, 16, [none]), (.vqnt v1 ⟨9, 4, 0, 8, 0, 11, 0, 0, 0⟩, 3, 16, [some 1, some 3, some 0xFE, some 0x7F, some 4])] &&
  vgives 16 [(.vunpk v1 ⟨9, 1, 0, 0, 0, 7, 0, 0, 0⟩, 1, 0, [some 3, some 0xFFFE, some 7, some 1]), (.vcvt v1 ⟨9, 4, 1, 1, 2, 0, 0, 0, 0⟩, 3, 0, [none])] &&
  vgives 1 [(.vcmp v1 ⟨2, 7, 6, 2, 0, 3, 0, 0, 0⟩, 1, 0, [some 1, some 0, some 1, some 0]), (.vmand v1 ⟨4, 1, 2, 0, 0, 0, 0, 0, 0⟩, 1, 0, [some 1, some 1, some 0]),
    (.vmor v1 ⟨4, 1, 2, 0, 0, 0, 0, 0, 0⟩, 1, 0, [some 1, some 1, some 1]), (.vmnot v1 ⟨4, 1, 0, 0, 0, 0, 0, 0, 0⟩, 1, 0, [some 0, some 0, some 1])]) = true := by
  decide +kernel

/-- R129: values that are exact: 2^3, log2(4), 1/4, 1/sqrt(4), sqrt(4), tanh of infinity. -/
theorem test_vector_special : vgives 32 [
  (.vexp2 v1 ⟨9, 4, 0, 0, 2, 0, 0, 0, 0⟩, 12, 0, [some 0x40000000, some 0x41000000, some 0x3E800000, some 0x7F800000]),
  (.vlog2 v1 ⟨9, 4, 0, 0, 3, 0, 0, 0, 0⟩, 12, 0, [some 0]), (.vrcp v1 ⟨9, 4, 0, 0, 3, 0, 0, 0, 0⟩, 12, 0, [some 0x3F800000]),
  (.vrsq v1 ⟨9, 4, 0, 0, 3, 0, 0, 0, 0⟩, 12, 0, [some 0x3F800000]), (.vsqrt v1 ⟨9, 4, 0, 0, 3, 0, 0, 0, 0⟩, 12, 0, [some 0x3F800000]),
  (.vtanh v1 ⟨9, 5, 0, 0, 3, 0, 0, 0, 0⟩, 12, 0, [some 0])] = true := by decide +kernel

/-- R131: the mixer of the spec on zero key and counter writes every lane, after latency 3. -/
theorem test_vrng : ((elems (.vrng v1 ⟨9, 5, 5, 0, 0, 4, 0, 0, 0⟩) 32 16).1 == inFlight 3 && !(elems (.vrng v1 ⟨9, 5, 5, 0, 0, 4, 0, 0, 0⟩) 32 16).2.2.contains none) = true := by
  decide +kernel

theorem witness_VectorElementwise : slotOn sv v1 = true ∧ HeadsFull sv [1, 39, 41] ∧ (0 : BitVec 4).toNat < 3 ∧ ¬(3 : BitVec 4).toNat < 3 := by
  unfold HeadsFull; decide +kernel
theorem witness_VectorMoves : slotOn sv v1 = true ∧ HeadsFull sv [39, 40] := by unfold HeadsFull; decide +kernel
theorem witness_VectorLaneFunctions : slotOn sv v1 = true ∧ HeadsFull sv [4, 39] := by unfold HeadsFull; decide +kernel
theorem witness_VectorConversions : slotOn sv v1 = true ∧ HeadsFull sv [1, 2, 39] ∧ etW 5 ≤ 16 := by unfold HeadsFull; decide +kernel
theorem witness_VectorMasks : slotOn sv v1 = true ∧ HeadsFull sv [31, 39] := by unfold HeadsFull; decide +kernel


/-! ### Witnesses: memory access -/

/-- The physical address that an access reaches. -/
def reach (s : State) (a : Ask) (va : Word) : Option Nat := match access s s.focus.core a va with
  | .ok (_, _, pa) => some pa
  | _ => none

theorem reaches_of {s : State} {a : Ask} {va : Word} {pa : Nat} (h : reach s a va = some pa) : Reaches s a va pa := by
  unfold reach at h
  split at h
  · rename_i i e q heq; simp only [Option.some.injEq] at h; subst h; exact ⟨i, e, heq⟩
  · cases h

/-- The one request of a core after an instruction: address, length, data, bytes and what it waits for. -/
def asks (i : Instr) (s : State) (r : ReqOp) (pa len : Nat) (data : Row) (mask : BitVec 64) : Bool := after i s fun t =>
  match (archOf t s.focus.core).reqs with
  | [q] => decide (q.op = r ∧ q.pa = pa ∧ q.len = len ∧ q.data = data ∧ q.mask = mask ∧ t.mem = s.mem)
  | _ => false

/-- Offsets at the lower end and at zero: a row of the own slice, the first row of the region of core 300, a word. -/
theorem witness_TimedLoadsIssue :
    (slotOn s5 (vl 1) = true ∧ slotOn s5 smS = true ∧ CheckNow s5 ∧ (strmOf s5 s5.focus).blk.rrg = false ∧ BankFree s5 (5 * 2 ^ 22) ∧ BankFree s5 (300 * 2 ^ 22) ∧
      BankFree s5 (hbm 0x100000) ∧ EntryFree s5 1 ∧ EntryFree s5 8) ∧
    Reaches s5 askLoad (rs s5 1 + (0 : BitVec 12).signExtend 64 * 64) (5 * 2 ^ 22) ∧
    Reaches s5 askLoad (rs s5 4 + (0xFFF : BitVec 12).signExtend 64 * 64) (300 * 2 ^ 22) ∧
    Reaches s5 askLoad (rs s5 3 + (0x7FF : BitVec 12).signExtend 64 * 8) (hbm 0x103FF8) ∧
    Reaches s5 askLoad (rs s5 1 + (0xFF : BitVec 9).signExtend 64 * 8) (5 * 2 ^ 22 + 0x7F8) ∧
    (asks (.vld (vl 1) ⟨1, 1, 0, 0, 1, 0, 0⟩) s5 .load (5 * 2 ^ 22) 64 0 0 &&
      asks (.vldt (vl 1) ⟨1, 4, 0xFFF, 15, 0, 1, 0⟩) s5 .load (300 * 2 ^ 22) 64 0 0 &&
      asks (.vbld (vl 1) ⟨1, 3, 0x7FF, 15, 0, 0, 0⟩) s5 .load (hbm 0x103FF8) 8 0 0 &&
      asks (.ld smS ⟨7, 1, 0, 0xFF, 15, 0, 0⟩) s5 .load (5 * 2 ^ 22 + 0x7F8) 8 0 0) = true :=
  ⟨by unfold CheckNow BankFree EntryFree; decide +kernel, reaches_of (by decide +kernel), reaches_of (by decide +kernel),
    reaches_of (by decide +kernel), reaches_of (by decide +kernel), by decide +kernel⟩

theorem witness_StoresIssue :
    (slotOn s5 (vl 1) = true ∧ slotOn s5 smS = true ∧ CheckNow s5 ∧ (strmOf s5 s5.focus).blk.rrg = false ∧ BankFree s5 (hbm 0x100000) ∧ BankFree s5 (5 * 2 ^ 22 + 8) ∧
      paPkg (hbm 0x100000) = s5.pkg.toNat ∧ paPkg (5 * 2 ^ 22 + 8) = s5.pkg.toNat ∧ OutFree s5) ∧
    Reaches s5 askStore (rs s5 3 + (0 : BitVec 12).signExtend 64 * 64) (hbm 0x100000) ∧
    Reaches s5 askStore (rs s5 1 + (1 : BitVec 9).signExtend 64 * 8) (5 * 2 ^ 22 + 8) ∧
    (asks (.vst (vl 1) ⟨2, 3, 0, 0, 0, 0, 0⟩) s5 .store (hbm 0x100000) 64 77 (BitVec.allOnes 64) &&
      asks (.vstm (vl 1) ⟨2, 3, 0, 0, 1, 0, 0⟩) s5 .store (hbm 0x100000) 64 77 0xF0F00F0FFF0000FF &&
      asks (.st smS ⟨0, 1, 8, 1, 0, 0, 0⟩) s5 .store (5 * 2 ^ 22 + 8) 8 0x7FFFFFFFFFFFFFFF 0xFF) = true :=
  ⟨by unfold CheckNow BankFree OutFree; decide +kernel, reaches_of (by decide +kernel), reaches_of (by decide +kernel), by decide +kernel⟩

/-- The first row of the own slice is in a region that is checked, with a tag; the block checks races, or not. -/
def sRace (rrg : Bool) (t : Option Tag) : State :=
  let s := modArch s5 5 fun a => { a with main := { a.main with blk := { a.main.blk with rrg := rrg } }
                                          tab := tput a.tab 0 (entry 0x10000 (5 * 2 ^ 22) 0xE008 1) }
  match t with
  | some y => { s with tags := [(5 * 2 ^ 16, y.bits)] }
  | none => s

/-- R318 by hand: a first read leaves its agent; a row that core 9 has written in this phase races with a load; a store after a
read of the own core is taken; a store in a block without checks resets the tag. -/
theorem witness_TimedLoadsIssue_race :
    let w9 : Tag := { w := 9, rd := 0, ph := 0, v := true, wp := true, rp := false }
    let r5 : Tag := { w := 0, rd := 5, ph := 0, v := true, wp := false, rp := true }
    let pa := 5 * 2 ^ 22
    let ld : Instr := .vld (vl 1) ⟨1, 1, 0, 0, 0, 0, 0⟩
    let st : Instr := .vst (vl 1) ⟨2, 1, 0, 0, 0, 0, 0⟩
    (∀ t ∈ [none, some w9, some r5], Reaches (sRace true t) askLoad 0x10000 pa ∧ CheckNow (sRace true t)) ∧
    TagOutcome (sRace true none) pa false ≠ none ∧ TagOutcome (sRace true (some w9)) pa false = none ∧ TagOutcome (sRace true (some r5)) pa true ≠ none ∧
    (after ld (sRace true none) fun t => decide (t.tags = [(5 * 2 ^ 16, 0x500A)])) = true ∧
    (after ld (sRace true (some w9)) fun t => decide ((strmOf t s5.focus).frame.tcause.toNat % 256 = 5 ∧ (strmOf t s5.focus).frame.targ = 0x10000)) = true ∧
    (after st (sRace true (some r5)) fun t => decide (t.tags = [(5 * 2 ^ 16, 0x140000C)] ∧ (archOf t 5).reqs.length = 1)) = true ∧
    (after st (sRace false (some w9)) fun t => decide (t.tags = [(5 * 2 ^ 16, 0x2400004)])) = true :=
  ⟨by intro t ht; simp only [List.mem_cons, List.not_mem_nil, or_false] at ht
      rcases ht with h | h | h <;> subst h <;> exact ⟨reaches_of (by decide +kernel), by unfold CheckNow; decide +kernel⟩,
    by unfold TagOutcome; decide +kernel, by unfold TagOutcome; decide +kernel, by unfold TagOutcome; decide +kernel,
    by decide +kernel, by decide +kernel, by decide +kernel, by decide +kernel⟩

theorem rowReaches_of {s : State} {a : Ask} {pa q va : Nat} (h : rowVa (archOf s s.focus.core).tab s.focus.core pa = some va)
    (h' : reach s a (BitVec.ofNat 64 va) = some q) : RowReaches s a pa q := by unfold RowReaches; rw [h]; exact reaches_of h'

theorem rowReaches_none {s : State} {a : Ask} {pa : Nat} (h : rowVa (archOf s s.focus.core).tab s.focus.core pa = none)
    (h' : shutRow s pa = false) : RowReaches s a pa pa := by unfold RowReaches; rw [h]; exact ⟨h', rfl⟩

/-- h1 has two rows filled of four, h2 consumes from core 9 and h3 produces to it: the last index that is filled, and free. -/
theorem witness_HandleAccesses :
    (slotOn s5 (vl 1) = true ∧ handleBad s5 (handleReg s5 2) 1 false = false ∧ 1 + 1 ≤ (handleReg s5 2).filled ∧
      BankFree s5 (sliceRow s5.pkg 5 102) ∧ EntryFree s5 (vlC (vl 1))) ∧
    (handleBad s5 (handleReg s5 3) 1 true = false ∧ 1 + 1 ≤ (handleReg s5 3).free ∧ BankFree s5 (sliceRow s5.pkg 9 100)) ∧
    RowReaches s5 askLoad (sliceRow s5.pkg 5 102) (sliceRow s5.pkg 5 102) ∧
    RowReaches s5 askStore (sliceRow s5.pkg 9 100) (sliceRow s5.pkg 9 100) ∧
    (asks (.vldh (vl 1) ⟨4, 2, 1, 0, 0, 0, 0⟩) s5 .load (sliceRow 0 5 102) 64 0 0 &&
      asks (.vsth (vl 1) ⟨2, 3, 1, 0, 0, 0, 0⟩) s5 .store (sliceRow 0 9 100) 64 77 (BitVec.allOnes 64)) = true :=
  ⟨by unfold BankFree EntryFree; decide +kernel, by unfold BankFree; decide +kernel,
    rowReaches_of (va := 0x11980) (by decide +kernel) (by decide +kernel), rowReaches_none (by decide +kernel) (by decide +kernel), by decide +kernel⟩

theorem witness_AtomicsIssue :
    (slotOn s5 smS = true ∧ BankFree s5 (hbm 0x0FF800) ∧ BankFree s5 (hbm 0x100000) ∧ paPkg (hbm 0x100000) = s5.pkg.toNat ∧ OutFree s5 ∧ EntryFree s5 8) ∧
    Reaches s5 (askAtomic true) (rs s5 3 + (0 : BitVec 9).signExtend 64 * 8) (hbm 0x100000) ∧
    Reaches s5 (askAtomic false) (rs s5 3 + (0x0FF : BitVec 9).signExtend 64 * 8) (hbm 0x1007F8) ∧
    ([(Instr.aadd, 7), (.aand, 8), (.aor, 9), (.axor, 10), (.amin, 11), (.amax, 12), (.aminz, 13), (.amaxz, 14), (.axch, 15), (.acas, 16),
        (.afadd, (17 : BitVec 8))].all fun (x : (Slot → SmF → Instr) × BitVec 8) =>
      asks (x.1 smS ⟨2, 3, 8, 0, 9, 5, 0⟩) s5 (.atom x.2) (hbm 0x100000) 8 0x7FFFFFFFFFFFFFFF (BitVec.allOnes 64 &&& 0) ||
      asks (x.1 smS ⟨2, 3, 8, 0, 9, 5, 0⟩) s5 (.atom x.2) (hbm 0x100000) 8 0x7FFFFFFFFFFFFFFF 0xFF) = true :=
  ⟨by unfold BankFree OutFree EntryFree; decide +kernel, reaches_of (by decide +kernel), reaches_of (by decide +kernel), by decide +kernel⟩

/-- A request of core 5, waiting for nothing. -/
def req (op : ReqOp) (pa len : Nat) (data : Row) (mask : BitVec 64) (cmp : Word) : Req :=
  { id := 41, side := false, slot := 2, pc := 0, op := op, pa := pa, len := len, data := data, mask := mask, cmp := cmp, acq := false, rel := false
    scp := 0, hnd := none, wait := [], stg := none, sent := false, sig := false }
/-- A landing that awaits it. -/
def landing (dst : Dst) (shape : Shape) : Flight :=
  { mkFlight s5 smS 1 dst 0 mask64 4 0 .none with landing := true, shape := shape, req := 41, got := false }
/-- Core 5 has issued one request; memory holds the bytes 1 to 16 at the start of its slice and at the HBM address. -/
def asked (r : Req) (x : List Flight) : State :=
  let s := modArch s5 5 fun a => { a with reqs := [r], main := { a.main with pipe := { a.main.pipe with ops := x } } }
  { s with mem := (List.range 16).foldl (fun m i => cellPut m (canon (hbm 0x100000) + i) (BitVec.ofNat 8 (i + 1))) s.mem }

/-- The word that sixteen rising bytes begin with. -/
def rising : Word := 0x0807060504030201

/-- The shapes of a landing: a row, a word in lane 0, a word in every pair of lanes. -/
theorem witness_LoadsAreRead :
    let r := req .load (hbm 0x100008) 8 0 0 0
    let s := asked r [landing (.s 4) .word, landing (.v 1 4) .bcast]
    (archOf s 5).reqs[0]? = some r ∧ reqReady (archOf s 5) r = true ∧ paPkg r.pa = s.pkg.toNat ∧ storageOk s r.pa = true ∧ tierUp s r.pa = true ∧
    poisoned s r.pa = false ∧
    (after (.accessPerformed 5 0) s fun t => decide ((archOf t 5).reqs = [] ∧ (strmOf t s.focus).pipe.ops.map (fun x => (x.got, elem 64 x.val 0, elem 64 x.val 7)) =
      [(true, 0x100F0E0D0C0B0A09, 0), (true, 0x100F0E0D0C0B0A09, 0x100F0E0D0C0B0A09)])) = true := by decide +kernel

theorem witness_LoadsAreRead_row :
    let r := req .load (5 * 2 ^ 22) 64 0 0 0
    let s := asked r [landing (.v 1 4) .row]
    (archOf s 5).reqs[0]? = some r ∧ reqReady (archOf s 5) r = true ∧ paPkg r.pa = s.pkg.toNat ∧ storageOk s r.pa = true ∧ tierUp s r.pa = true ∧
    poisoned s r.pa = false ∧
    (after (.accessPerformed 5 0) s fun t => decide ((strmOf t s.focus).pipe.ops.map (fun x => (x.got, x.val)) =
      [(true, 0x100F0E0D0C0B0A090807060504030201)])) = true := by decide +kernel

/-- A masked row and a word at its own address; every other byte stands. -/
theorem witness_StoresAreWritten :
    let r := req .store (5 * 2 ^ 22) 64 0xBBAA9988 0x5 0
    let q := req .store (hbm 0x100000) 8 0xFFEEDDCCBBAA9988 0xFF 0
    Inv (asked r []) ∧ (archOf (asked r []) 5).reqs[0]? = some r ∧ reqReady (archOf (asked r []) 5) r = true ∧ paPkg r.pa = 0 ∧
    storageOk (asked r []) r.pa = true ∧ tierUp (asked r []) r.pa = true ∧
    Inv (asked q []) ∧ reqReady (archOf (asked q []) 5) q = true ∧ storageOk (asked q []) q.pa = true ∧ tierUp (asked q []) q.pa = true ∧ q.len = 8 ∧
    (after (.accessPerformed 5 0) (asked r []) fun t => decide (readN t.mem (5 * 2 ^ 22) 8 = 0x0807060504AA0288)) = true ∧
    (after (.accessPerformed 5 0) (asked q []) fun t => decide (wordAt t (hbm 0x100000) = 0xFFEEDDCCBBAA9988 ∧ wordAt t (hbm 0x100008) = 0x100F0E0D0C0B0A09)) = true := by
  unfold Machine.Inv; decide +kernel

/-- The node of a state's task cannot be restarted, and keeps no undo log. -/
def noUndo (s : State) : State := modNode s 1 2 fun n => { n with restart := false }

/-- The word that an atomic leaves. -/
def atomLeaves (c : BitVec 8) (b : Row) (cmp w : Word) : Bool :=
  after (.atomicAtUnit 5 0) (noUndo (asked (req (.atom c) (hbm 0x100000) 8 b 0xFF cmp) [landing (.s 4) .word])) fun t =>
    decide (wordAt t (hbm 0x100000) = w ∧ (strmOf t s5.focus).pipe.ops.map (·.val) = [rising.setWidth 512])

/-- R146 to R148 by hand on the word 0x0807060504030201. -/
theorem witness_AtomicsAreExecuted :
    let r := req (.atom 16) (hbm 0x100000) 8 5 0xFF rising
    let f := req (.atom 17) (hbm 0x100004) 8 0x3F800000 0xFF 0
    (Inv (asked r []) ∧ (archOf (asked r []) 5).reqs[0]? = some r ∧ reqReady (archOf (asked r []) 5) r = true ∧ paPkg r.pa = 0 ∧
      storageOk (asked r []) r.pa = true ∧ poisoned (asked r []) r.pa = false ∧
      Inv (asked f []) ∧ reqReady (archOf (asked f []) 5) f = true ∧ storageOk (asked f []) f.pa = true ∧ poisoned (asked f []) f.pa = false ∧
      mayArrive (asked f []) 1 2 1 (f.pa / 8 * 8) (agentBits 0 5 false) = true ∧ (ctxOf (asked f []) 1).logm ≠ 1) ∧
    (atomLeaves 7 0xFF 0 0x0807060504030300 && atomLeaves 8 0xFF 0 1 && atomLeaves 9 0xFF 0 0x08070605040302FF && atomLeaves 10 0xFF 0 0x08070605040302FE &&
      atomLeaves 11 0x8000000000000000 0 0x8000000000000000 && atomLeaves 12 0x8000000000000000 0 rising && atomLeaves 13 0x8000000000000000 0 rising &&
      atomLeaves 14 0x8000000000000000 0 0x8000000000000000 && atomLeaves 15 9 0 9 && atomLeaves 16 9 rising 9 && atomLeaves 16 9 0 rising) = true ∧
    (after (.atomicAtUnit 5 0) (noUndo (asked f [])) fun t => decide (wordAt t (hbm 0x100000) = 0x3F80000004030201)) = true := by
  unfold Machine.Inv; decide +kernel

/-- The undo record of a node that can be restarted stands apart from the word, wherever its free place is: the save area of the
context is at address 0 here. -/
theorem witness_AtomicsAreExecuted_undo (n : Nat) :
    let s := asked (req (.atom 16) (hbm 0x100000) 8 5 0xFF rising) []
    (∃ z, nodeOf s 1 2 = some z ∧ z.restart = true ∧ nodeOwns s z (hbm 0x100000) = false) ∧
    (recN (ctxOf s 1).record 56 8 = 0 ∧ nodeIds s 5 = (1, 2)) ∧
    canon (0 + 0xAA000000 + 16 * (n % 2 ^ 22)) + 16 ≤ canon (hbm 0x100000 / 8 * 8) := by
  refine ⟨⟨node0 5, by decide +kernel, by decide +kernel, by decide +kernel⟩, by decide +kernel, ?_⟩
  have h : canon (hbm 0x100000 / 8 * 8) = hbm 0x100000 := by decide +kernel
  have h0 : paSpace (0 + 0xAA000000 + 16 * (n % 2 ^ 22)) = 0 := by unfold paSpace fld; omega
  rw [h, canon, if_neg (by rw [h0]; omega)]
  unfold hbm; omega

theorem witness_LocalStorage : slotOn s5 (vl 1) = true ∧ slotOn s5 smS = true ∧ s5.focus.side = false ∧ isRoot s5.focus.core = false ∧
    slotOn (busy 64 false 5) smS = true ∧ isRoot 64 = true ∧ ((0xFF : BitVec 9).extractLsb' 7 2).toNat = 1 ∧
    adds (.vldx (vl 1) ⟨4, 0, 3, 0, 0, 0, 0⟩) s5 = [(1, 5, 0)] ∧ adds (.ldx smS ⟨4, 0, 0, 2, 0, 0, 0⟩) s5 = [(1, 9, 0)] ∧
    adds (.ldg smS ⟨4, 0, 0, 0x83, 0, 0, 0⟩) s5 = [(1, 4, 0)] ∧
    (after (.vstx (vl 1) ⟨2, 0, 31, 0, 0, 0, 0⟩) s5 fun t => decide (tget 0 ((archOf t 5).clus 1).und 31 = 77)) = true ∧
    (after (.stx smS ⟨0, 0, 2, 255, 0, 0, 0⟩) s5 fun t => decide (tget 0 (archOf t 5).und 255 = 5)) = true ∧
    (after (.stg smS ⟨0, 0, 2, 0x8F, 0, 0, 0⟩) s5 fun t => decide (tget 0 (tget [] (archOf t 5).shd 1) 15 = 5)) = true ∧
    (adds (.vxfer (vl 1) ⟨4, 2, 0, 0, 0, 0, 7⟩) s5).map (·.2.1) = [77] := by decide +kernel

/-- Queue 6 is disabled. -/
def sQoff : State := modArch s5 5 fun a => { a with q := [(6, { Queue.idle with cfg := 0 })] }
/-- A store of the stream is not performed. -/
def sBehind : State := asked (req .store (hbm 0x100000) 8 0 0xFF 0) []

/-- Local, to itself, to core 300, and to the root core of the copse. -/
theorem witness_QueuePushes :
    (slotOn s5 (vl 1) = true ∧ (rs s5 2).toNat = 5 ∧ coreOkN 5 = true ∧ queueFull s5 5 6 = false ∧ ownPushes s5 5 6 = 0 ∧ queueFull s5 5 7 = false ∧
      ((archOf s5 5).queue 6).ring = none ∧ ((archOf s5 5).queue 6).manyProds 5 = false ∧ (rs s5 7).toNat = 300 ∧ coreOkN 300 = true ∧ OutFree s5 ∧
      s5.iss.verts = [] ∧ vertUsed s5 (vertTarget 5 0) < 8) ∧
    (queueFull sQoff 5 6 = true ∧ (after (.vqpush (vl 1) ⟨2, 0, 6, 0, 0, 0, 0⟩) sQoff fun t =>
      decide ((strmOf t s5.focus).frame.tcause.toNat % 256 = 9)) = true ∧ relWaits sBehind s5.focus 5 = [41] ∧ queueFull sBehind 5 6 = false ∧
      (after (.vqpush (vl 1) ⟨2, 0, 6, 0, 0, 2, 0⟩) sBehind fun t => decide (t.net.map (fun m => (m.dst, m.wait)) = [(5, [41])])) = true) ∧
    (after (.vqpush (vl 1) ⟨2, 0, 6, 0, 0, 0, 0⟩) s5 fun t => decide (((archOf t 5).queue 6).ents.map (·.data) = [77])) = true ∧
    (after (.vqpush (vl 1) ⟨2, 2, 6, 0, 0, 0, 1⟩) s5 fun t => decide (((archOf t 5).queue 6).ents.map (·.data) = [77])) = true ∧
    (after (.vqpush (vl 1) ⟨2, 7, 0, 0, 0, 2, 1⟩) s5 fun t => decide (t.net.map (·.dst) = [300])) = true ∧
    (after (.vqpush (vl 1) ⟨2, 0, 0, 0, 0, 0, 2⟩) s5 fun t => decide (t.net.map (·.dst) = [65])) = true :=
  ⟨by unfold OutFree; decide +kernel, by decide +kernel, by decide +kernel, by decide +kernel, by decide +kernel, by decide +kernel⟩

/-- A majority set of three members, one of them up. -/
def sMaj (r : Option Row) (down : Nat) : State :=
  let s := modStrm s5 s5.focus fun x => { x with mjok := r }
  { s with hub := { s.hub with mjs := [(0, { MjSet.free with reg := BitVec.ofNat 64 (2 ^ 63 + down * 2 ^ 40 + 3 * 2 ^ 32 + 0x210) })] } }

theorem witness_MajorityOperations :
    (slotOn (sMaj none 5) smS = true ∧ BankFree (sMaj none 5) (5 * 2 ^ 22) ∧ (strmOf (sMaj none 5) s5.focus).mjok = none ∧
      (strmOf (sMaj (some 9) 0) s5.focus).mjok = some 9) ∧
    Reaches (sMaj none 5) { askLoad with wr := true, timed := false, coreWr := true, major := true } (rs (sMaj none 5) 12) (hbm 0x200000) ∧
    Reaches (sMaj (some 9) 0) { askLoad with wr := true, timed := false, coreWr := true, major := true } (rs (sMaj (some 9) 0) 12) (hbm 0x200000) ∧
    Reaches (sMaj none 5) { askStore with own := true } (rs (sMaj none 5) 1) (5 * 2 ^ 22) ∧
    Reaches (sMaj (some 9) 0) { askStore with own := true } (rs (sMaj (some 9) 0) 1) (5 * 2 ^ 22) ∧
    Reaches (sMaj none 5) { askLoad with timed := false, own := true } (rs (sMaj none 5) 1) (5 * 2 ^ 22) ∧
    ((List.range 3).filter (fun i => (tget MjSet.free (sMaj none 5).hub.mjs (mjSet (hbm 0x200000))).mem i == 0)).length = 1 ∧
    (after (.mjld smS ⟨4, 12, 1, 0, 0, 10, 0⟩) (sMaj none 5) fun t => decide ((strmOf t s5.focus).frame.tcause.toNat % 256 = 16 ∧ (strmOf t s5.focus).frame.targ = 0x40000)) = true ∧
    (after (.mjst smS ⟨4, 12, 1, 0, 0, 10, 0⟩) (sMaj none 5) fun t => decide ((strmOf t s5.focus).frame.tcause.toNat % 256 = 16)) = true ∧
    asks (.mjld smS ⟨4, 12, 1, 0, 0, 10, 0⟩) (sMaj (some 9) 0) .store (5 * 2 ^ 22) 64 9 (BitVec.allOnes 64) = true :=
  ⟨by unfold BankFree; decide +kernel, reaches_of (by decide +kernel), reaches_of (by decide +kernel), reaches_of (by decide +kernel), reaches_of (by decide +kernel),
    reaches_of (by decide +kernel), by decide +kernel, by decide +kernel, by decide +kernel, by decide +kernel⟩


/-! ### Witnesses: synchronisation, events, system registers, handles and queues -/

/-- A request is out, a command of the array and a copy are accepted, a publish is pending. -/
def sOut : State := modArch s5 5 fun a => { a with
  reqs := [req .store (hbm 0x100000) 8 0 0xFF 0]
  main := { a.main with pipe := { a.main.pipe with ops := [landing (.s 4) .word] } } }

/-- A copy command at issue, with the publish of every copy that names it. -/
def copyCmd (s : State) (opc : BitVec 8) (prm : BitVec 21) : CpCmd := cpBase s cpS ⟨3, 1, 0, 0, 2, prm⟩ opc

theorem witness_FencesWaitAndPass :
    let pub := modArch s5 5 fun a => { a with cp := [copyCmd s5 7 0x50000], pids := [9], aset := some [7] }
    let eng := modArch s5 5 fun a => { a with cp := [copyCmd s5 1 0], pids := [9], aset := some [7] }
    let o : SmF := ⟨0, 0, 0, 0, 0, 9, 0⟩
    slotOn s5 smS = true ∧ acqDone s5 s5.focus = true ∧ acqDone sOut sOut.focus = false ∧ relDone s5 s5.focus 9 = true ∧ relDone sOut sOut.focus 9 = false ∧
    relDone sOut sOut.focus 0 = true ∧ (archOf s5 5).main.pipe = Pipe.empty ∧ (archOf s5 5).cp = [] ∧ (archOf s5 5).smv = [] ∧ (archOf eng 5).cp ≠ [] ∧
    (∀ x ∈ (archOf eng 5).cp, pubPending eng 5 9 x = false) ∧ (∃ x ∈ (archOf pub 5).cp, pubPending pub 5 9 x = true) ∧
    leaves (.fenceAcquire smS o) sOut sOut = true ∧ leaves (.fenceRelease smS o) sOut sOut = true ∧ leaves (.fenceFull smS o) sOut sOut = true ∧
    (∀ r ∈ (archOf s5 5).reqs, r.eng = false) ∧ (strmOf s5 s5.focus).frame.held = Pipe.empty ∧
    leaves (.fenceEngineComplete smS o) eng eng = true ∧ leaves (.fencePublishVisible smS o) pub pub = true ∧
    (after (.fenceFull smS o) eng fun t => decide ((archOf t 5).pids = [] ∧ (strmOf t s5.focus).relF = some 9) && ((archOf t 5).aset.getD []).contains 9) = true ∧
    (after (.fenceRelease smS o) s5 fun t => decide ((strmOf t s5.focus).relF = some 9)) = true ∧ (after (.fenceAcquire smS o) eng fun t => decide ((archOf t 5).pids = [])) = true := by
  decide +kernel

/-- Core 5 has arrived at barrier 2 of scope `GROVE`; the phase has completed, or not. -/
def sBar (b : Bool) : State := modArch s5 5 fun a => { a with arrv := [(3, 2, b)] }

theorem witness_BarrierInstruction :
    let o : SmF := ⟨0, 0, 0, 2, 0, 3, 0⟩
    let o6 : SmF := ⟨0, 0, 0, 15, 0, 6, 0⟩
    slotOn s5 smS = true ∧ (busy 5 true 5).focus.side = true ∧ slotOn (busy 5 true 5) smS = true ∧ barGroup s5 5 = 0 ∧ (archOf s5 5).task.isSome = true ∧
    (3, 2, true) ∈ (archOf (sBar true) 5).arrv ∧ (3, 2, false) ∈ (archOf (sBar false) 5).arrv ∧ (3, 2, true) ∉ (archOf (sBar false) 5).arrv ∧
    (archOf s5 5).arrv = [] ∧ (acqDone sOut sOut.focus && relDone sOut sOut.focus 3) = false ∧ (acqDone s5 s5.focus && relDone s5 s5.focus 3) = true ∧
    (after (.bar smS o) (busy 5 true 5) fun t => decide ((strmOf t ⟨5, true⟩).frame.tcause.toNat % 256 = 1)) = true ∧
    (after (.bar smS o6) s5 fun t => decide ((archOf t 5).run = .stopped ∨ (strmOf t s5.focus).frame.tcause.toNat % 256 = 4)) = true ∧
    (after (.bar smS o) (sBar true) fun t => decide ((archOf t 5).arrv = [])) = true ∧ leaves (.bar smS o) (sBar false) (sBar false) = true ∧
    leaves (.bar smS o) sOut sOut = true ∧ (after (.bar smS o) s5 fun t => decide ((archOf t 5).arrv = [(3, 2, false)] ∧ t.hub.bars.map (·.arr) = [[5]])) = true := by
  decide +kernel

/-- Two records wait at core 5. -/
def sEv : State := modArch s5 5 fun a => { a with evq := [{ hdr := 0x8000000000000001, pay := 7 }, { hdr := 2, pay := 8 }] }

theorem witness_EventInstructions : (slotOn sEv smS = true ∧ (archOf s5 5).evq = [] ∧ (rs s5 7).toNat = 300 ∧ coreOkN 300 = true ∧ OutFree s5 ∧
      1024 ≤ (rs s5 8).toNat ∧ coreOkN 1023 = false ∧ coreOkN 975 = true) ∧
    (after (.evpop smS ⟨4, 0, 6, 0, 0, 0, 0⟩) sEv fun t => decide ((archOf t 5).evq = [{ hdr := 2, pay := 8 }])) = true ∧
    adds (.evpop smS ⟨4, 0, 6, 0, 0, 0, 0⟩) sEv = [(1, 0x8000000000000001, 0), (1, 7, 0)] ∧ leaves (.evpop smS ⟨4, 0, 6, 0, 0, 0, 0⟩) s5 s5 = true ∧
    adds (.evpop smS ⟨4, 0, 6, 1, 0, 0, 0⟩) s5 = [(1, 0, 0), (1, 0, 0)] ∧
    (after (.evpost smS ⟨0, 7, 2, 0x1FF, 0, 0, 0⟩) s5 fun t => t.net.map (fun m => (m.dst, match m.msg with | .event r => (r.hdr.toNat, r.pay.toNat) | _ => (0, 0))) ==
      [(300, 0x80040005000001FF, 5)]) = true ∧
    (after (.evpost smS ⟨0, 8, 2, 0, 0, 0, 0⟩) s5 fun t => decide ((strmOf t s5.focus).frame.tcause.toNat % 256 = 9)) = true :=
  ⟨by unfold OutFree; decide +kernel, by decide +kernel, by decide +kernel, by decide +kernel, by decide +kernel, by decide +kernel, by decide +kernel⟩

/-- The entry and the address that section 12 works out, as entry 7 of the table. -/
def sTq : State :=
  let s := modArch s5 5 fun a => { a with tab := [(7, { w0 := 0x8018000040000012, w1 := 0x0002000022000000, w2 := 0, w3 := 0xC400, reg := 0 })] }
  modStrm s s.focus fun x => x.setReg 4 0x405A1240

theorem witness_TranslationQuery : slotOn sTq smS = true ∧
    (lookupE (archOf sTq 5).tab ((rs sTq 4).extractLsb' 0 48).toNat).map (·.1) = some 7 ∧ lookupE (archOf sTq 5).tab 0 = none ∧
    adds (.tq smS ⟨12, 4, 0, 0, 0, 0, 0⟩) sTq = [(1, 0x8390198001200000, 0)] ∧ adds (.tq smS ⟨12, 0, 0, 0, 0, 0, 0⟩) sTq = [(1, 0, 0)] := by decide +kernel

theorem witness_SystemRegisterReads : slotOn sFrame smS = true ∧ isRoot s5.focus.core = false ∧ isRoot (busy 79 false 5).focus.core = true ∧
    slotOn (busy 79 false 5) smS = true ∧ (strmOf sFrame sFrame.focus).frame.act = true ∧ (strmOf s5 s5.focus).frame.act = false ∧
    adds (.sysr smS ⟨4, 0, 0, 0x20, 0, 0, 0⟩) sFrame = [(1, 0x80000003, 0)] ∧ adds (.sysr smS ⟨4, 0, 0, 0x01, 0, 0, 0⟩) s5 = [(1, 5, 0)] ∧
    adds (.sysr smS ⟨4, 0, 0, 0x0B, 0, 0, 0⟩) s5 = [(1, 1, 0)] ∧ adds (.sysr smS ⟨4, 0, 0, 0x4F, 0, 0, 0⟩) (busy 79 false 5) = [(1, 0, 0)] ∧
    (after (.sysr smS ⟨4, 0, 0, 0x50, 0, 0, 0⟩) (busy 79 false 5) fun t => decide ((strmOf t ⟨79, false⟩).frame.tcause.toNat % 256 = 1)) = true := by decide +kernel

theorem witness_SystemRegisterWrites : (slotOn sFrame smS = true ∧ slotOn s5 smS = true ∧ (strmOf sFrame s5.focus).frame.act = true ∧
      (strmOf s5 s5.focus).frame.act = false ∧ (archOf s5 5).rlsd.getLsbD 31 = false ∧ BankFree s5 (sliceRow s5.pkg 5 (31 * 2048)) ∧
      (archOf s5 5).rlsd.getLsbD 0 = false ∧ BankFree s5 (sliceRow s5.pkg 5 0)) ∧
    (after (.sysw smS ⟨0, 0, 10, 0, 0, 0, 0⟩) s5 fun t => decide ((archOf t 5).fpc = 0x3FFB)) = true ∧
    (after (.sysw smS ⟨0, 0, 10, 1, 0, 0, 0⟩) s5 fun t => decide ((strmOf t s5.focus).f = 0xFFFF)) = true ∧
    (after (.sysw smS ⟨0, 0, 10, 0x25, 0, 0, 0⟩) sFrame fun t => decide ((strmOf t s5.focus).frame.tfpc = 0x3FFB)) = true ∧
    leaves (.sysw smS ⟨0, 0, 10, 0x10, 0, 0, 0⟩) s5 s5 = true ∧
    (after (.sysw smS ⟨0, 0, 5, 0x5F, 0, 0, 0⟩) s5 fun t => decide (tget 0 (archOf t 5).bfmt 31 = 8)) = true ∧
    (after (.sysw smS ⟨0, 0, 10, 0x40, 0, 0, 0⟩) s5 fun t => decide (tget 0 (archOf t 5).bfmt 0 = 0)) = true :=
  ⟨by unfold BankFree; decide +kernel, by decide +kernel, by decide +kernel, by decide +kernel, by decide +kernel, by decide +kernel, by decide +kernel⟩

/-- Core 5 owns its banks 0 and 31, and its context has a chain; `n` signals of the core wait. -/
def sSig (n : Nat) : State :=
  let s := modCtx s5 1 fun c => { c with chain := some Chain.fresh, sigs := List.replicate n { core := 5, side := false, ret := false, ctr := 0, amt := 1, wait := [] } }
  { s with hub := { s.hub with banks := [(160, [(1, 2)]), (191, [(1, 2)])] } }

theorem witness_SignalsAndReleases : slotOn (sSig 0) smS = true ∧ (rs (sSig 0) 11).toNat < 256 ∧ (rs (sSig 0) 7).toNat < 65536 ∧
    (ctxOf (sSig 0) (nodeIds (sSig 0) 5).1).chain.isSome = true ∧ ((ctxOf (sSig 3) 1).sigs.filter (fun x => x.core == 5)).length < 4 ∧
    4 ≤ ((ctxOf (sSig 4) 1).sigs.filter (fun x => x.core == 5)).length ∧ slotOn (sSig 4) smS = true ∧
    (after (.brel smS ⟨0, 10, 0, 0, 0, 0, 0⟩) (sSig 0) fun t => decide ((archOf t 5).rlsd = 0x80000001)) = true ∧
    (after (.chsigReturn smS ⟨0, 11, 7, 1, 0, 6, 0⟩) (sSig 3) fun t => (ctxOf t 1).sigs.map (fun g => (g.ret, g.ctr, g.amt)) ==
      [(false, 0, 1), (false, 0, 1), (false, 0, 1), (true, 64, 300)]) = true ∧
    leaves (.chsigReady smS ⟨0, 11, 7, 0, 0, 6, 0⟩) (sSig 4) (sSig 4) = true := by decide +kernel

/-- Queue 4 has a spill ring, s13 holds the handle word of R156's example and s14 a configuration with spilling. -/
def sHq : State :=
  let s := modArch s5 5 fun a => { a with q := [(4, { Queue.idle with ring := some { base := 1, size := 16, quota := 2, head := 0, ents := [] } })] }
  modStrm s s.focus fun x => (x.setReg 13 0x0C00300000011180).setReg 14 3

theorem witness_HandleAndQueueRegisters :
    (slotOn sHq hqS = true ∧ producing (archOf sHq 5) 3 = false ∧ imageBad 5 (rs sHq 13) = false ∧ (handleReg sHq 3).vld = true ∧
      2 ≤ (handleReg sHq 3).free ∧ (handleReg sHq 2).vld = true ∧ 2 ≤ (handleReg sHq 2).filled ∧ (rs sHq 14).toNat < 8 ∧ (rs sHq 14).getLsbD 1 = true ∧
      ((archOf sHq 5).queue 4).ring.isSome = true ∧ (rs sHq 5).toNat < 8 + 1 ∧ (rs sHq 0).getLsbD 1 = false ∧ (rs sHq 3).extractLsb' 0 6 = 0 ∧
      0 < (rs sHq 11).toNat ∧ (rs sHq 11).toNat ≤ 4096) ∧
    Reaches sHq askStore (rs sHq 3) (hbm 0x100000) ∧
    (after (.hdef hqS ⟨15, 13, 0, 0, 0, 0, 0⟩) sHq fun t => decide (tget 0 (archOf t 5).h 15 = 0x0C00300000011180)) = true ∧
    leaves (.hadv hqS ⟨3, 0, 0, 0, 0, 0, 0⟩) sHq sHq = true ∧ (archOf sHq 5).moved = [] ∧
    (after (.hadv hqS ⟨3, 0, 0, 2, 0, 0, 0⟩) (modArch sHq 5 fun a => { a with moved := [(3, true)] }) fun t =>
      decide ((strmOf t s5.focus).frame.tcause.toNat % 256 = 9)) = true ∧
    (after (.hadv hqS ⟨3, 0, 0, 2, 0, 0, 0⟩) sHq fun t => decide ((handleOf (tget 0 (archOf t 5).h 3)).prd = 5 ∧ t.net.map (·.dst) = [9])) = true ∧
    (after (.hadv hqS ⟨2, 0, 0, 2, 0, 1, 0⟩) sHq fun t => decide ((handleOf (tget 0 (archOf t 5).h 2)).cns = 3)) = true ∧
    (after (.hqry hqS ⟨2, 0, 0, 1, 0, 0, 0⟩) sHq fun t => decide ((archOf t 5).hqv = 0x20002)) = true ∧
    (after (.qcfg hqS ⟨0, 14, 0, 0, 4, 0, 0⟩) sHq fun t => decide (((archOf t 5).queue 4).cfg = 3)) = true ∧
    (after (.qspl hqS ⟨0, 3, 11, 4096, 6, 0, 0⟩) sHq fun t => ((archOf t 5).queue 6).ring.map (fun r => (r.base, r.size, r.quota)) == some (hbm 0x100000, 4096, 64)) = true :=
  ⟨by decide +kernel, reaches_of (by decide +kernel), by decide +kernel, by decide +kernel, by decide +kernel, by decide +kernel, by decide +kernel, by decide +kernel, by decide +kernel, by decide +kernel, by decide +kernel⟩

/-- The register and fixed fields of R208 and R213: `WHO` of core 5 of package 0, `EQS` of an empty event queue, two snapshots
in the frame, and the first of them in `SNW`, at issue slot 23 with one counted cycle left. -/
theorem witness_SystemRegisterReads_rest :
    adds (.sysr smS ⟨4, 0, 0, 0x0A, 0, 0, 0⟩) s5 = [(1, 5 * 256, 0)] ∧ adds (.sysr smS ⟨4, 0, 0, 0x11, 0, 0, 0⟩) s5 = [(1, 0, 0)] ∧
    adds (.sysr smS ⟨4, 0, 0, 0x11, 0, 0, 0⟩) sEv = [(1, 2, 0)] ∧ adds (.sysr smS ⟨4, 0, 0, 0x30, 0, 0, 0⟩) sFrame = [(1, 2, 0)] ∧
    adds (.sysr smS ⟨4, 0, 0, 0x30, 0, 0, 0⟩) s5 = [(1, 0, 0)] ∧ adds (.sysr smS ⟨4, 0, 0, 0x32, 0, 0, 0⟩) s5 = [(1, 0, 0)] := by
  decide +kernel

/-- A frame register is written whole, and the read-only ones of the frame stand (R208). -/
theorem witness_SystemRegisterWrites_frame :
    (after (.sysw smS ⟨0, 0, 10, 0x28, 0, 0, 0⟩) sFrame fun t => decide ((strmOf t s5.focus).frame.tlb0 = (rs sFrame 10).setWidth 48)) = true ∧
    (after (.sysw smS ⟨0, 0, 10, 0x2B, 0, 0, 0⟩) sFrame fun t => decide ((strmOf t s5.focus).frame.tlb1 = (rs sFrame 10).setWidth 48)) = true ∧
    leaves (.sysw smS ⟨0, 0, 10, 0x20, 0, 0, 0⟩) sFrame sFrame = true ∧ leaves (.sysw smS ⟨0, 0, 10, 0x28, 0, 0, 0⟩) s5 s5 = true := by decide +kernel

/-- A consumer tells the producer, a queue counts its ring, and kind 3 counts the free places of a vertical queue (R156, R161). -/
theorem witness_HandleAndQueueRegisters_rest :
    let rg := modArch sHq 5 fun a => { a with q := [(4, { Queue.idle with ring := some (Sys2Proof.Machine.Ring.mk 1 16 2 0
      [QEnt.mk 1 0 5 1 2 false, QEnt.mk 2 0 5 1 2 false]) })] }
    (after (.hadv hqS ⟨2, 0, 0, 2, 0, 1, 0⟩) sHq fun t => t.net.map (fun m => match m.msg with | .pointer n p v => (n, p, v.toNat) | _ => (0, true, 0)) ==
      (if (handleReg sHq 2).peer = 5 then [] else [(2, false, 3)])) = true ∧
    (after (.hqry hqS ⟨0, 0, 0, 2, 4, 0, 0⟩) rg fun t => decide ((archOf t 5).hqv = 0x200)) = true ∧
    (after (.hqry hqS ⟨0, 0, 0, 3, 0, 0, 0⟩) sHq fun t => decide ((archOf t 5).hqv = 8)) = true := by decide +kernel


/-! ### Witnesses: engine commands -/

/-- The staging sets of core 5: MX words 0 to 2 at rows of the own slice with pitches of one row; CP words; TX words. Its banks 0
and 1 hold FP32 and BF16; a start token is granted. -/
def sEn : State := modArch s5 5 fun a => { a with
  shd := [(0, [(0, 0x10000), (1, 0x10000), (2, 0x14000), (4, 0x10001), (5, 0x20000), (6, (0x0F <<< 16) ||| 0x7F)]),
          (1, [(0, 0x10000), (1, 0x20000), (2, 16), (3, 0x11000), (4, 16), (5, 0x12000), (6, 0x13000), (8, 64), (9, 0x13000)]),
          (2, [(0, 0x10000), (1, 0x14000), (2, 0x10001)])]
  bfmt := [(0, 1), (1, 2)], tok := { Tokens.none with stGot := true }
  task := a.task.map fun t => { t with aln := 128 } }

/-- Everything that R164, R167 and R168 ask of an array command holds. -/
def mxMay (s : State) (h : Slot) (o : EnF) (x : MxOp) (opc : BitVec 8) : Bool :=
  let c := s.focus.core
  let q := (archOf s c).main.pipe
  slotOn s h && !s.iss.rp && mxReady q x o.wl.toNat && q.nest.isNone && (!starts q x || (archOf s c).tok.stGot) && !mxBad x (shWord s c 0) false (x == .mcop && c % 4 != (o.prm.extractLsb' 5 2).toNat) &&
    match planMx s h c (mxBase s h o x opc c) (mxAsk x o (shWord s c 0) (rs s o.sa) 0) with
    | .ok y => y.own.all fun r => ownsBank s c (sliceRow s.pkg c r)
    | .error _ => false

/-- The one command in the array after an instruction: its operation, rows and D. -/
def inArray (i : Instr) (s : State) : Option (MxOp × Nat × Nat) := match exec i s with
  | .next t => match (archOf t s.focus.core).main.pipe.mx with
    | [c] => some (c.op, c.rows, c.d)
    | _ => none
  | _ => none

theorem witness_MatrixCommandsAreAccepted :
    let o : EnF := ⟨3, 1, 2, 0, 0, 0x80⟩
    let o0 : EnF := ⟨3, 1, 0, 0, 0, 0x80⟩
    ([(.mlw, 1), (.mma, 2), (.mmar, 3), (.mscl, 6), (MxOp.mcop, (8 : BitVec 8))].all fun x => mxMay sEn mxS (if x.1 = .mscl then { o with prm := 0 } else o) x.1 x.2) = true ∧
    mxMay sEn mxS o0 .mzr 4 = true ∧ mxMay sEn mxS o0 .mst 5 = true ∧
    [inArray (.mlw mxS o) sEn, inArray (.mma mxS o) sEn, inArray (.mmar mxS o) sEn, inArray (.mzr mxS o0) sEn, inArray (.mst mxS o0) sEn,
      inArray (.mcop mxS o) sEn] = [some (.mlw, 2, 18), some (.mma, 2, 18), some (.mmar, 2, 18), some (.mzr, 2, 18), some (.mst, 2, 18), some (.mcop, 2, 22)] ∧
    (inArray (.mscl mxS { o with prm := 0 }) sEn).map (·.1) = some .mscl ∧
    (after (.mma mxS o) sEn fun t => decide ((archOf t 5).tok.stGot = false ∧ tget 0 (archOf t 5).nacc 0 = 1)) = true := by decide +kernel

/-- An array command of core 5 whose row 0 is due in the open counted cycle; bank 0 has format `n`. -/
def staged (n : Nat) (i : Instr) (f : MxCmd → MxCmd) : State :=
  match exec i (modArch sEn 5 fun a => { a with bfmt := [(0, BitVec.ofNat 32 n), (1, 2)] }) with
  | .next t => modArch t 5 fun a => { a with main := { a.main with
      cyc := [.rows, .ends], pipe := { a.main.pipe with mx := a.main.pipe.mx.map (fun x => f { x with age := x.d + 1 }) } } }
  | _ => sEn

/-- Row 0 of one command is due, no row it reads as A is poisoned, and the command has a format error or not. -/
def rowDue (s : State) (ferr : Bool) : Bool :=
  let p := (strmOf s ⟨5, false⟩).pipe
  (strmOf s ⟨5, false⟩).cyc.head? == some .rows && p.tx.isEmpty && match p.mx with
    | [x] => dueRows x == [0] && x.ferr == ferr && (aRowBad s 5 (strmOf s ⟨5, false⟩).mark x.fmts (x.a + 0 * x.apt) 4).isNone
    | _ => false

/-- The commands of the array in core 5 whose row stage is due. -/
def mmaDue : State := staged 2 (.mma mxS ⟨3, 1, 0, 0, 0, 0x80⟩) fun x => x
def mlwDue : State := staged 1 (.mlw mxS ⟨3, 1, 0, 0, 0, 0x80⟩) fun x => x
def msclDue : State := staged 0 (.mscl mxS ⟨3, 1, 0, 0, 0, 0⟩) fun x => { x with ferr := false }
def mstDue : State := modArch (staged 1 (.mst mxS ⟨3, 1, 0, 0, 0, 0x80⟩) fun x => x) 5 fun a =>
  { a with acc := [(0, [(0, { int := false, bits := 0x3F800000 })])] }
def errDue : State := staged 1 (.mma mxS ⟨3, 1, 0, 0, 0, 0x80⟩) fun x => x

/-- Row 0 of core 5 holds the bytes 1 to 16: a latch row of two rounded elements, a scale row and a drained row come of it; a
command with a format error writes nothing; a signalling accumulator word raises an exception that may be enabled. -/
theorem witness_MatrixCommandsAreAccepted_rows :
    (rowDue mmaDue false && rowDue (staged 2 (.mmar mxS ⟨3, 1, 0, 0, 0, 0x80⟩) fun x => x) false && rowDue mlwDue false && rowDue msclDue false &&
      rowDue mstDue false && rowDue errDue true) = true ∧
    (strmOf mmaDue ⟨5, false⟩).pend = [] ∧ raisesTrap (passF false ((List.range 128).map (fun _ => (0, 0))) 0x7F800001).2 31 = true ∧
    raisesTrap (passF false ((List.range 128).map (fun _ => (0, 0))) 0x3F800000).2 31 = false ∧
    memWf mstDue.mem = true ∧ mstDue.flaws = [] ∧ (archOf mstDue 5).reqs = [] := by decide +kernel

theorem witness_MatrixCommandsAreAccepted_writes :
    (after (.rowStage 5) mlwDue fun t => (tget 0 (tget WLatch.idle (archOf t 5).w 0).rows 0).toNat % 2 ^ 32 == 0x08070403) = true ∧
    (after (.rowStage 5) msclDue fun t => (tget 0 (tget WLatch.idle (archOf t 5).w 0).scales 0).toNat % 2 ^ 16 == 0x0201) = true ∧
    (after (.rowStage 5) errDue fun t => decide ((archOf t 5).acc = [] ∧ (archOf t 5).w = [])) = true ∧
    (after (.rowStage 5) mstDue fun t => elem 32 (rowAt t (5 * 2 ^ 22 + 0x4000)) 0 == 0x3F800000) = true := by decide +kernel

/-- Core 5 is the source of an `mcop`, whose row its copsemates buffer; as a receiver it takes the row it buffers, or has a
format error. -/
def copSrc : State := staged 2 (.mcop mxS ⟨3, 1, 0, 0, 0, 0xA0⟩) fun x => x
def copRcv (fm : BitVec 32) : State := modArch (staged 2 (.mcop mxS ⟨3, 1, 0, 0, 0, 0x80⟩) fun x => x) 5 fun a =>
  { a with bcast := [{ src := 0, row := 0, count := 2, parts := [0x3F80], regs := [fm], atGrp := true, hdrs := [] }] }

theorem witness_MatrixCommandsAreAccepted_cops :
    (rowDue copSrc false && rowDue (copRcv 2) false) = true ∧ pairs (tget WLatch.idle (archOf (copRcv 2) 5).w 0) 2 = true ∧
    pairs (tget WLatch.idle (archOf (copRcv 1) 5).w 0) 1 = false ∧
    (after (.rowStage 5) (copRcv 1) fun t => (archOf t 5).bcast.isEmpty && (strmOf t ⟨5, false⟩).pipe.mx.all (fun x => x.ferr)) = true := by decide +kernel

/-- No token is there and the staging words name no indices. -/
def sNest : State := modArch s5 5 fun a => { a with shd := [(0, [(0, 0x10000), (1, 0x10000), (2, 0x14000), (4, 0x10001)])] }

theorem witness_NestIsAccepted :
    let a := archOf sNest 5
    slotOn sNest mxS = true ∧ a.main.pipe.mx = [] ∧ a.main.pipe.tx = [] ∧ a.main.pipe.nest = none ∧ nestBad (shWord sNest 5 0) = false ∧
    (∀ l < 6, nestAct (tget [] a.shd 0) l 0 = false ∧ nestAct (tget [] a.shd 0) l 1 = false) ∧ a.tok = Tokens.none ∧
    (after (.mnest mxS ⟨3, 0, 0, 0, 0, 0⟩) sNest fun t => decide ((archOf t 5).main.pipe.nest.isSome = true ∧ (archOf t 5).tok.stReq = true ∧
      t.hub.tokq = [(0, true, 5, 0)])) = true := by decide +kernel

/-- What the statement asks of a copy command beside its ranges, and that they translate. -/
def cpMay (s : State) (o : EnF) (opc : BitVec 8) (addrs : List Nat) (l : CpCmd → List (Ask × Nat × Nat)) : Bool :=
  let x := cpBase s cpS o opc
  let sh := shWord s 5 1
  decide ((archOf s 5).cp.length < 8) && slotOn s cpS && addrs.all (fun n => (sh n).extractLsb' 48 16 == 0) && (sh 2).extractLsb' 36 28 == 0 &&
    (sh 4).extractLsb' 32 32 == 0 && (sh 8).extractLsb' 36 28 == 0 && (!x.hp || !handleShut s 5 x.hn) &&
    match engRanges s cpS 5 (l x) with
    | .ok _ => true
    | .error _ => false

/-- The destination of the one copy command after an instruction. -/
def copies (i : Instr) : Option (Nat × Nat) := match exec i sEn with
  | .next t => match (archOf t 5).cp with
    | [x] => some (x.opc.toNat, x.adr 1)
    | _ => none
  | _ => none

theorem witness_CopyCommandsAreAccepted :
    let o : EnF := ⟨3, 1, 0, 0, 11, 0⟩
    let src := askSrc false
    let dst := askDst false
    let ns := fun (x : CpCmd) => segBytes (cpSrcSegs sEn 5 x)
    let nd := fun (x : CpCmd) => segBytes (cpDstSegs sEn 5 x)
    (cpMay sEn o 1 [0, 1] (fun x => (src, x.adr 0, ns x) :: cpDst sEn x (nd x)) && cpMay sEn { o with prm := 0x8800 } 1 [0] (fun x => (src, x.adr 0, ns x) :: cpDst sEn x (nd x)) &&
      cpMay sEn o 2 [3, 0, 1] (fun x => [(src, x.adr 0, x.cl * x.recB), (src, x.adr 3, 4 * x.cn)] ++ cpDst sEn x (x.cn * x.recB)) &&
      cpMay sEn o 3 [0, 1, 3] (fun x => [(src, x.adr 0, x.cn * x.recB), (dst, x.adr 1, x.cl * x.recB), (src, x.adr 3, 4 * x.cn)]) &&
      cpMay sEn { o with sa := 0 } 4 [0, 1] (fun x => [(src, x.adr 0, 65536), (dst, x.adr 1, 65536)]) && (regionAt (archOf sEn 5) 0x10000).isSome &&
      cpMay sEn o 5 [6, 0, 1] (fun x => [(src, x.adr 0, 64), (src, x.adr 6, 256)] ++ cpDst sEn x (nd x)) &&
      cpMay sEn o 6 [0, 1] (fun x => [(src, x.adr 0, ns x), (dst, x.adr 1, nd x)]) && cpMay sEn o 7 [1] (fun x => [(dst, x.adr 1, x.cn * 64)]) &&
      cpMay sEn o 8 [1] (fun x => [(dst, x.adr 1, nd x)]) &&
      cpMay sEn o 9 [0, 1, 5, 9] (fun x => [(src, x.adr 0, ns x), (dst, x.adr 1, nd x), ({ askSrc true with wr := true }, x.adr 5, 4 * x.cn), (src, x.adr 9, 4 * cdiv x.cn x.grp)])) = true ∧
    [copies (.cpy cpS o), copies (.cpg cpS o), copies (.cps cpS o), copies (.cptOffload cpS { o with sa := 0 }), copies (.cpz cpS o), copies (.coll cpS o),
      copies (.pub cpS o), copies (.cpf cpS o), copies (.cpc cpS o)] =
      [some (1, 0x20040), some (2, 0x20040), some (3, 0x20040), some (4, 0x20000), some (5, 0x20040), some (6, 0x20040), some (7, 0x20040), some (8, 0x20040), some (9, 0x20040)] := by
  decide +kernel

/-- The state after a copy command that has nothing else to do; the core's own region may be one of two rows. -/
def cpAfter (small : Bool) (i : Instr) : State := match exec i (modArch sEn 5 fun a => { a with
    tab := a.tab.map (fun e => if small = true ∧ e.1 = 0 then (0, { e.2 with w0 := e.2.w0 - BitVec.ofNat 64 (9 * 2 ^ 48) }) else e) }) with
  | .next t => t
  | _ => sEn

/-- Everything that the performance of a copy command asks. -/
def cpGoes (s : State) (add : Bool) : Bool := match (archOf s 5).cp with
  | [x] => let out := cpOut s 5 x
      memWf s.mem && s.flaws.isEmpty && x.phase == 0 && !x.hp && x.pub == none && !x.flip && (pubEnts s 5 { x with sts := BitVec.ofNat 4 out.sts }).isEmpty &&
        cpReady s 5 x out && (cpMissing s 5 x).isEmpty && (cpBad s 5 x out).isNone && !toTier s x 5 out && !out.l.isEmpty &&
        out.l.all (fun w => paPkg w.pa == s.pkg.toNat && w.grp == 0 && (w.add != 0) == add) && decide (out.l.map (fun (w : CpWr) => canon (rowBase w.pa))).Nodup &&
        (ctxOf s (nodeIds s 5).1).logm == 0 && (ctxOf s (nodeIds s 5).1).held.isEmpty && (ownRange s (nodeIds s 5).1 (nodeIds s 5).2).isNone
  | _ => false

theorem witness_CopyCommandsAreAccepted_performed :
    let o : EnF := ⟨3, 1, 0, 0, 11, 0⟩
    let cpy := cpAfter true (.cpy cpS o)
    (cpGoes (cpAfter true (.cpy cpS o)) false && cpGoes (cpAfter true (.cptOffload cpS { o with sa := 0 })) false && cpGoes (cpAfter true (.coll cpS { o with prm := 0x200 })) true) = true ∧
    (after (.engineCompletion 5 1) cpy fun t => decide ((archOf t 5).cp = [] ∧ (strmOf t ⟨5, false⟩).flag 3 = true) &&
      (archOf t 5).evq.length == 1 && cellAt t.mem (hbm 0x100040) == 1 && cellAt t.mem (hbm 0x100050) == 0) = true := by decide +kernel

/-- The second region of the table, in the second tier of the context, is to be fetched; or nothing maps the destination. -/
theorem witness_FetchMakesItsRegionMove :
    let o : EnF := ⟨3, 0, 0, 0, 0, 0x400⟩
    let x := cpBase sEn cpS o 4
    let e := entry 0x20000 (hbm 0x100000) 0xC000 2
    let l := [(askSrc false, x.adr 0, 2 ^ e.lsz), (askDst false, x.adr 1, 1)]
    let s := modArch sEn 5 fun a => { a with tab := a.tab.filter (fun z => z.1 != 0) }
    slotOn sEn cpS = true ∧ (archOf sEn 5).cp.length < 8 ∧ (archOf sEn 5).task.isSome = true ∧ (shWord sEn 5 1 0).extractLsb' 48 16 = 0 ∧
    (shWord sEn 5 1 1).extractLsb' 48 16 = 0 ∧ lookupE (archOf sEn 5).tab (x.adr 1) = some (1, e) ∧ (rangesFault s 5 l).isSome = true ∧
    lookupE (archOf s 5).tab (x.adr 1) = some (1, e) ∧ (engRanges sEn cpS 5 l).toOption.isSome = true ∧
    x.hp = false ∧ (after (.cptFetch cpS o) sEn fun t => decide ((lookupE (archOf t 5).tab 0x20000).map (·.2.res) = some 2)) = true := by decide +kernel

/-- What a copy command of `sEn` comes to when bank 0 has format `n`: status and rows, if no end is ECW and the scales are there. -/
def cpComes (small : Bool) (n : Nat) (i : Instr) : Option (Nat × Nat × Bool) :=
  let s0 := cpAfter small i
  let s := modArch { s0 with mem := cellPut (cellPut [] (5 * 2 ^ 22 + 0x3000) 1) (5 * 2 ^ 22 + 0x3001) 1 } 5 fun a => { a with cp := a.cp.map (fun x => { x with fmts := x.fmts.map (fun f => (f.1, BitVec.ofNat 32 n)) }) }
  match (archOf s 5).cp with
    | [x] => let src := cpSrcSegs s 5 x
             let dst := cpDstSegs s 5 x
             let all := fun (l m : List CpSeg) => l.all (fun g => !g.converts m || g.scaled)
             some ((cpOut s 5 x).sts, (cpOut s 5 x).l.length, !namesEcw s 5 x && !anyEcw src && !anyEcw dst && all src dst && all dst src)
    | _ => none

/-- The status of a copy command of `sEn` without format registers. -/
def cpSts (i : Instr) : Option Nat := match (archOf (cpAfter false i) 5).cp with
  | [x] => some (cpOut { cpAfter false i with mem := [] } 5 { x with fmts := [] }).sts
  | _ => none

def cpO : EnF := ⟨3, 1, 0, 0, 11, 0⟩

theorem witness_FetchMakesItsRegionMove_moves :
    [cpComes false 1 (.cpy cpS cpO), cpComes true 1 (.cptOffload cpS { cpO with sa := 0 }), cpComes false 1 (.coll cpS cpO), cpComes false 1 (.coll cpS { cpO with prm := 0x200 }),
      cpComes false 1 (.cpf cpS cpO), cpComes false 8 (.cpy cpS cpO)] =
      [some (0, 1, true), some (0, 2, true), some (0, 1, true), some (0, 1, true), some (0, 2, true), some (1, 0, false)] := by decide +kernel

theorem witness_FetchMakesItsRegionMove_records :
    [cpComes false 1 (.cpg cpS cpO), cpComes false 1 (.cps cpS cpO)] = [some (0, 16, true), some (0, 16, true)] := by decide +kernel

theorem witness_FetchMakesItsRegionMove_gradients : cpComes false 1 (.cpc cpS cpO) = some (0, 2, true) := by decide +kernel

/-- No code table, and one of two codes of one bit. -/
theorem witness_FetchMakesItsRegionMove_symbols : cpSts (.cpz cpS cpO) = some 4 ∧ cpComes false 0 (.cpz cpS cpO) = some (0, 1, true) := by decide +kernel

/-- A matrix of 16 by 128 FP16 elements in HBM, a vector of 256 bytes in the own slice, results through h1. -/
theorem witness_StackProductIsAccepted :
    let o : EnF := ⟨3, 1, 0, 0, 0, 1 <<< 17⟩
    let w := shWord sEn 5 0
    slotOn sEn mxS = true ∧ (archOf sEn 5).smv.length < 4 ∧ badAddr (w 0) = false ∧ badAddr (w 5) = false ∧ (w 6).extractLsb' 32 32 = 0 ∧
    ((w 6).extractLsb' 16 16).toNat + 1 = 16 ∧ ((w 6).extractLsb' 0 16).toNat + 1 = 128 ∧
    (mxRange sEn mxS 5 (askSrc true) ((w 0 + rs sEn o.sa).toNat % 2 ^ 48) 256).toOption.map (·.1) = some 0 ∧
    rangesFault sEn 5 (smvAsks sEn 5 ((w 0 + rs sEn o.sa).toNat % 2 ^ 48) w 0 32 16 128 1) = none ∧ stackFault sEn 5 ((w 5).extractLsb' 0 48).toNat (16 * 128 * 16 / 8) = none ∧
    lookPa sEn 5 (askSrc false) ((w 5).extractLsb' 0 48).toNat = some (hbm 0x100000) ∧
    handleShut sEn 5 1 = false ∧ (engRanges sEn mxS 5 (handleAsks sEn 5 1 1)).toOption.isSome = true ∧ (archOf sEn 5).main.pipe.nest = none ∧ (List.range 4).all (fun i => ownsBank sEn 5 (sliceRow 0 5 i)) = true ∧
    (after (.smv mxS o) sEn fun t => (archOf t 5).smv.map (fun y => (y.n, y.k, y.b, y.vec.length)) == [(16, 128, hbm 0x100000, 4)]) = true := by decide +kernel

/-- The launch has declared bank 0 and does not own it, or bank 0 is one of the ECW format. -/
def sUnowned : State := modArch sEn 5 fun a => { a with decl := 1 }

theorem witness_StackProductIsAccepted_banks :
    let o : EnF := ⟨3, 1, 0, 0, 0, 1 <<< 17⟩
    let w := shWord sEn 5 0
    let e := modArch sEn 5 fun a => { a with bfmt := [(0, 8)] }
    rangesFault sUnowned 5 (smvAsks sUnowned 5 ((w 0 + rs sEn o.sa).toNat % 2 ^ 48) w 0 32 16 128 1) = none ∧ ownsBank sUnowned 5 (sliceRow 0 5 0) = false ∧
    (after (.smv mxS o) sUnowned fun t => (archOf t 5).smv.map (fun y => (y.bank.length, y.vec.length)) == [(4, 0)]) = true ∧
    (after (.smv mxS o) e fun t => (archOf t 5).smv.map (fun y => y.ferr) == [true]) = true ∧
    (after (.mma mxS ⟨3, 1, 2, 0, 0, 0x80⟩) sUnowned fun t => (archOf t 5).main.pipe.mx.all (fun x => !x.bank.isEmpty)) = true ∧
    (after (.txw txS ⟨3, 1, 0, 0, 0, 0⟩) sUnowned fun t => (archOf t 5).main.pipe.tx.all (fun x => !x.bank.isEmpty)) = true := by decide +kernel

/-- The other formats need the header words too: 8-bit elements, groups of 64. -/
theorem witness_StackProductIsAccepted_groups :
    let s := modArch sEn 5 fun a => { a with shd := tput a.shd 0 ((7, 0x22000) :: tget [] a.shd 0) }
    let o : EnF := ⟨3, 1, 0, 0, 0, (1 <<< 17) ||| (1 <<< 15) ||| (1 <<< 13)⟩
    badAddr (shWord s 5 0 7) = false ∧
    (engRange s mxS 5 (askSrc false) (shWord s 5 0 7).toNat (4 * (16 * 128 / 64))).toOption.map (·.1) = some (hbm 0x102000) ∧
    (after (.smv mxS o) s fun t => (archOf t 5).smv.map (fun y => (y.fmt.toNat, y.h)) == [(1, hbm 0x102000)]) = true := by decide +kernel

theorem witness_TransposeCommandsAreAccepted :
    let o : EnF := ⟨3, 1, 0, 0, 0, (3 <<< 14) ||| (7 <<< 7) ||| (1 <<< 5)⟩
    let w := shWord sEn 5 2
    slotOn sEn txS = true ∧ (w 2).extractLsb' 29 35 = 0 ∧ (w 2).extractLsb' 13 3 = 0 ∧ badAddr (w 0) = false ∧ badAddr (w 1) = false ∧
    ((w 2).extractLsb' 0 13).toNat = 1 ∧ ((w 2).extractLsb' 16 13).toNat = 1 ∧ txBusy (archOf sEn 5).main.pipe = false ∧ 8 * 2 ≤ 64 ∧ 4 * 2 ≤ 64 ∧
    (mxRange sEn txS 5 (askSrc true) ((w 0).extractLsb' 0 48).toNat (3 * 64 + 16)).toOption.map (·.1) = some 0 ∧
    (mxRange sEn txS 5 (askDst true) ((w 1 + rs sEn 0).extractLsb' 0 48).toNat (7 * 64 + 8)).toOption.map (·.1) = some 256 ∧
    latchWr (archOf sEn 5).main.pipe 0 = false ∧ nestLatch (archOf sEn 5).main.pipe 0 = false ∧
    (mxRange sEn txS 5 (askSrc true) ((w 0 + rs sEn 0).extractLsb' 0 48).toNat (127 * 64 + ((txwForm (rFmt (regOf sEn 5 0))).getD (0, 64)).2)).toOption.map (·.1) = some 0 ∧ latchRd (archOf sEn 5).main.pipe 0 = false ∧
    (access sEn 5 (askSrc true) (BitVec.ofNat 64 ((w 0 + rs sEn 0).extractLsb' 0 48).toNat)).toOption.isSome = true ∧
    (after (.txp txS o) sEn fun t => (archOf t 5).main.pipe.tx.map (fun x => (x.nr, x.nc, x.ew, x.done)) == [(4, 8, 16, 16)]) = true ∧
    (after (.txw txS ⟨3, 1, 0, 0, 0, 0⟩) sEn fun t => (archOf t 5).main.pipe.tx.map (fun x => (x.busy, x.done)) == [(128, 140)]) = true := by decide +kernel

/-- A transpose command of core 5 at an age, with what it has read. -/
def txAt (i : Instr) (f : TxCmd → TxCmd) (l : List CycPart) : State := match exec i (modArch sEn 5 fun a => { a with bfmt := [(0, 2), (1, 2)] }) with
  | .next t => modArch t 5 fun a => { a with main := { a.main with cyc := l, pipe := { a.main.pipe with tx := a.main.pipe.tx.map f } } }
  | _ => sEn

/-- The transpose of four rows of eight 16-bit elements: row 0 is due, or everything is read and it ends; so does a latch load. -/
theorem witness_TransposeCommandsAreAccepted_engine :
    let o : EnF := ⟨3, 1, 0, 0, 0, (3 <<< 14) ||| (7 <<< 7) ||| (1 <<< 5)⟩
    let buf : List (BitVec 4096) := [0x00020001, 4, 5, 6]
    let s := txAt (.txp txS o) (fun x => { x with age := 1 }) [.rows, .txEnds]
    let e := txAt (.txp txS o) (fun x => { x with age := x.done, buf := buf }) [.txEnds]
    let w := txAt (.txw txS ⟨3, 1, 0, 0, 0, 0⟩) (fun x => { x with age := x.done, buf := buf }) [.txEnds]
    let q := fun (s : State) => (strmOf s ⟨5, false⟩).pipe
    (q s).mx = [] ∧ (q s).tx.all (fun x => !x.ferr && (arrBad s 5 (strmOf s ⟨5, false⟩).mark (x.src + (x.age - 1) * x.sp) (cdiv (x.nc * x.ew) 512)).isNone) = true ∧
    (q e).tx.map (fun x => (x.ferr, x.ew, x.nr, x.nc, x.dp, x.dst)) = [(false, 16, 4, 8, 1, 256)] ∧ memWf e.mem = true ∧ e.flaws = [] ∧ (archOf e 5).reqs = [] ∧
    (q w).tx.map (fun x => (x.ferr, x.ew, x.txw)) = [(false, 16, true)] ∧
    (after (.rowStage 5) s fun t => (q t).tx.map (fun x => (x.buf.length, x.buf.head?.map (·.toNat % 2 ^ 16))) == [(1, some 0x0201)]) = true ∧
    (after (.engineCompletion 5 2) e fun t => [0, 1].map (fun j => rowAt t (5 * 2 ^ 22 + 64 * (256 + j)) % 2 ^ 64) == [0x0006000500040001, 2]) = true ∧
    (after (.engineCompletion 5 2) w fun t => (tget 0 (tget WLatch.idle (archOf t 5).w 0).rows 0).toNat % 2 ^ 64 == 0x0006000500040001) = true := by
  decide +kernel

/-- A number of bytes at an offset of a record. -/
def at_ (o v : Nat) : Nat := v * 256 ^ o

/-- A sound launch record: five tiles, stand copse 1 (cores 4 to 7), entry 0x10000, no handler, no waits, image 1 of context 1, with
further fields (R263). -/
def launchRec (more : Nat) : Nat :=
  at_ 0 0x10000 + at_ 8 (2 ^ 64 - 1) + at_ 16 5 + at_ 20 1 + at_ 24 1 + at_ 28 1 + at_ 32 1 + at_ 39 128 + at_ 40 2 +
    at_ 80 0xFFFF + at_ 88 0xFFFF + at_ 96 0xFFFF + at_ 104 0xFFFF + at_ 120 (2 ^ 60 + 1) + more

/-- Without increments. -/
def noInc : Nat := at_ 112 0xFFFF + at_ 116 0xFFFF

/-- The image that it names. -/
def image1 : Image :=
  { blocks := [0x10000], tmpl := [(0, [(0, entry 0x10000 (hbm 0x100000) 0xE000 1)]), (1, [(0, entry 0x10000 (hbm 0x100000) 0xE000 1)])], prods := [], bfmt := [] }

/-- Context 1 lives in a partition of all groves with weight 1; everything is ready. -/
def hubOn (s : State) : State :=
  let s1 := modCtx s 1 fun c => { c with state := 1, imgs := [(1, image1)], record := BitVec.ofNat 1024 (at_ 2 1 + at_ 48 1024 + at_ 72 2), next := 6 }
  { s1 with hub := { s1.hub with rdy := BitVec.allOnes 64, part := [(0, 0x800000000000FF10)] } }

def sTicket (r : Nat) : State := let s := hubOn s5; { s with mem := writeN s.mem (5 * 2 ^ 22) r (2 ^ 128 - 1) 128 }

theorem witness_LaunchLandsATicket :
    let s := sTicket (launchRec noInc)
    let s0 := sTicket 0
    let r : BitVec 1024 := arrRow s 5 s.ids (5 * 2 ^ 22 + 64) ++ arrRow s 5 s.ids (5 * 2 ^ 22)
    slotOn s smS = true ∧ reach s (askSrc true) (rs s 1) = some (5 * 2 ^ 22) ∧ reach s (askSrc true) (rs s 1 + 127) = some (5 * 2 ^ 22 + 127) ∧
    (rs s 1).extractLsb' 0 6 = 0 ∧ (ctxOf s 1).state = 1 ∧ allDone s s.focus = true ∧ missedTurn s (.intake 1) 5 = false ∧ (ctxOf s 1).intake < 64 ∧
    r = BitVec.ofNat 1024 (launchRec noInc) ∧ recWhy s 1 r = 0 ∧ (coreOf s 5).roll = [] ∧ (ctxOf s 1).next + 1 < 2 ^ 32 ∧ recWhy s0 1 0 = 1 ∧
    recWhy s 1 (BitVec.ofNat 1024 (launchRec noInc + at_ 80 (4096 - 0xFFFF + 0x10000))) ≠ 0 ∧
    adds (.launch smS ⟨7, 1, 0, 0, 0, 0, 0⟩) s = [(1, 2 ^ 63 + 7, 0)] ∧ adds (.launch smS ⟨7, 1, 0, 0, 0, 0, 0⟩) s0 = [(1, 2 ^ 32, 0)] ∧
    (after (.launch smS ⟨7, 1, 0, 0, 0, 0, 0⟩) s fun t => (nodeOf t 1 7).map (fun n => (n.st, n.src)) == some (.ready, .core 5 false)) = true := by
  decide +kernel

/-- The context is being torn down: the launch is discarded and counted. -/
theorem witness_LaunchLandsATicket_teardown :
    let s := modCtx (sTicket (launchRec noInc)) 1 fun c => { c with state := 2, tddev := 4 }
    slotOn s smS = true ∧ reach s (askSrc true) (rs s 1) = some (5 * 2 ^ 22) ∧ reach s (askSrc true) (rs s 1 + 127) = some (5 * 2 ^ 22 + 127) ∧ (ctxOf s 1).state = 2 ∧
    (after (.launch smS ⟨7, 1, 0, 0, 0, 0, 0⟩) s fun t => decide ((ctxOf t 1).tddev = 5 ∧ t.mem = s.mem ∧ t.cores = s.cores)) = true := by decide +kernel

/-! ### Witnesses: the parts of a counted cycle, tokens, launches and blocks -/

/-- Core 5 stands at a part of its open counted cycle with given operations. -/
def atCyc (e : CycPart) (p : Pipe → Pipe) : State := modStrm s5 s5.focus fun x => { x with cyc := [e, .step], pipe := p x.pipe }

/-- An accepted array command, by number of cycles since. -/
def mxCmd (op : MxOp) (opc : BitVec 8) (age : Nat) : MxCmd := { mxBase sEn mxS ⟨3, 1, 0, 0, 0, 0x80⟩ op opc 5 with rows := 3, rho := 8, age := age, ac := 1, ar := 4 }

/-- What every part leaves: the rest of the cycle. -/
def goesOn (s t : State) : Bool := decide ((strmOf t s5.focus).cyc = [.step] ∧ t.mem = s.mem ∧ t.hub = s.hub ∧ coreOf t 4 = coreOf s 4)

/-- Core 5 stands at a boundary with one operation. -/
def sDue (y : Flight) : State := modStrm s5 s5.focus fun x => { x with pipe := { x.pipe with ops := [y] } }

/-- What `CountedCycleParts` asks of a result or a landing due. -/
def dueAt (y : Flight) : Bool := let s := sDue y
  decide (atBound s ⟨5, false⟩ = true ∧ boundary s ⟨5, false⟩ = none ∧ (strmOf s ⟨5, false⟩).pipe.ops = [y] ∧ y.rem = 1 ∧ y.fpx = false ∧ y.dst = .s 4)

theorem witness_CountedCycleParts_lands :
    let y := { landing (.s 4) .word with rem := 1, got := true, val := 77 }
    let z := { y with got := false }
    dueAt y = true ∧ dueAt z = true ∧ y.landing = true ∧ y.bad = none ∧
    (after (.landing 5) (sDue y) fun t => decide ((strmOf t s5.focus).reg 4 = 77 ∧ (strmOf t s5.focus).reg 2 = 5 ∧ (strmOf t s5.focus).pipe.ops = [] ∧ t.mem = s5.mem)) = true ∧
    (after (.landing 5) (sDue z) fun t => decide ((strmOf t s5.focus).s = (strmOf s5 s5.focus).s ∧ (strmOf t s5.focus).pipe.ops.map (·.late) = [true])) = true := by
  decide +kernel

/-- An operation that raised inexact, its trap not enabled. -/
theorem witness_CountedCycleParts_writes :
    let y := { mkFlight s5 sc 0x10 (.s 4) 77 mask64 4 1 .none with rem := 1 }
    dueAt y = true ∧ y.landing = false ∧ raisesTrap y.flags y.en = false ∧ atPart (sDue y) 5 .writes = none ∧
    (after (.writeBack 5) (sDue y) fun t => decide ((strmOf t s5.focus).reg 4 = 77 ∧ (strmOf t s5.focus).reg 2 = 5 ∧ (strmOf t s5.focus).pipe.ops = [] ∧
      (archOf t 5).fpc = flagsInFpc 1)) = true := by decide +kernel

theorem witness_CountedCycleParts_rows :
    let y := mxCmd .mzr 4 19
    let s := modArch (atCyc .rows fun p => { p with mx := [y] }) 5 fun a => { a with acc := [(1, [(4, ⟨true, 9⟩), (5, ⟨true, 9⟩), (7, ⟨true, 9⟩)])] }
    (strmOf s ⟨5, false⟩).cyc.head? = some .rows ∧ (strmOf s ⟨5, false⟩).pipe.mx = [y] ∧ (strmOf s ⟨5, false⟩).pipe.tx = [] ∧ y.op = .mzr ∧ y.ferr = false ∧
    dueRows y = [0, 1, 2] ∧
    (after (.rowStage 5) s fun t => goesOn s t && decide ((List.range 4).map (fun i => accRow t 5 1 (4 + i)) = [⟨false, 0⟩, ⟨false, 0⟩, ⟨false, 0⟩, ⟨true, 9⟩])) = true := by
  decide +kernel

/-- With a record and without. -/
theorem witness_CountedCycleParts_ends :
    let e := (mxCmd .mma 2 0).d + (mxCmd .mma 2 0).span
    let y := { mxCmd .mma 2 e with next := 3 }
    let s := atCyc .ends fun p => { p with mx := [y] }
    let z := atCyc .ends fun p => { p with mx := [{ y with ce := false }] }
    (strmOf s ⟨5, false⟩).cyc.head? = some .ends ∧ (strmOf s ⟨5, false⟩).pipe.mx = [y] ∧ (strmOf s ⟨5, false⟩).pipe.nest = none ∧ mxEnds y = true ∧ y.sub = false ∧
    y.ce = true ∧ (archOf s 5).evq.length < 32 ∧ (strmOf s ⟨5, false⟩).flag 3 = false ∧
    (after (.engineCompletion 5 0) s fun t => goesOn s t && decide ((strmOf t s5.focus).flag 3 = true ∧ (strmOf t s5.focus).pipe.mx = []) &&
      (archOf t 5).evq.map (fun r => (r.hdr.extractLsb' 48 8, r.hdr.extractLsb' 0 32, r.pay.extractLsb' 54 8, r.pay.extractLsb' 50 4)) == [(1, BitVec.ofNat 32 y.num, 2, 0)]) = true ∧
    (after (.engineCompletion 5 0) z fun t => goesOn z t && decide ((strmOf t s5.focus).flag 3 = true ∧ (archOf t 5).evq = [])) = true := by decide +kernel

/-- The fourth cycle of the regulator moves it one code towards its target, the third does not. -/
theorem witness_CountedCycleParts_step :
    let g := fun (n : Nat) => modArch (atCyc .step id) 5 fun a => { a with regCyc := n, vcode := 20, regTgt := effCode (mergedPt a.clr.pt) a.clr.nom (envOf s5 5) }
    (archOf (g 3) 5).clr.on = false ∧ (strmOf (g 3) ⟨5, false⟩).cyc.head? = some .step ∧
    (archOf (g 3) 5).regTgt = effCode (mergedPt (archOf (g 3) 5).clr.pt) (archOf (g 3) 5).clr.nom (envOf (g 3) 5) ∧ (archOf (g 3) 5).regTgt = 15 ∧
    (after (.regulatorStep 5) (g 3) fun t => goesOn (g 3) t && decide ((archOf t 5).vcode = 19 ∧ (archOf t 5).regCyc = 0)) = true ∧
    (after (.regulatorStep 5) (g 2) fun t => decide ((archOf t 5).vcode = 20 ∧ (archOf t 5).regCyc = 3)) = true := by decide +kernel

/-- A repeat of `mzr` and a nest stand before their next command, the words of their command held with them. -/
def sRep (n : Nat) : State :=
  let r : Rep := { slot := mxS, opc := 4, o := ⟨3, 0, 0, 0, 0, 0x80⟩, j := 1, left := n, fz := false, rm := 0, en := 0, pc := 0x1000, base := 0
                   set := tget [] (archOf sEn 5).shd 0 }
  modStrm sEn s5.focus fun x => { x with pipe := { x.pipe with rep := some r } }

def sNestRun : State :=
  let n : Nest := { slot := mxS, o := ⟨3, 0, 0, 0, 0, 0x40⟩, idx := [0, 0, 0, 0, 0, 0], pos := 0, tail := false, base := 0, fz := false, rm := 0, en := 0, set := tget [] (archOf sEn 5).shd 0
                    pc := 0x1000, num := 0, nsat := 0, ninv := 0, ninx := 0, ferr := false }
  modStrm sEn s5.focus fun x => { x with pipe := { x.pipe with nest := some n } }

/-- What a core asks for before a continuation. -/
def free5 (s : State) : Bool := mayAct s ⟨5, false⟩ && (boundary s ⟨5, false⟩).isNone && (strmOf s ⟨5, false⟩).contd.isNone && !(strmOf s ⟨5, false⟩).resto

theorem witness_CountedCycleParts_repeat :
    let p := atBoundary (sRep 2) ⟨5, false⟩
    free5 (sRep 2) = true ∧ free5 (sRep 1) = true ∧
    (planMx p mxS 5 (mxBase p mxS ⟨3, 0, 0, 0, 0, 0x80⟩ .mzr 4 5) (mxAsk .mzr ⟨3, 0, 0, 0, 0, 0x80⟩ (fun n => tget 0 (tget [] (archOf sEn 5).shd 0) n) 0 1)).toOption.isSome = true ∧
    repOp 4 = .mzr ∧
    (after (.repeatIteration 5) (sRep 2) fun t => decide ((strmOf t s5.focus).pipe.mx.map (·.op) = [.mzr] ∧ (strmOf t s5.focus).pipe.rep.map (fun r => (r.j, r.left)) = some (2, 1) ∧
      (strmOf t s5.focus).contd = some 8 ∧ tget 0 (archOf t 5).nacc 0 = 1)) = true ∧
    (after (.repeatIteration 5) (sRep 1) fun t => decide ((strmOf t s5.focus).pipe.rep = none)) = true := by decide +kernel

theorem witness_CountedCycleParts_nest :
    let p := atBoundary sNestRun ⟨5, false⟩
    let cur := tget [] (archOf sEn 5).shd 0
    free5 sNestRun = true ∧ (strmOf sNestRun ⟨5, false⟩).pipe.rep = none ∧
    (match (strmOf sNestRun ⟨5, false⟩).pipe.nest with
      | some n => !n.tail && (nestSeq cur (n.o.prm.getLsbD 20) n.idx)[n.pos]? == some .mma &&
        (planMx p n.slot 5 { mxBase p n.slot n.o .mma 7 5 with cf := 0, ce := false, sub := true, pc := n.pc, fz := n.fz, rm := n.rm, en := n.en } (nestAsk cur n .mma)).toOption.isSome
      | none => false) = true ∧
    mxReady (strmOf sNestRun ⟨5, false⟩).pipe .mma 0 = true ∧ (archOf sNestRun 5).tok.stGot = true ∧
    (after (.nestCommand 5) sNestRun fun t => decide ((strmOf t s5.focus).pipe.mx.map (fun c => (c.op, c.sub)) = [(.mma, true)] ∧
      (strmOf t s5.focus).pipe.nest.map (·.tail) = some true ∧ (strmOf t s5.focus).contd = some 0)) = true := by decide +kernel

/-- The bank of its rows is declared and not yet the launch's: the command enters the engine and waits there. -/
theorem witness_CountedCycleParts_waits :
    let s := modArch sNestRun 5 fun a => { a with decl := 1 }
    let y := { mxCmd .mma 2 0 with bank := [sliceRow 0 5 0] }
    let z := mxCmd .mzr 4 7
    let u := { mxCmd .mzr 4 0 with wait := 2 }
    let w := modArch (atCyc .ends fun p => { p with mx := [z, y, z] }) 5 fun a => { a with decl := 1 }
    let v := atCyc .ends fun p => { p with mx := [u, y] }
    free5 s = true ∧ ownsBank s 5 (sliceRow 0 5 0) = false ∧ ownsBank w 5 (sliceRow 0 5 0) = false ∧ ownsBank v 5 (sliceRow 0 5 0) = true ∧
    (strmOf w ⟨5, false⟩).cyc.head? = some .ends ∧ [y, z, u].all (fun x => !mxEnds x) = true ∧
    (after (.nestCommand 5) s fun t => (strmOf t ⟨5, false⟩).pipe.mx.all (fun c => c.bank.contains (sliceRow 0 5 0))) = true ∧
    (after (.engineCompletion 5 0) w fun t => (strmOf t ⟨5, false⟩).pipe.mx.map (fun c => (c.age, c.lag)) == [(8, 0), (0, 1), (7, 1)]) = true ∧
    (after (.engineCompletion 5 0) v fun t => (strmOf t ⟨5, false⟩).pipe.mx.map (fun c => (c.age, c.wait, c.bank)) == [(0, 1, []), (1, 0, [])]) = true := by
  decide +kernel

/-- A result of latency 1 is written at the end of its cycle, and hides its latch from the earlier one that the coming boundary writes. -/
theorem witness_CountedCycleParts_latency1 :
    let z := { mkFlight s5 (va 0) 0x40 (.v 0 3) 9 (BitVec.allOnes 512) 0 1 .la with rem := 1 }
    let y := { mkFlight s5 (va 1) 0x40 (.v 0 4) 77 (BitVec.allOnes 512) 0 1 .la with rem := 0 }
    let s := atCyc .writes fun p => { p with ops := [z, y] }
    (strmOf s ⟨5, false⟩).cyc.head? = some .writes ∧ y.landing = false ∧ y.fpx = false ∧ z.rem ≠ 0 ∧ raisesTrap y.flags y.en = false ∧
    (after (.writeBack 5) s fun t => goesOn s t && (strmOf t ⟨5, false⟩).pipe.ops.map (fun x => (x.dst, x.hid)) == [(.v 0 3, BitVec.allOnes 512)]) = true := by
  decide +kernel

/-- A bundle awaits its compare with a request of its own; the registers it replaced. -/
def sRoll : State :=
  let e : QEnt := { id := 0, data := 7, src := 9, ctx := 1, node := 1, rel := false }
  let old := modArch (modStrm s5 s5.focus fun x => { x.setReg 4 99 with pc := 0xFFA }) 5 fun a => { a with q := [(2, { Queue.idle with ents := [e] })] }
  let s := modArch s5 5 fun a => { a with reqs := [{ req .store (hbm 0x100000) 8 0 0xFF 0 with stg := some 0 }] }
  putCore s 5 { coreOf s 5 with split := false, roll := [(0, 2, 0xFFA, archOf old 5)], seq := 1 }

/-- Core 5 asks for both kinds of token; rail 0 has granted nothing. -/
def sTok : State :=
  let s := modArch s5 5 fun a => { a with tok := { Tokens.none with clrReq := true, stReq := true } }
  { s with hub := { s.hub with htck := 9, tokq := [(0, false, 5, 3), (0, true, 5, 4)] } }

/-- An `smv` of 32 results by 32, its matrix and vector zero, one row free through h1. -/
def sSmv : State :=
  let x : SmvCmd := { num := 1, pc := 0, cf := 3, ce := false, hd := 1, fmt := 0, gs := 0, n := 32, k := 32, a := 0, b := hbm 0x100000, h := 0, made := 0, fz := false, ferr := false, bad := none
                      nsat := 0, ninv := 0, ninx := 0, vec := [0], wait := [], stg := none }
  modArch s5 5 fun a => { a with smv := [x] }

theorem witness_CompareTokensAndProduction :
    ((coreOf sRoll 5).roll.map (·.1) = [0] ∧
      (after (.lockstepCompare 5 true 0) sRoll fun t => decide ((coreOf t 5).roll = [] ∧ (archOf t 5).reqs.map (·.stg) = [none] ∧ strmOf t ⟨5, false⟩ = strmOf sRoll ⟨5, false⟩)) = true ∧
      (after (.lockstepCompare 5 false 0) sRoll fun t => decide ((coreOf t 5).roll = [] ∧ (archOf t 5).run = .stopped ∧ (strmOf t ⟨5, false⟩).reg 4 = 99 ∧ (strmOf t ⟨5, false⟩).pc = 0xFFA ∧
        ((archOf t 5).queue 2).ents.map (·.id) = [0])) = true) ∧
    (nextToken sTok 0 false = some (0, false, 5, 3) ∧ mayGrant sTok 0 false = true ∧ nextToken sTok 0 true = some (0, true, 5, 4) ∧ mayGrant sTok 0 true = true ∧
      (after (.clearingTokenGrant 0) sTok fun t => decide ((archOf t 5).tok = ⟨false, true, true, false⟩ ∧ t.hub.tokq = [(0, true, 5, 4)] ∧ tget [] t.hub.tokAt 0 = [(5, 9)])) = true ∧
      (after (.startTokenGrant 0) sTok fun t => decide ((archOf t 5).tok = ⟨true, false, false, true⟩ ∧ t.hub.tokq = [(0, false, 5, 3)] ∧ tget [] t.hub.tokAt 1 = [(5, 9)])) = true) ∧
    (memWf sSmv.mem = true ∧ (archOf sSmv 5).smv.length = 1 ∧ 0 < (handleOf (tget 0 (archOf sSmv 5).h 1)).free ∧ ownsBank sSmv 5 (handlePa sSmv 5 1 0) = true ∧
      (archOf sSmv 5).smv.all (fun y => !y.ferr && y.bad.isNone && (smvBad sSmv y).isNone && handleDst y.tab 5 (handlePa sSmv 5 1 0) == handlePa sSmv 5 1 0) = true ∧ 16 * (0 + 1) < 32 ∧
      (after (.handleRowProduced 5 0) sSmv fun t => decide ((handleOf (tget 0 (archOf t 5).h 1)).prd = 4 ∧ (archOf t 5).smv.map (·.made) = [1] ∧
        rowAt t (handlePa sSmv 5 1 0) = 0)) = true) := by decide +kernel


/-! ### Witnesses: blocks and launches -/

/-- Core 5 stands at 0x10100 in a block with two words there; queue 0 holds two entries. -/
def sCode (w0 w1 : Nat) (due : Due) : State :=
  let e : QEnt := { id := 0, data := 7, src := 9, ctx := 1, node := 2, rel := false }
  let s := modArch s5 5 fun a => { a with q := tput a.q 0 { Queue.idle with ents := [e, { e with id := 1 }] } }
  let s1 := modStrm s s5.focus fun x => { x with pc := 0x10100, due := due, blk := { x.blk with hdr := 0x10000, ext := 0x10200 } }
  { s1 with mem := writeN s1.mem (5 * 2 ^ 22 + 0x100) (w0 + w1 * 2 ^ 48) (2 ^ 12 - 1) 12 }

/-- Nothing keeps a stream from what is due. -/
def quietAt (s : State) (k : Sid) : Bool :=
  mayAct s k && (boundary s k).isNone && !(strmOf s k).resto && (ctxOf s (nodeIds s k.core).1).drops.isEmpty && !(strmOf s k).anyDue && s.upsets.isEmpty

/-- The header pops queue 0 and has no slot (R56, R60). -/
theorem witness_LaunchesAndBlocks_empty :
    let s := sCode 0x4000000 0 .bundle
    let k : Sid := ⟨5, false⟩
    quietAt s k = true ∧ emptyAt s k = true ∧
    (match fetchBundle s 5 0x10100 with
      | .ok b => b.slots.isEmpty && !badHeader s k b && !limiterHolds s k b && (waitHold (strmOf s k) b.hdr).isNone && !popsEmpty s k b.hdr && b.hdr.pop == 1
      | .error _ => false) = true ∧
    (archOf s 5).main.pipe.rep = none ∧ (archOf s 5).main.pipe.nest = none ∧ (strmOf s k).lc0 = 0 ∧ (strmOf s k).lc1 = 0 ∧ ((archOf s 5).queue 0).ring = none ∧
    (after (.emptyBundle k) s fun t => decide ((strmOf t k).ccnt = 1 ∧ (strmOf t k).pc = 0x10106 ∧ ((archOf t 5).queue 0).ents.map (·.id) = [1] ∧
      (strmOf t k).s = (strmOf s k).s ∧ t.mem = s.mem)) = true := by decide +kernel

/-- The block header of R64 with the descriptor of section 03: point 5, settle, three parcels. -/
theorem witness_LaunchesAndBlocks_entry :
    let s := sCode 0x1000000 0x35001D .header
    let k : Sid := ⟨5, false⟩
    quietAt s k = true ∧ (strmOf s k).due = .header ∧ (strmOf s k).resume = none ∧
    (match blockAt s 5 0x10100 with
      | .ok d => mergedPt 5 == mergedPt d.pt && d.stl && settled (archOf s 5) &&
        decide (clock2 (mergedPt d.pt) (ptCode d.pt.toNat) ≤ clock2 (mergedPt (strmOf s k).blk.pt) (archOf s 5).clr.posn) == false
      | .error _ => false) = true ∧
    (let u := modArch s 5 fun a => { a with tok := { Tokens.none with clrGot := true } }
     (archOf u 5).tok.clrGot = true ∧ quietAt u k = true ∧
     (after (.blockEntry k) u fun t => decide ((strmOf t k).pc = 0x1010C ∧ (strmOf t k).blk = { hdr := 0x10100, ext := 0x1011E, pt := 5, rrg := false } ∧
      (archOf t 5).clr.pt = 5 ∧ (archOf t 5).clr.nom = 23 ∧ (archOf t 5).clr.dep = 15 ∧ (archOf t 5).tok.clrGot = false)) = true) := by decide +kernel

/-- A node with a sound record, placed on copse 1. -/
def node5 (st : NodeState) (stand gone : List Nat) (more : Nat) : Node :=
  { node0 5 with record := BitVec.ofNat 1024 (launchRec more), st := st, stand := stand, begun := [], gone := gone }

/-- The task of a node of five tiles as logical core 1 of 4: tile 2 is its first. -/
theorem witness_LaunchesAndBlocks_task :
    let tk : Task := { ctx := 1, node := 2, alb := 0, aln := 0, hnd := none, ent := 0x10000, k := 1, c := 4, next := 2, left := 1, live := false }
    let s := modArch (modNode s5 1 2 fun _ => node5 .placed [4, 5, 6, 7] [] noInc) 5 fun a => { a with task := some tk }
    (archOf s 5).run = .running ∧ (archOf s 5).task = some tk ∧ tk.live = false ∧ 0 < tk.left ∧ (nodeOf s 1 2).isSome = true ∧
    (after (.taskEntry 5) s fun t => decide ((archOf t 5).task = some { tk with live := true } ∧ (strmOf t ⟨5, false⟩).pc = 0x10000 ∧
      [1, 5, 7, 8, 9, 31].map (strmOf t ⟨5, false⟩).reg = [2, 2, 1, 4, 0, 0] ∧ (archOf t 5).fpc = 0)) = true := by decide +kernel

/-- Context 1 holds node 2 ready, or placed on copse 1, and nothing runs. -/
def sNode (n : Node) : State :=
  let s := hubOn State.reset
  let s1 := modCtx s 1 fun c => { c with nodes := [(2, n)] }
  { s1 with hub := { s1.hub with rr := [(0, 1)], order := if n.st = .placed then [(5, [(1, 2)])] else [] } }

theorem witness_LaunchesAndBlocks_placement :
    let s := sNode (node5 .ready [] [] noInc)
    tget 0 s.hub.rr 0 % 16 = 1 ∧ Min.min 65536 (ndTiles (BitVec.ofNat 1024 (launchRec noInc))) = 5 ∧ s.hub.rdy.getLsbD 1 = true ∧ (candidate s 0 1).isSome = true ∧
    tget 0 (ctxOf s 1).defic 0 + 256 * recN (ctxOf s 1).record 2 1 = 256 ∧
    (after (.nodePlacement 0) s fun t => (nodeOf t 1 2).map (fun n => (n.st, n.stand)) == some (.placed, [4, 5, 6, 7]) && tget [] t.hub.order 7 == [(1, 2)] &&
      tget 0 t.hub.rr 0 == 2 && tget 0 (ctxOf t 1).defic 0 == 0 && !backlogged (ctxOf t 1) 0) = true := by decide +kernel

/-- A second node of the priority is ready: the context keeps what is left of its credit. -/
theorem witness_LaunchesAndBlocks_placement_backlog :
    let s := modCtx (sNode (node5 .ready [] [] noInc)) 1 fun c => { c with nodes := c.nodes ++ [(3, node5 .ready [] [] noInc)] }
    (candidate s 0 1).map (·.1) = some 2 ∧
    (after (.nodePlacement 0) s fun t => backlogged (ctxOf t 1) 0 && tget 0 (ctxOf t 1).defic 0 == 251) = true := by decide +kernel

theorem witness_LaunchesAndBlocks_start :
    let n := node5 .placed [4, 5, 6, 7] [] noInc
    let s := sNode n
    nextLaunch s 5 = some (1, 2) ∧ nodeOf s 1 2 = some n ∧ (archOf s 5).task = none ∧ (archOf s 5).run = .idle ∧ gated s 5 = false ∧ (ctxOf s 1).state = 1 ∧ startReady s 1 n = true ∧
    s.hub.rdy.getLsbD 8 = true ∧ recN n.record 34 1 = 0 ∧ ndTiles n.record / 4 = 1 ∧
    (after (.launchStart 5) s fun t => (archOf t 5).task.map (fun k => (k.k, k.c, k.next, k.left, k.aln)) == some (1, 4, 2, 1, 128) && (archOf t 5).run == .running &&
      (archOf t 5).tab.length == 1 && (nodeOf t 1 2).map (·.begun) == some [5]) = true := by decide +kernel

/-- Increments of 3 and 4 to counter 9, which stands two below its largest value. -/
theorem witness_LaunchesAndBlocks_completion :
    let n := node5 .placed [4, 5, 6, 7] [7, 6, 5, 4] (at_ 112 9 + at_ 114 3 + at_ 116 9 + at_ 118 4)
    let s := modCtx (sNode n) 1 fun c => { c with ctrs := [(9, 0xFFFFFFFD)] }
    nodeOf s 1 2 = some n ∧ n.st = .placed ∧ n.stand ≠ [] ∧ (∀ c ∈ n.stand, c ∈ n.gone) ∧ n.kill = none ∧ isChainNode n = false ∧ (ctxOf s 1).state = 1 ∧ n.late = [] ∧
    (after (.nodeCompletion 1 2) s fun t => decide (nodeOf t 1 2 = none ∧ tget 0 (ctxOf t 1).ctrs 9 = 0xFFFFFFFF ∧ tget 0 (ctxOf t 1).ctrs 8 = 0)) = true := by decide +kernel

/-- An `smv` has its last sixteen results to write, or a format error. -/
theorem witness_CompareTokensAndProduction_ends :
    let z := modArch sSmv 5 fun a => { a with smv := a.smv.map fun x => { x with made := 1, ce := true } }
    let e := modArch sSmv 5 fun a => { a with smv := a.smv.map fun x => { x with ferr := true } }
    (archOf sSmv 5).smv.all (fun y => y.bank.isEmpty && y.stg.isNone && y.wait.isEmpty) = true ∧ 32 ≤ 16 * (1 + 1) ∧ (archOf z 5).evq.length < 32 ∧
    (after (.handleRowProduced 5 0) z fun t => decide ((archOf t 5).smv = [] ∧ (strmOf t ⟨5, false⟩).flag 3 = true) && (archOf t 5).evq.length == 1) = true ∧
    (after (.handleRowProduced 5 0) e fun t => decide ((archOf t 5).smv = [] ∧ (archOf t 5).h = (archOf e 5).h ∧ (strmOf t ⟨5, false⟩).flag 3 = true)) = true := by decide +kernel

/-! ### Witnesses: messages, barriers, banks, publishes, residency -/

/-- A message from core 9 to core 5 on its way. -/
def netTo5 (m : Msg) : NetMsg := { src := 9, side := false, dst := 5, msg := m, wait := [], out := false, stg := none }
/-- `s5` with that message. -/
def sNet (m : Msg) : State := { s5 with net := [netTo5 m] }
/-- An entry from core 9. -/
def ent9 : QEnt := { id := 3, data := 7, src := 9, ctx := 1, node := 2, rel := false }

theorem witness_MessagesAndOrder_arrivals :
    let a := sNet (.push 3 ent9)
    let v := sNet (.push 7 { ent9 with src := 64 })
    let b := sNet (.pointer 1 true 5)
    let r : EvRec := { hdr := 0x8000000000000000, pay := 3 }
    let c := sNet (.event r)
    let d := modArch c 5 fun x => { x with evq := List.replicate 32 r, evdrop := 65535 }
    let e := modArch c 5 fun x => { x with evq := [r], lost := true }
    ([a, v, b, c, d, e].all fun s => s.net.all fun m => msgReady s 0 m && (saveFor s m).isNone) = true ∧ queueFull a 5 3 = false ∧ queueFull v 5 7 = false ∧
    queueShut ((archOf a 5).queue 3) (queueCap 3) = false ∧ ((archOf a 5).queue 3).prods = [] ∧ ((archOf a 5).queue 3).ring = none ∧
    (after (.queueArrival 0) a fun t => decide (t.net = [] ∧ ((archOf t 5).queue 3).ents = [ent9])) = true ∧
    (after (.queueArrival 0) v fun t => decide (((archOf t 5).queue 7).ents.map (·.src) = [64])) = true ∧
    (archOf b 5).main.cyc = [] ∧ (after (.handlePointerUpdate 0) (modArch b 5 fun x => { x with main := { x.main with cyc := [.step] } }) fun t => decide (t.net.length = 1)) = true ∧
    (after (.handlePointerUpdate 0) b fun t => decide ((handleOf (tget 0 (archOf t 5).h 1)).prd = 5 ∧ (handleOf (tget 0 (archOf t 5).h 1)).cns = 1 ∧ (archOf t 5).moved = [(1, true)])) = true ∧
    (after (.eventRecordArrival 0) c fun t => decide ((archOf t 5).evq = [r])) = true ∧
    (after (.eventRecordArrival 0) d fun t => decide ((archOf t 5).evq.length = 32 ∧ (archOf t 5).evdrop = 65535 ∧ (archOf t 5).lost = true)) = true ∧
    (after (.eventRecordArrival 0) e fun t => decide ((archOf t 5).evq.map (·.hdr) = [0x8000000000000000, 0xC000000000000000])) = true := by decide +kernel

/-- Core 5, the whole stand of its node, has arrived at barrier 2 of scope `GROVE` in its phase 9. -/
theorem witness_MessagesAndOrder_barrier :
    let b : Barrier := { ctx := 1, node := 2, scp := 3, id := 2, inst := 0, arr := [5] }
    let s := modArch s5 5 fun a => { a with arrv := [(3, 2, false)], phn := 9, aset := some [4] }
    let u := { s with hub := { s.hub with bars := [b] } }
    u.hub.bars[0]? = some b ∧ b.scp < 6 ∧ barFull u b = true ∧ u.hub.saves = [] ∧ b.arr.Nodup ∧ (∀ c ∈ b.arr, sweepHolds (archOf u c) = false) ∧
    (after (.barrierCompletion 0) u fun t => decide (t.hub.bars = [] ∧ (archOf t 5).phn = 10 ∧ (archOf t 5).aset = some [] ∧ (archOf t 5).arrv = [(3, 2, true)])) = true := by
  decide +kernel

/-- Bank 31 of core 5 is released and asked for by node 3; a tag of phase 1 is swept in phase 65, one of phase 2 stays. -/
theorem witness_MessagesAndOrder_banks :
    let s := modArch s5 5 fun a => { a with rlsd := 0x80000000, sweep := true, phn := 65 }
    let u := { s with hub := { s.hub with banks := [(160, [(1, 2)]), (191, [(1, 2), (1, 3)])] }, tags := [(5 * 2 ^ 16, 0x18), (5 * 2 ^ 16 + 1, 0x28), (6 * 2 ^ 16, 0x18)] }
    (31 : Nat) < 32 ∧ bankOwner u (32 * 5 + 31) = some (nodeIds u 5) ∧ (archOf u 5).rlsd.getLsbD 31 = true ∧ bankBusy u 5 31 = false ∧ (archOf u 5).sweep = true ∧
    (after (.bankOwnershipPass 5 31) u fun t => decide (tget [] t.hub.banks 191 = [(1, 3)] ∧ tget [] t.hub.banks 160 = [(1, 2)])) = true ∧
    (after (.raceTagSweep 5) u fun t => decide ((archOf t 5).sweep = false ∧ [5 * 2 ^ 16, 5 * 2 ^ 16 + 1, 6 * 2 ^ 16].map (tget 0 t.tags) = [0x10, 0x28, 0x18])) = true := by
  decide +kernel

/-- Region 2 of core 5's table is shadowed, on side 0; cores 4 and 9 of the context map it too; its shadow records stand in HBM. -/
def sShadow : State :=
  let e := entry 0x20000 (hbm 0x100000) 0xC080 2
  let s := modArch s5 5 fun a => { a with tab := tput a.tab 1 e }
  let tk := (archOf s 5).task
  let t4 : Arch := { Arch.idle with task := tk, tab := [(0, e)] }
  let u := putArch (putArch s 4 t4) 9 t4
  modCtx u 1 fun c => { c with shtb := BitVec.ofNat 56 (hbm 0x800000), shtn := 8 }

/-- A publish of scope `COPSE`, and one of scope `CORE`, stands before its broadcast. -/
def sPub (prm : BitVec 21) : State × CpCmd :=
  let x := { copyCmd sShadow 7 prm with phase := 2, w := [0, 0x20000, 1] }
  (modArch sShadow 5 fun a => { a with cp := [x] }, x)

theorem witness_MessagesAndOrder_publish :
    ([0x20000, 0x10000].all fun prm =>
      let s := (sPub prm).1
      let x := (sPub prm).2
      memWf s.mem && decide ((archOf s 5).cp = [x] ∧ x.phase = 2 ∧ x.flip = false ∧ x.pub = none ∧ s.hub.flips = [] ∧ 2 < (ctxOf s 1).shtn.toNat) &&
        decide ((pubEnts s 5 x).map (fun e => (e.reg, e.side)) = [(2, false)])) = true ∧
    flipTabs (sPub 0x20000).1 5 1 2 = [4, 5] ∧ flipTabs (sPub 0x10000).1 5 1 1 = [5] ∧
    (let sides := fun (t : State) => [(5, 1), (4, 0), (9, 0)].map fun (c, n) => (tget (entry 0 0 0 0) (archOf t c).tab n).side
     (after (.publishFlip (.table 5 5)) (sPub 0x10000).1 fun t => decide ((archOf t 5).cp.map (·.flip) = [true] ∧ t.hub.flips = [] ∧ sides t = [true, false, false] ∧
       readN t.mem (hbm 0x800000 + 64) 5 = 8 * 2 ^ 32)) = true ∧
     (after (.publishFlip (.table 5 4)) (sPub 0x20000).1 fun t => decide ((archOf t 5).cp.map (·.flip) = [false] ∧ t.hub.flips.map (·.todo) = [[5]] ∧ sides t = [false, true, false] ∧
       readN t.mem (hbm 0x800000 + 64) 5 = 0) &&
       (after (.publishFlip (.table 5 5)) t fun u => decide ((archOf u 5).cp.map (·.flip) = [true] ∧ u.hub.flips = [] ∧ sides u = [true, true, false] ∧
         readN u.mem (hbm 0x800000 + 64) 5 = 8 * 2 ^ 32))) = true ∧
     (archOf sShadow 9).task.isSome = true ∧ sShadow.hub.saves = [] ∧ ((tget (entry 0 0 0 0) (archOf sShadow 9).tab 0).w1.toNat % 2 ^ 56 = hbm 0x100000) ∧
     (after (.publishFlip (.arrive (hbm 0x100000) true 9)) sShadow fun t => decide (sides t = [false, false, true])) = true ∧
     (after (.publishFlip (.arrive (hbm 0x300000) true 9)) sShadow fun t => decide (sides t = [false, false, false])) = true) := by decide +kernel

/-- To moving, and back to resident with the driver's page request. -/
theorem witness_MessagesAndOrder_residency :
    let s0 := modCtx sShadow 1 fun c => { c with pages := [2, 3] }
    let s := { s0 with hub := { s0.hub with rdy := BitVec.allOnes 64 } }
    memWf s.mem = true ∧ regionUp s 1 2 = true ∧ regionUp s0 1 2 = false ∧ (after (.residencyChange 1 2 0) s0 fun t => decide (t = s0)) = true ∧
    (after (.residencyChange 1 2 2) s fun t => decide (([(5, 1), (4, 0), (9, 0)].map fun (c, n) => (tget (entry 0 0 0 0) (archOf t c).tab n).res) = [2, 2, 2] ∧
      readN t.mem (hbm 0x800000 + 64) 5 = 4 * 2 ^ 32 ∧ (ctxOf t 1).pages = [2, 3])) = true ∧
    (after (.residencyChange 1 2 0) s fun t => decide ((ctxOf t 1).pages = [3] ∧ (tget (entry 0 0 0 0) (archOf t 9).tab 0).res = 0)) = true := by decide +kernel

/-- A replaying context, whose log has one record of unit 77, has held an arrival there for its timeout of 10. -/
theorem witness_MessagesAndOrder_replay :
    let s0 := modCtx s5 1 fun c => { c with logm := 2, loge := 1, record := BitVec.ofNat 1024 (at_ 4 10), held := [(77, 5 * 2 ^ 14, 20, 2), (78, 0, 25, 2)] }
    let s := { s0 with hub := { s0.hub with htck := 30 }, mem := writeN s0.mem (canon 0) (77 * 2 ^ 64) 0xFFFF 16 }
    ((ctxOf s 1).held.find? (fun g => g.1 == 77 && decide (g.2.2.1 + replayLimit (ctxOf s 1) ≤ s.hub.htck.toNat))).isSome = true ∧ (nextRec s 1 2 77).isSome = true ∧
    (after (.replayTimeout 1 77) s fun t => decide (nextRec t 1 2 77 = none ∧ (ctxOf t 1).held.map (fun g => (g.1, g.2.1)) = [(77, 5 * 2 ^ 14), (78, 0)] ∧
      ∀ g ∈ (ctxOf t 1).held, 30 < g.2.2.1)) = true := by decide +kernel

/-- A `coll` step that has failed, with one retry allowed, and none left; a copy whose source lies behind second-tier port 0,
which is not up. -/
theorem witness_MessagesAndOrder_copies :
    let x := { copyCmd s5 6 0 with phase := 1, err := true, w := [0x10000, 0x20000, 16, 0, 0, 0, 0, 0, 2 ^ 32] }
    let s := modArch s5 5 fun a => { a with cp := [x] }
    let z := modArch s5 5 fun a => { a with cp := [{ x with tries := 1 }] }
    let y := { copyCmd s5 1 0 with w := [0x10000, 0x20000, 16], tab := [(0, entry 0x10000 (2 ^ 47) 0xC000 1), (1, entry 0x20000 (hbm 0x100000) 0xC000 2)] }
    let v0 := modArch s5 5 fun a => { a with cp := [y] }
    let v1 := { v0 with fab := { v0.fab with tdec := [(0, (0x8000000000000000, 0x1000001))] } }
    let v := { v1 with hub := { v1.hub with htck := 100000, fcfg := 0x186A000000000, rdy := 8 } }
    let p : Pkt := { hdr := 0, data := 0, core := 5, req := none, cmd := some x.num, refd := false, sent := false, gone := true, tick := 100 }
    let late := fun (n : Nat) =>
      let w := modArch s5 5 fun a => { a with cp := [{ x with err := false }] }
      { w with fab := { w.fab with retry := [p] }, hub := { w.hub with htck := BitVec.ofNat 64 n, fcfg := 0x186A000000000 } }
    stepFailed s 5 x = true ∧ stepFailed (late 100100) 5 { x with err := false } = true ∧ stepFailed (late 100099) 5 { x with err := false } = false ∧
    tierLost v (2 ^ 47) = some 0 ∧ Max.max y.tick 0 + (v.hub.fcfg.extractLsb' 32 32).toNat ≤ v.hub.htck.toNat ∧
    (archOf s 5).cp = [x] ∧ x.tries < ((x.word 8).extractLsb' 32 4).toNat ∧ x.opc = 6 ∧ x.phase = 1 ∧
    (after (.collStepFailure 5) s fun t => decide ((archOf t 5).cp.map (fun y => (y.tries, y.phase)) = [(1, 1)])) = true ∧
    (after (.collStepFailure 5) z fun t => decide ((archOf t 5).cp.map (fun y => (y.phase, y.sts)) = [(2, 5)])) = true ∧
    (archOf v 5).cp = [y] ∧ y.phase = 0 ∧ cpTierLost v 5 y = true ∧ y.opc = 1 ∧ y.pub = none ∧ y.prm.getLsbD 20 = false ∧ (archOf v 5).evq = [] ∧
    (after (.secondTierNoRoute 5) v fun t => decide ((archOf t 5).cp = [] ∧ (archOf t 5).evq.map (fun r => r.pay.extractLsb' 50 4) = [7])) = true := by decide +kernel


/-! ### Witnesses: contexts and queues -/

/-- A sound context record: partition 0, classes 0, a chain context, an error ring, a save area, completion records, two queues (R378). -/
def ctxRec : BitVec 1024 :=
  BitVec.ofNat 1024 (at_ 1 4 + at_ 2 1 + at_ 24 (hbm 0x1000000) + at_ 32 1024 + at_ 40 (hbm 0x2000000) + at_ 48 64 + at_ 56 (hbm 0x4000000) +
    at_ 64 (hbm 0x3000000) + at_ 72 2)

/-- The hub runs, context 1 stands on that record, and it has two queues: of launches, and of copies, each with one slot submitted. -/
def sCtx : State :=
  modCtx (hubOn s5) 1 fun c => { c with record := ctxRec, qs := [
    (0, { LQueue.reset with base := BitVec.ofNat 56 (hbm 0x5000000), en := true, head := 3, tail := 4, subs := 3 }),
    (1, { LQueue.reset with base := BitVec.ofNat 56 (hbm 0x6000000), en := true, kind := true, head := 127, tail := 0, subs := 127 })] }

/-- The slots stand in HBM. -/
def sSlots : State :=
  { sCtx with mem := writeN (writeN sCtx.mem (hbm 0x5000000 + 128 * 3) (launchRec noInc) (2 ^ 128 - 1) 128) (hbm 0x6000000 + 128 * 63) 0x1234 (2 ^ 128 - 1) 128 }

theorem witness_ContextsAndQueues_create :
    let s := modCtx sCtx 15 fun c => { c with record := ctxRec, ctrs := [(3, 4)], logack := 9 }
    memWf s.mem = true ∧ s.hub.halted = false ∧ (ctxOf s 15).state = 0 ∧ ctxRecOk s ctxRec = true ∧ partDefined s (recN ctxRec 0 1) = true ∧ chainHolders s < 4 ∧
    (after (.contextCreate 15 1) s fun t => decide ((ctxOf t 15).state = 1 ∧ (ctxOf t 15).chain = some Chain.fresh ∧ (ctxOf t 15).record = ctxRec ∧ (ctxOf t 15).ctrs = [] ∧ (ctxOf t 15).logack = 0 ∧
      ctxOf t 1 = ctxOf s 1)) = true ∧ (after (.contextCreate 15 2) s fun t => decide (t = s)) = true := by decide +kernel

theorem witness_ContextsAndQueues_slots :
    let s := sSlots
    (ctxOf s 1).state = 1 ∧ (queueOf s 1 0).en = true ∧ (65 - (queueOf s 1 0).head).toNat ≤ 64 ∧
    (after (.intakeWrite 1 0 65) s fun t => decide ((queueOf t 1 0).want = some 65 ∧ (queueOf t 1 0).tail = 4) &&
      decide (0 < recN ctxRec 72 1 ∧ (queueOf (takeIntake 1 t 0) 1 0).want = none ∧ (queueOf (takeIntake 1 t 0) 1 0).tail = 65)) = true ∧
    s.hub.rdy.getLsbD 1 = true ∧ recWhy s 1 (slotAt s (queueOf s 1 0) 3) = 0 ∧ (queueOf s 1 1).kind = true ∧
    (after (.slotConsume 1 0) s fun t => decide ((queueOf t 1 0).head = 4 ∧ (queueOf t 1 0).busy = [3] ∧
      (nodeOf t 1 7).map (fun n => (n.record, n.src, n.st, n.restart, n.stand)) = some (BitVec.ofNat 1024 (launchRec noInc), .host 0 3, .ready, false, []) ∧
      t.cores = s.cores ∧ t.mem = s.mem)) = true ∧
    (after (.slotConsume 1 1) s fun t => decide ((queueOf t 1 1).head = 0 ∧ (queueOf t 1 1).busy = [127] ∧ (queueOf t 1 1).copies = [(127, 0x1234)])) = true := by
  decide +kernel

/-- One row is copied, its counter rises to its largest value, and its completion record says 0x01. -/
theorem witness_ContextsAndQueues_copies :
    let r := BitVec.ofNat 1024 (at_ 0 (5 * 2 ^ 22) + at_ 8 (hbm 0x40) + at_ 16 64 + at_ 24 9 + at_ 26 5)
    let s := modQueue (modCtx sCtx 1 fun c => { c with ctrs := [(9, 0xFFFFFFFC)] }) 1 1 fun q => { q with copies := [(127, r)], busy := [127] }
    let a := canon (recN ctxRec 64 8 + 16 * (64 + 63))
    (queueOf s 1 1).copies = [(127, r)] ∧ (ctxOf s 1).state = 1 ∧ copyOk s 1 r = true ∧ (a + 16 ≤ canon (hbm 0x40) ∨ canon (hbm 0x40) + 64 ≤ a) ∧
    (after (.hubCopyComplete 1 1) s fun t => decide ((queueOf t 1 1).copies = [] ∧ (queueOf t 1 1).busy = [] ∧ rowAt t (hbm 0x40) = rowAt s (5 * 2 ^ 22) ∧
      readN t.mem a 16 = 0x0000007F000000000100000000000000 ∧ tget 0 (ctxOf t 1).ctrs 9 = 0xFFFFFFFF)) = true ∧
    (after (.eventCounterWrite 1 9 3) s fun t => decide (tget 0 (ctxOf t 1).ctrs 9 = 0xFFFFFFFF ∧ tget 0 (ctxOf t 1).ctrs 8 = 0)) = true ∧
    (after (.eventCounterWrite 1 9 2) s fun t => decide (tget 0 (ctxOf t 1).ctrs 9 = 0xFFFFFFFE)) = true := by decide +kernel

/-- A copy need not begin at a row: bytes 6 and 7 of the slice's first sixteen come to the third byte of a row (R383). -/
theorem witness_ContextsAndQueues_copies_bytes :
    let r := BitVec.ofNat 1024 (at_ 0 (5 * 2 ^ 22 + 5) + at_ 8 (hbm 0x43) + at_ 16 64 + at_ 24 9)
    let s := modQueue sCtx 1 1 fun q => { q with copies := [(127, r)], busy := [127] }
    copyOk s 1 r = true ∧ (after (.hubCopyComplete 1 1) s fun t => decide (readN t.mem (canon (hbm 0x43)) 2 = 0x0706 ∧ cellAt t.mem (canon (hbm 0x42)) = cellAt s.mem (canon (hbm 0x42)))) = true := by
  decide +kernel

theorem witness_ContextsAndQueues_preemption :
    let s := sCtx
    let u := modArch (modNode s 1 2 fun n => { n with st := .stopped }) 5 fun a => { a with preq := [.prs, .gate] }
    (nodeOf s 1 2).map (·.st) = some .placed ∧ (nodeOf u 1 2).map (·.st) = some .stopped ∧
    (after (.preemptNode 1 2) s fun t => decide ((nodeOf t 1 2).map (·.st) = some .stopped ∧ SaveCause.prs ∈ (archOf t 5).preq)) = true ∧
    (after (.resumeNode 1 2) u fun t => decide ((nodeOf t 1 2).map (·.st) = some .placed ∧ (archOf t 5).preq = [.gate])) = true := by decide +kernel

/-- Node 3 of priority 0 has waited 100 µs for core 5, whose node has priority 2. -/
theorem witness_ContextsAndQueues_priority :
    let s := modNode (modCtx sCtx 1 fun c => { c with nodes := c.nodes ++ [(3, { node0 5 with begun := [], stand := [4, 5], waits := some 0 })] }) 1 2 fun n =>
      { n with record := BitVec.ofNat 1024 (at_ 35 2) }
    let u := { s with hub := { s.hub with htck := 100000 } }
    (nodeOf u 1 3).map (·.waits) = some (some 0) ∧ 0 + 100000 ≤ u.hub.htck.toNat ∧ waitsFor u 5 (1, 3) = true ∧ priOf u 1 2 = 2 ∧
    (after (.priorityPreemption 1 3) u fun t => decide ((archOf t 5).preq = [.priority 1 3] ∧ t.mem = u.mem)) = true := by decide +kernel

theorem witness_ContextsAndQueues_containment :
    let w := fun (n : Node) => modNode sCtx 1 2 fun _ => n
    let a := w { node0 5 with kill := some (24, true) }
    let b := w { node0 5 with kill := some (24, false), restart := false }
    let c := w { node0 5 with kill := some (24, false), reruns := 1 }
    (ctxOf a 1).state = 1 ∧ nodeDrained a 1 2 = true ∧ nodeDrained b 1 2 = true ∧ nodeDrained c 1 2 = true ∧
    (after (.containment 1 2) a fun t => decide (nodeOf t 1 2 = none ∧ (archOf t 5).run = .idle ∧ (archOf t 5).task = none)) = true ∧
    (after (.containment 1 2) b fun t => decide ((ctxOf t 1).state = 2)) = true ∧
    (after (.containment 1 2) c fun t => decide ((nodeOf t 1 2).map (fun n => (n.st, n.reruns, n.stand, n.kill)) = some (.ready, 2, [], none) ∧
      (archOf t 5).run = .idle ∧ (archOf t 5).task = none)) = true := by decide +kernel

theorem witness_ContextsAndQueues_teardown :
    let s := modCtx sCtx 1 fun c => { c with ctrs := [(3, 4)], chain := some Chain.fresh, nodes := c.nodes ++ [(3, { node0 5 with st := .waiting, stand := [], begun := [] })] }
    let u := modCtx s 1 fun c => { c with state := 2 }
    (ctxOf s 1).state = 1 ∧ (ctxOf u 1).state = 2 ∧ (∀ c ∈ coresOfCtx u 1, drained u c = true) ∧
    (after (.teardown 1) s fun t => decide ((ctxOf t 1).state = 2 ∧ (ctxOf t 1).chain = none ∧ (ctxOf t 1).ctrs = [] ∧ (ctxOf t 1).nodes.map (·.1) = [2] ∧
      (archOf t 5).run = .stopped ∧ (archOf t 5).cp = [])) = true ∧
    (after (.teardownComplete 1) u fun t => decide ((ctxOf t 1).state = 0 ∧ (ctxOf t 1).nodes = [] ∧ (archOf t 5).run = .idle ∧ (archOf t 5).task = none)) = true := by
  decide +kernel

/-- Core 9 is free and holds an image of a launch of node 2 with one byte of a kept bank. -/
theorem witness_ContextsAndQueues_restore :
    let v : Save := { core := 9, ctx := 1, node := 2, arch := archOf sCtx 5, causes := [], holds := [], split := false, mem := [(9 * 2 ^ 22 + 5, 7)], tags := [], bad := none }
    let s := modNode { sCtx with hub := { sCtx.hub with saves := [v], order := [(9, [(1, 2)])] } } 1 2 fun n => { n with stand := [5, 9] }
    (archOf s 9).task = none ∧ gated s 9 = false ∧ nextRestore s 9 = some v ∧ v.bad.or (savedBad s 1 9) = none ∧
    (after (.restore 9) s fun t => decide ((archOf t 9).task = v.arch.task ∧ (archOf t 9).run = .running ∧ (archOf t 9).main = { v.arch.main with resto := true } ∧
      (archOf t 9).tab = v.arch.tab ∧ (coreOf t 9).split = v.split ∧ t.hub.saves = [] ∧ cellAt t.mem (9 * 2 ^ 22 + 5) = 7 ∧ coreOf t 5 = coreOf s 5)) = true := by decide +kernel

theorem witness_ContextsAndQueues_log :
    let s := modCtx sCtx 1 fun c => { c with logpos := 40, logack := 8 }
    (ctxOf s 1).logack ≤ 24 ∧ 24 ≤ (ctxOf s 1).logpos ∧ (after (.logAcknowledgment 1 24) s fun t => decide ((ctxOf t 1).logack = 24)) = true := by decide +kernel

/-! ### Witnesses: the chain sequencer -/

/-- A table of two entries of kind 0 that need 2 units of counter 9 and one slot; the second takes 3 of the stash. Counter 9 holds
5 units, one slot is free, and the records stand in HBM. -/
def chain0 (go : Bool) : Chain :=
  let e (sdl : Nat) := BitVec.ofNat 128 (sdl * 2 ^ 64 + 1 * 2 ^ 56 + 2 * 2 ^ 40 + 9 * 2 ^ 32 + 7 * 2 ^ 16)
  { Chain.fresh with w0 := 0x0002000000010004, w8 := if go then 1 else 0, crec := BitVec.ofNat 64 (hbm 0x7000000), dfree := 1, why := 2
                     rdy := [(9, 5)], ents := [(0, e 0), (1, e 3)], bub := [(1, 0x00000000FFFFFFFFFF)] }

/-- The chain context of context 1 alone, in the hub of `sCtx`. -/
def sChain (c : Chain) : State := modCtx sCtx 1 fun x => { x with chain := some c }

/-- The record of its entries stands in HBM. -/
def withRec (s : State) : State := { s with mem := writeN s.mem (hbm 0x7000000) (launchRec noInc) (2 ^ 128 - 1) 128 }

/-- The chain context after an event. -/
def chainTo (i : Instr) (s : State) (g : Chain → Bool) : Bool := after i s fun t => decide (t.mem = s.mem) && match (ctxOf t 1).chain with
  | some d => g d
  | none => false

theorem witness_ChainSequencer_tick :
    let a := withRec (sChain (chain0 true))
    let b := sChain { chain0 true with rdy := [(9, 1)] }
    let c := sChain (chain0 false)
    let e := (chain0 true).ent 0
    a.hub.rdy.getLsbD 2 = true ∧ a.hub.ctxs = [(1, ctxOf a 1)] ∧ (ctxOf a 1).sigs = [] ∧ waitReason (ctxOf a 1) (chain0 true) = 0 ∧
    waitReason (ctxOf b 1) { chain0 true with rdy := [(9, 1)] } = 1 ∧ enKind e ≠ 3 ∧ paPkg (entryRec (chain0 true) e) = a.pkg.toNat ∧
    storageOk a (entryRec (chain0 true) e) = true ∧ storageOk a (entryRec (chain0 true) e + 64) = true ∧
    recWhy a 1 (BitVec.ofNat 1024 (readN a.mem (canon (entryRec (chain0 true) e)) 128)) = 0 ∧ (chain0 true).cur + 1 < (chain0 true).ccnt ∧
    chainTo .chainTick a (fun d => decide (d.cur = 1 ∧ d.open_ = [(0, 0, 7)] ∧ d.rdy = [(9, 3)] ∧ d.dfree = 0)) = true ∧
    (after .chainTick a fun t => decide ((nodeOf t 1 7).map (fun n => (n.src, n.word)) = some (.chain 0, some 0xFFFFFFFF00000007))) = true ∧
    chainTo .chainTick b (fun d => decide (d.why = 1 ∧ d.cur = 0 ∧ tget 0 d.bub 1 = 0x1FFFFFFFFFF)) = true ∧
    chainTo .chainTick c (fun d => decide (d = { chain0 false with why := 7 })) = true := by decide +kernel

/-- Nothing of the tick is outstanding, and what this tick has raised is taken back with it (R344, R350). -/
def idleHub (s : State) : Bool :=
  s.hub.tokq.isEmpty && s.hub.ctxs.all (fun y => y.2.rose.isEmpty && y.2.qs.all fun q => q.2.want.isNone) && s.can.tgts.isEmpty && s.can.mres1.isNone &&
    (List.range 64).all (fun i => !(isltOf s i).getLsbD 6) && !s.can.due && !s.can.read && s.can.islt.isEmpty

/-- Entry 0 is of kind X: it needs 2 units, which the counter held before this tick, and one slot. A device whose sequencer is not ready. -/
theorem witness_ChainSequencer_tick_x :
    let c := { chain0 true with ents := [(0, BitVec.ofNat 128 (1 * 2 ^ 56 + 2 * 2 ^ 40 + 9 * 2 ^ 32 + 3))], ups := [(9, 3)], dup := 0 }
    let s := sChain c
    let off := { s with hub := { s.hub with rdy := 0 } }
    let e := c.ent c.cur
    idleHub s = true ∧ idleHub (sChain (chain0 true)) = true ∧ waitReason (ctxOf s 1) c = 0 ∧ enKind e = 3 ∧ enSdl e = 0 ∧ wf e 88 2 = 0 ∧ c.hup = false ∧ c.cur + 1 < c.ccnt ∧
    chainTo .chainTick s (fun d => decide (d.cur = 1 ∧ d.go = true ∧ d.open_ = [] ∧ d.dfree = 0 ∧ d.rdy = [(9, 3)] ∧ d.ups = [])) = true ∧
    off.hub.rdy.getLsbD 2 = false ∧ chainTo .chainTick off (fun d => decide (d = { c with ups := [], dup := 0 })) = true := by decide +kernel

/-- Node 2 came from entry 1 of the walk and has left its core; its entry signals 4 units to counter 9 and takes 3 off the stash. -/
theorem witness_ChainSequencer_complete :
    let f := BitVec.ofNat 128 (3 * 2 ^ 88 + 4 * 2 ^ 80 + 9 * 2 ^ 72 + 0xFD * 2 ^ 64 + 1)
    let c := { chain0 true with w0 := 0x0002000000000004, cur := 2, stash := 3, open_ := [(1, 1, 2)], ents := [(1, f)] }
    let n := { node5 .placed [5] [5] noInc with src := .chain 1 }
    let s := modNode (sChain c) 1 2 fun _ => n
    nodeOf s 1 2 = some n ∧ n.st = .placed ∧ n.stand ≠ [] ∧ (∀ k ∈ n.stand, k ∈ n.gone) ∧ n.kill = none ∧ isChainNode n = true ∧ (ctxOf s 1).state = 1 ∧ n.late = [] ∧
    c.open_.find? (fun y => y.2.2 == 2) = some (1, 1, 2) ∧ enSdl (c.ent 1) = -3 ∧ wf (c.ent 1) 88 2 = 3 ∧ c.hup = false ∧
    chainTo (.chainEntryComplete 1 2) s (fun d => decide (d.open_ = [] ∧ d.stash = 0 ∧ d.sdn = 3 ∧ d.rdy = [(9, 9)] ∧ d.cur = 2)) = true ∧
    (after (.chainEntryComplete 1 2) s fun t => decide (nodeOf t 1 2 = none)) = true := by decide +kernel

theorem witness_ChainSequencer_arrivals :
    let s := sChain (chain0 true)
    let u := sChain { chain0 true with rdy := [(9, 0xFFFFFFFF)], dfree := 65535 }
    chainTo (.chainNotification 1 9 0xFFFF) s (fun d => decide (d.rdy = [(9, 0x10004)] ∧ d.w8 = 1)) = true ∧
    chainTo (.chainNotification 1 9 1) u (fun d => decide (d.rdy = [(9, 0xFFFFFFFF)] ∧ d.go = false ∧ d.cerr = 0x8000000000003000)) = true ∧
    chainTo (.slotReturn 1 65534) s (fun d => decide (d.dfree = 65535 ∧ d.w8 = 1)) = true ∧
    chainTo (.slotReturn 1 1) u (fun d => decide (d.dfree = 65535 ∧ d.go = false ∧ d.cerr = 0x8000000000004000)) = true := by decide +kernel

theorem witness_ChainSequencer_walk :
    let c := { chain0 false with cslot := 6, adv := some 5 }
    let s := sChain c
    let u := { s with hub := { s.hub with rdy := 0 } }
    let b := sChain { c with w0 := 0 }
    s.hub.rdy.getLsbD 2 = true ∧ u.hub.rfl.getLsbD 2 = false ∧ tableBad c = none ∧ c.hup = false ∧ tableBad { c with w0 := 0 } = some 0 ∧
    chainTo (.chainGo 1) s (fun d => decide (d.go = true ∧ d.cur = 0 ∧ d.cpass = 1 ∧ d.adv = some 6)) = true ∧
    chainTo (.chainGo 1) b (fun d => decide (d.go = false ∧ d.cerr = 0x8000000000005000)) = true ∧
    chainTo (.chainGo 1) u (fun d => decide (d = { c with goHeld := true })) = true ∧
    chainTo (.chainStop 1) (sChain (chain0 true)) (fun d => decide (d.go = false ∧ d.rdy = [(9, 5)])) = true ∧
    chainTo (.cslotWrite 1 5) s (fun d => decide (d.cslot = 5)) = true ∧
    chainTo (.cslotWrite 1 4) s (fun d => decide (d.cslot = 6 ∧ d.cerr = 0x8000000000007000)) = true ∧
    chainTo (.cslotWrite 1 7) (sChain { c with w8 := 1 }) (fun d => decide (d.cslot = 6 ∧ d.go = true ∧ d.cerr = 0x8000000000006000)) = true := by decide +kernel

theorem witness_ChainSequencer_registers :
    let s := sChain (chain0 false)
    let g := sChain (chain0 true)
    chainTo (.smaxWrite 1 200) s (fun d => decide (d.smax = 200)) = true ∧
    chainTo (.chainRegisterWrite 1 0x10 0xFFFFFFFFFFFFFFFF) s (fun d => decide (d.crec = 0x00FFFFFFFFFFFF80)) = true ∧
    chainTo (.chainRegisterWrite 1 0x10 0) g (fun d => decide (d.crec = (chain0 true).crec ∧ d.cerr = 0x8000000000006000)) = true ∧
    chainTo (.chainRegisterWrite 1 8 0x500000003) s (fun d => decide (d.w8 = 0x500000002)) = true ∧
    chainTo (.chainRegisterWrite 1 0xBF8 0x700000008) s (fun d => decide (tget 0 d.rdy 255 = 8 ∧ tget 0 d.rdy 9 = 5)) = true ∧
    chainTo (.chainRegisterWrite 1 0x1000 5) s (fun d => decide (d.ent 0 = 5 ∧ d.ent 1 = (chain0 false).ent 1)) = true := by decide +kernel

/-! ### Witnesses: the fabric -/

/-- Port 3 in a state of R400, of a width, with the route of package 9 over it; the hub runs. -/
def sPort (st wid : Nat) : State :=
  let q := { Port.off with reg := BitVec.ofNat 64 (0x800001 + st * 2 ^ 8 + wid * 2 ^ 16), txseq := 4095, rxseq := 7, credit := 2 }
  { sCtx with fab := { sCtx.fab with ports := [(3, q)], rt := [(9, 0x8000000000000083)] } }

/-- Nothing stands at the fabric. -/
def fabEmpty (s : State) : Bool := s.fab.out.isEmpty && s.fab.retry.isEmpty

theorem witness_FabricAndTier_ports :
    let st := fun (t : State) => (pst t 3, ((portOf t 3).reg.extractLsb' 16 2).toNat, (portOf t 3).credit)
    ([sPort 1 0, sPort 2 3, sPort 2 1, sPort 3 2].all fun s => memWf s.mem && fabEmpty s && decide ((portOf s 3).reg.extractLsb' 20 4 = 8)) = true ∧
    [pst (sPort 1 0) 3, pst (sPort 2 3) 3, pst (sPort 3 2) 3] = [1, 2, 3] ∧
    (after (.portEnable 63) (sPort 2 3) fun t => decide (pst t 63 = 1 ∧ (portOf t 63).reg = 0x800101)) = true ∧
    (after (.portEnable 3) (sPort 2 3) fun t => decide (st t = (1, 0, 0) ∧ (portOf t 3).rxseq = 0)) = true ∧
    (after (.portTrained 3 9 63) (sPort 1 0) fun t => decide (st t = (2, 3, 256) ∧ (portOf t 3).reg.toNat / 2 ^ 50 = 9 * 64 + 63)) = true ∧
    ([sPort 1 0, sPort 2 3, sPort 3 2].all fun s => after (.portFailure { port := 3 }) s fun t => decide (st t = (4, 0, 0))) = true ∧
    (after (.laneShed 3) (sPort 2 3) fun t => decide (st t = (3, 2, 2))) = true ∧
    (after (.laneShed 3) (sPort 2 2) fun t => decide (st t = (3, 1, 2))) = true ∧
    (after (.laneShed 3) (sPort 2 1) fun t => decide (pst t 3 = 4)) = true ∧
    (after (.linkRetrained 3) (sPort 3 2) fun t => decide (st t = (2, 2, 2))) = true ∧
    (let s := modPort (sPort 3 2) 3 fun q => { q with retry := [(1, 5), (2, 6), (3, 7)] }
     after (.linkRetrained 3) s fun t => decide (st t = (2, 2, 0) ∧ (portOf t 3).again = 1 ∧ (portOf t 3).retry.length = 3)) = true := by decide +kernel

/-- A header of package 9 for this package 0: kind, class, sequence and address. -/
def hdr9 (kind seq addr : Nat) (un : Bool) : BitVec 256 :=
  ({ dpkg := 0, spkg := 9, kind := kind, unord := un, seq := seq, flt := 1, addr := addr, opd := 0 } : PHdr).bits

/-- A packet for package 9 that carries a store of core 5. -/
def pkt9 (sent refd : Bool) (gone : Bool := true) (port : Option Nat := none) : Pkt :=
  { hdr := ({ dpkg := 9, spkg := 0, kind := 1, unord := false, seq := 65535, flt := 1, addr := 9 * 2 ^ 48 + hbm 0, opd := 0 } : PHdr).bits
    data := 77, core := 5, req := some 4, cmd := none, refd := refd, sent := sent, gone := gone, port := port }

/-- A flit of type 1 with link sequence 7 and three credits that carries a packet, and its CRC. -/
def body9 : Nat := 7 + 2 ^ 12 + 0xFFF * 2 ^ 16 + 3 * 2 ^ 29 + 2 ^ 64 * (hdr9 1 0 (hbm 0x140) false).toNat + 2 ^ 320 * 0x55
def crc9 : Nat := 0xe65b2df408ea38f2
def flit9 : BitVec 2048 := BitVec.ofNat 2048 (body9 + 2 ^ 1984 * crc9)

/-- Bytes 31 k to 31 k + 30 of a flit through the CRC. -/
def crcPart (k : Nat) (c : BitVec 64) : BitVec 64 := ((List.range 31).map fun i => fld (flit9.toNat % 2 ^ 1984) (8 * (31 * k + i)) 8).foldl crcByte c

theorem crcPart_0 : crcPart 0 0xffffffffffffffff = 0xe8e1439433dbc7c8 := by decide +kernel
theorem crcPart_1 : crcPart 1 0xe8e1439433dbc7c8 = 0x82c850cb83f05e73 := by decide +kernel
theorem crcPart_2 : crcPart 2 0x82c850cb83f05e73 = 0xafb7f3d3f7d6b9f8 := by decide +kernel
theorem crcPart_3 : crcPart 3 0xafb7f3d3f7d6b9f8 = 0x8c308ec992fbd830 := by decide +kernel
theorem crcPart_4 : crcPart 4 0x8c308ec992fbd830 = 0xba23a2dcbf33db12 := by decide +kernel
theorem crcPart_5 : crcPart 5 0xba23a2dcbf33db12 = 0x48049a54a658e4de := by decide +kernel
theorem crcPart_6 : crcPart 6 0x48049a54a658e4de = 0x1251075aad6f6df8 := by decide +kernel
theorem crcPart_7 : crcPart 7 0x1251075aad6f6df8 = 0x19a4d20bf715c70d := by decide +kernel

theorem range_parts : List.range 248 = (List.range 8).flatMap fun k => (List.range 31).map fun i => 31 * k + i := by decide +kernel

theorem crc_parts : flitCrc (flit9.toNat % 2 ^ 1984) = ~~~((List.range 8).foldl (fun c k => crcPart k c) (BitVec.ofNat 64 (2 ^ 64 - 1))) := by
  unfold flitCrc crc64
  rw [range_parts, List.map_flatMap, List.foldl_flatMap]
  simp only [List.map_map, crcPart, Function.comp_def]

theorem range8 : List.range 8 = [0, 1, 2, 3, 4, 5, 6, 7] := by decide +kernel

theorem ones64 : BitVec.ofNat 64 (2 ^ 64 - 1) = 0xffffffffffffffff := by decide +kernel

theorem parts_fold : (List.range 8).foldl (fun c k => crcPart k c) (BitVec.ofNat 64 (2 ^ 64 - 1)) = 0x19a4d20bf715c70d := by
  rw [range8, ones64]; simp only [List.foldl_cons, List.foldl_nil, crcPart_0, crcPart_1, crcPart_2, crcPart_3, crcPart_4, crcPart_5, crcPart_6, crcPart_7]

theorem flit9_crc : flitCrc (flit9.toNat % 2 ^ 1984) = BitVec.ofNat 64 crc9 := by
  rw [crc_parts, parts_fold]; decide +kernel

/-- R401 gives the CRC of the nine characters 123456789. -/
theorem test_crc : crc64 [0x31, 0x32, 0x33, 0x34, 0x35, 0x36, 0x37, 0x38, 0x39] = 0x62EC59E3F1A4F00A := by decide +kernel

/-- Port 3 up, without a route over it. -/
def sPort0 : State := let s := sPort 2 3; { s with fab := { s.fab with rt := [] } }

theorem witness_FabricAndTier_flit :
    let s := sPort0
    let f := flit9
    let h := hdr9 1 0 (hbm 0x140) false
    let u := modPort s 3 (fun q => { q with rxseq := 8, owed := 1, ask := false, asm := [], credit := 5, stale := q.stale - 3 })
    f.extractLsb' 12 4 = 1 ∧ f.getLsbD 28 = false ∧ (portOf s 3).again = 0 ∧ (portOf s 3).fails < 9 ∧ f.extractLsb' 0 12 = (portOf s 3).rxseq ∧ (pHdr h).flt = 1 ∧
    f.extractLsb' 64 256 = h ∧ pktLost u h = false ∧ rowAt (pump (receivePkt u h 0x55)) (hbm 0x140) = 0x55 := by decide +kernel

theorem test_flit_taken :
    let u := modPort sPort0 3 (fun q => { q with rxseq := 8, owed := 1, asm := [], credit := 5 })
    execFlitReceive 3 flit9 sPort0 = .next (noteBack (pump (receivePkt u (hdr9 1 0 (hbm 0x140) false) 0x55)) 3 true) := by
  intro u
  have h0 : ¬(pst sPort0 3 ≠ 2) := by decide +kernel
  have h1 : ¬((BitVec.ofNat 64 crc9).toNat ≠ wf flit9 1984 64) := by decide +kernel
  have h2 : ¬(wf flit9 12 4 = 0 ∨ 3 ≤ wf flit9 12 4 ∨ pst (linkBack sPort0 3 (wf flit9 0 64)) 3 ≠ 2) := by decide +kernel
  have h3 : ¬((wf flit9 12 4 = 1 ∨ wf flit9 12 4 = 2) ∧ wf flit9 0 12 ≠ (portOf sPort0 3).rxseq.toNat) := by decide +kernel
  have h4 : assembled (portOf (takeFlit (linkBack sPort0 3 (wf flit9 0 64)) 3 flit9) 3).asm = some (hdr9 1 0 (hbm 0x140) false, 0x55) := by decide +kernel
  have h5 : modPort (takeFlit (linkBack sPort0 3 (wf flit9 0 64)) 3 flit9) 3 (fun q => { q with asm := [] }) = u := by decide +kernel
  have h6 : pktLost u (hdr9 1 0 (hbm 0x140) false) = false := by decide +kernel
  unfold execFlitReceive
  rw [if_neg h0, flit9_crc, if_neg h1]; simp only [if_neg h3, if_neg h2, h4, h5, h6]; rfl

/-- What comes out of sequence behind a bad flit returns its credit, and asks once. -/
theorem test_flit_dropped :
    let t := dropFlit sPort0 3 true
    let u := dropFlit t 3 false
    (portOf t 3).note = some 0x30063FFF ∧ (portOf t 3).ask = true ∧ (portOf t 3).owed = 0 ∧
    (portOf u 3).note = some 0x20063FFF := by decide +kernel

theorem witness_FabricAndTier_packets :
    let s := { sPort 2 3 with poison := [rowBase (hbm 0x140) / 64], fab := { (sPort 2 3).fab with wins := [(18, { Win.fresh with exp := 65535 })] } }
    let h := hdr9 1 65535 (hbm 0x140) false
    pktLost s h = false ∧ malformed h = false ∧ switching s (hbm 0x140) = false ∧
    (after (.packetReceive h 9) s fun t => decide (rowAt t (hbm 0x140) = 9 ∧ poisoned t (hbm 0x140) = false ∧ (winOf t 9 false).exp = 0)) = true ∧
    (after (.packetReceive (hdr9 1 65535 (hbm 0x147) false) 9) s fun t => decide (rowAt t (hbm 0x147) = 9)) = true ∧
    (let m := { s with hub := { s.hub with migs := [(0, { Mig.idle with src0 := hbm 0, size := 4096, mst := 4 })] } }
     switching m (hbm 0x140) = true ∧ (after (.packetReceive h 9) m fun t => decide (t.mem = s.mem ∧ (winOf t 9 false).exp = 65535)) = true) ∧
    ([65534, 0].all fun n => after (.packetReceive (hdr9 1 n (hbm 0x140) false) 9) s fun t => decide (t.mem = s.mem ∧ (winOf t 9 false).exp = 65535)) = true := by
  decide +kernel

theorem witness_FabricAndTier_answers :
    let r : Req := { id := 4, side := false, slot := 2, pc := 0, op := .store, pa := 9 * 2 ^ 48 + hbm 0, len := 64, data := 77, mask := 0, cmp := 0, acq := false, rel := false
                     scp := 0, hnd := none, wait := [], stg := none, sent := true, sig := false }
    let s0 := modArch (sPort 2 3) 5 fun a => { a with reqs := [r] }
    let at_ := fun (p : Pkt) => { s0 with fab := { s0.fab with retry := [p] } }
    let ok := fun (t : State) => decide (t.fab.retry = [pkt9 true false true (some 3)] ∧ (portOf t 3).retry.map (·.1) = [4095] ∧ (portOf t 3).txseq = 0 ∧ (portOf t 3).credit = 1)
    portFor (at_ (pkt9 true false)) (pHdr (pkt9 true false).hdr) = some 3 ∧ (archOf s0 5).reqs.find? (fun q => q.id == 4) = some r ∧
    malformed (hdr9 7 0 0 false) = false ∧
    (after (.ackReceive (hdr9 7 0 0 false) 0) (at_ (pkt9 true false)) fun t => decide (t.fab.retry = [] ∧ (archOf t 5).reqs = [] ∧ t.mem = s0.mem)) = true ∧
    (after (.ackReceive (hdr9 7 65535 0 false) 0) (at_ (pkt9 true false)) fun t => decide (t.fab.retry = [pkt9 true false])) = true ∧
    (let h := ({ dpkg := 0, spkg := 9, kind := 7, unord := false, seq := 65535, flt := 1, addr := 0, opd := 1 } : PHdr).bits
     malformed h = false ∧ (pHdr h).opd = 1 ∧ (after (.ackReceive h 0) (at_ (pkt9 true false)) ok) = true) ∧
    (after (.retransmitTimeout 9 false) (at_ (pkt9 true false)) ok) = true ∧ (after (.retransmitTimeout 9 false) (at_ (pkt9 false false false)) ok) = true ∧
    (after (.refusalReplay 9 false) (at_ (pkt9 false true)) ok) = true := by decide +kernel

/-- A path beyond port 3 fails: what left over it for package 9 is lost, and goes again over a new route. A flit out of sequence
returns no credit; a packet of a reserved kind is discarded; a packet that a migration refused is performed at its destination. -/
theorem witness_FabricAndTier_paths :
    let at_ := fun (p : Pkt) => { sPort 2 3 with fab := { (sPort 2 3).fab with retry := [p] } }
    let l := { pkt9 true false true (some 3) with lost := true }
    let f : BitVec 2048 := BitVec.ofNat 2048 (9 + 2 ^ 12 + 3 * 2 ^ 29)
    let bad := hdr9 9 0 0 false
    let m := { sPort 2 3 with fab := { (sPort 2 3).fab with wins := [(18, { Win.fresh with exp := 5, refs := [(5, hbm 0x200)] })] } }
    portFor (at_ l) (pHdr l.hdr) = some 3 ∧ (at_ l).hub.rdy.getLsbD 3 = true ∧
    (after (.portFailure { port := 3, beyond := some [9] }) (at_ (pkt9 true false true (some 3))) fun t => decide (t.fab.retry = [l])) = true ∧
    (after (.portFailure { port := 3, beyond := some [8] }) (at_ (pkt9 true false true (some 3))) fun t => decide (t.fab.retry = [pkt9 true false true (some 3)])) = true ∧
    (after (.routeInstall 9 0x8000000000000083) (at_ l) fun t => decide (t.fab.retry = [pkt9 true false true (some 3)] ∧ (portOf t 3).retry.map (·.1) = [4095])) = true ∧
    f.extractLsb' 0 12 ≠ (portOf (sPort 2 3) 3).rxseq ∧
    malformed bad = true ∧ (after (.ackReceive bad 0) (sPort 2 3) fun t => t.hub.ring.lost == (sPort 2 3).hub.ring.lost + 1) = true ∧
    refGoal m (pHdr (hdr9 1 5 (hbm 0x140) false)) = some (hbm 0x200) ∧
    (after (.packetReceive (hdr9 1 5 (hbm 0x140) false) 9) m fun t => decide (rowAt t (hbm 0x200) = 9 ∧ rowAt t (hbm 0x140) = 0)) = true := by decide +kernel

theorem witness_FabricAndTier_routes :
    let s := sPort 2 3
    s.hub.rdy.getLsbD 3 = true ∧ fabEmpty s = true ∧
    (after (.routeInstall 255 0xFFFFFFFFFFFFFFFF) s fun t => decide (tget 0 t.fab.rt 255 = 0x80000000BFBFBFBF ∧ tget 0 t.fab.rt 9 = 0x8000000000000083)) = true ∧
    (let u := { s with hub := { s.hub with rdy := 8 } }
     (after (.secondTierPortTrain 7 .supported) u fun t => decide (t.hub.rdy = 0x8000000008)) = true ∧
     (after (.secondTierPortTrain 7 .other) u fun t => decide (t.hub.rdy = 8)) = true) ∧
    s.can.norec = false ∧ leaves (.secondTierPortTrain 7 .supported) { s with can := { s.can with norec := true } } { s with can := { s.can with norec := true } } = true ∧
    tdecOk s 15 0x8000000000000000 0x1000001 = true ∧
    (after (.tdecWrite 15 0x8000000000000000 0x1000001) s fun t => decide (tget (0, 0) t.fab.tdec 15 = (0x8000000000000000, 0x1000001))) = true ∧
    tdecOk s 15 0 0x1100001 = false ∧ leaves (.tdecWrite 15 0 0x1100001) s s = true := by decide +kernel

/-! ### Witnesses: the canopy and the package -/

/-- A period with an envelope code above the largest, budgets, a hot island 1 and warm readings elsewhere. -/
def period (miss : Bool) : PeriodInput :=
  { means := [], temps := [(9, 800), (0, 300)], stackTemps := [(1, 70)], bumps := [], envs := [(0, 63), (5, 12), (71, 30)], buds := [(0, 7)], stgi := [], clri := []
    missed := 0, teleMiss := miss }

/-- Island 0 feeds core 5 and is gated in `sGate true`; thresholds are set. -/
def sGate (on : Bool) : State :=
  { sCtx with can := { sCtx.can with islt := [(0, if on then 0x80 else 0x0700000F)], gated := if on then [0] else [], due := true, turn := true }
              health := { sCtx.health with tthr := 0x5A5F5E640000 } }

/-- A configuration record: steps of 100 mA, slopes of 7 and 0 mA per interval. -/
def rec0 : CfgRec :=
  { mag := 0x31474643, ver := 4, minf := 3, len := 4096, keys := [], stepI := 100, slopeI := [(0, 7), (1, 0)], slopeP := 0, limit := 500
    ports := 0, parts := [], shares := [], retire := [] }

/-- `sGate`, its boot ROM done with that record; the sensors of the period are read or not. -/
def sCan (on due : Bool) : State :=
  let s := sGate on
  { s with can := { s.can with recd := true, imgs := [(0, true), (1, true), (2, true)], flash := [(0, rec0), (1, rec0)], due := due, read := !due } }

theorem witness_CanopyAndPackage_period :
    let s := sCan true true
    let w := sCan true false
    let off := { s with can := { s.can with due := false, read := false } }
    memWf s.mem = true ∧ s.can.due = true ∧ w.can.due = false ∧ w.can.read = true ∧ thr s 40 ≤ thr s 32 ∧ leaves (.canopyPeriod (period true)) off off = true ∧
    slopeOf w 0 = 7 ∧ slopeOf w 1 = 0 ∧ stepOf w = 100 ∧ slopeFits w (period true) = true ∧ [0, 1, 5].map (targetWord w (period true) true) = [0x000F000F000000A8, 0x28, 0x0C] ∧
    (heatIsland (period true).temps s 1).can.trip = [1] ∧ (heatIsland (period true).temps s 1).can.throt = [1] ∧
    (telemetry w (period true)).health.ring.lost = w.health.ring.lost + 9 := by decide +kernel

/-- A period falls due at the tick that is a multiple of a million, once the canopy is ready. -/
theorem test_period_due :
    let s := fun (n : Nat) (r : Word) => { State.reset with hub := { Hub.reset with htck := BitVec.ofNat 64 n, rdy := r } }
    (after .chainTick (s 1999999 1) fun t => decide (t.can.due = true ∧ t.can.turn = true ∧ t.hub.htck = 2000000)) = true ∧
    (after .chainTick (s 2000000 1) fun t => decide (t.can.due = false)) = true ∧
    (after .chainTick (s 1999999 0) fun t => decide (t.can.due = false)) = true := by decide +kernel

/-- A written target takes effect in the next hub tick: a gate asks the cores of its rail to be saved, a withdrawn one starts the
regulators of the rail that is off at the new code; a code above 40 is discarded, and the result of a command comes with it. -/
theorem witness_CanopyAndPackage_targets :
    let q := fun (on : Bool) (w : Word) => let s := sCan on true; { s with can := { s.can with tgts := [(0, w)], mres1 := some 0, mpend := true } }
    let g := modArch (let s := q true 0x19; { s with can := { s.can with islt := [(0, 0xC0)] } }) 5 fun a => { a with preq := [.gate, .prs] }
    (q false 0x80).hub.rdy.getLsbD 2 = true ∧ (isltOf (q false 0x80) 0).getLsbD 7 = false ∧ (isltOf g 0).getLsbD 7 = true ∧ (isltOf g 0).getLsbD 6 = true ∧ fullOn g 0 = true ∧
    (after .chainTick (q false 0x5000500000000094) fun t => decide (isltOf t 0 = 0x5000500000000094 ∧ (archOf t 5).preq = [.gate] ∧ t.can.tgts = [] ∧
      t.can.mres = 0x8000000000000000 ∧ t.can.mpend = false ∧ t.can.mres1 = none)) = true ∧
    (after .chainTick (q false 41) fun t => decide (isltOf t 0 = isltOf (q false 41) 0)) = true ∧
    (after .chainTick (q false 3) fun t => decide ((isltOf t 0).extractLsb' 0 6 = if fullOn (q false 3) 0 then 18 else 3)) = true ∧
    (after .chainTick g fun t => decide ((archOf t 5).preq = [.prs] ∧ (archOf t 5).vcode = 25)) = true := by decide +kernel

theorem witness_CanopyAndPackage_rails :
    let s := modArch (sGate true) 5 fun a => { a with task := none }
    (isltOf s 0).getLsbD 7 = true ∧ (∀ c ∈ railCores s 0, (archOf s c).task = none) ∧
    (after (.islandRailOff 0) s fun t => decide (isltOf t 0 = 0xC0 ∧ t.cores = s.cores)) = true ∧
    (after (.thermalSample [(3, 100), (2, 100), (511, -8)]) s fun t => decide (t.health.tmx = 0x0000006400020001)) = true ∧
    (after (.thermalSample [(511, -8)]) s fun t => decide (t.health.tmx = 0x0000FFF801FF0001)) = true := by decide +kernel

/-- The boot ROM: of two valid copies the higher version is taken, of one valid copy that one, else no function starts. -/
theorem witness_CanopyAndPackage_record :
    let at_ := fun (a b : CfgRec) => let s := sGate false; { s with can := { s.can with flash := [(0, a), (1, b)], mpend := true }, hub := { s.hub with rdy := 0, rfl := 0 } }
    let new := { rec0 with ver := 5 }
    let y : Report := { ok := true }
    let ends := fun (a b : CfgRec) (x : Report) => after (.functionReady 40 x) (at_ a b) fun t => decide (t.can.recd = true ∧ t.can.flash = [(0, new), (1, new)])
    (at_ rec0 new).can.recd = false ∧ (at_ rec0 new).can.norec = false ∧ ends rec0 new y = true ∧ ends new rec0 y = true ∧ ends new new y = true ∧
    ends new { rec0 with ver := 9, mag := 0 } y = true ∧ ends new { rec0 with ver := 9 } { y with slh1 := false } = true ∧ ends { rec0 with ver := 9 } new { y with rsa := false } = true ∧
    (after (.functionReady 40 { y with rsa := false, slh1 := false }) (at_ rec0 new) fun t =>
      decide (t.can.recd = false ∧ t.can.norec = true ∧ t.can.mpend = false ∧ t.can.mres = 0x8000000000000001)) = true ∧
    leaves (.functionReady 40 y) (sCan false true) (sCan false true) = true ∧ leaves (.functionReady 17 y) (at_ rec0 new) (at_ rec0 new) = true := by decide +kernel

/-- The images in their order, each by both signatures and its version. -/
theorem witness_CanopyAndPackage_images :
    let at_ := fun (l : Tbl Bool) => let s := sCan false true; { s with can := { s.can with imgs := l, mpend := true }, hub := { s.hub with rdy := 0, rfl := 0 } }
    let y : Report := { ok := true, ver := 3 }
    (at_ []).can.recd = true ∧
    (after (.functionReady 41 y) (at_ []) fun t => decide (t.can.imgs = [(0, true)] ∧ t.hub.rfl = 0 ∧ t.can.mpend = true)) = true ∧
    (after (.functionReady 41 { y with slh := false }) (at_ []) fun t => decide (t.can.imgs = [(0, false)] ∧ t.hub.rfl = 1 ∧ t.can.mpend = false)) = true ∧
    (after (.functionReady 42 { y with ver := 2 }) (at_ [(0, true)]) fun t => decide (t.hub.rfl = 6)) = true ∧
    (after (.functionReady 43 { y with rsa := false }) (at_ [(0, true), (1, true)]) fun t => decide (t.hub.rfl = 8)) = true ∧
    leaves (.functionReady 42 y) (at_ []) (at_ []) = true := by decide +kernel

theorem witness_CanopyAndPackage_functions :
    let s0 := sCan false true
    let u := fun (r : Word) => { s0 with hub := { s0.hub with rdy := r, rfl := 0 } }
    let y : Report := { ok := true }
    let n : Report := { ok := false }
    let bad := { u 0 with can := { (u 0).can with imgs := [(0, false)] } }
    (u 0).can.recd = true ∧ tget false (u 0).can.imgs (imageNo 1) = true ∧ tget false bad.can.imgs (imageNo 0) = false ∧ newRegions (u 0) 0x80000000 15 = [] ∧
    (after (.functionReady 31 y) (u 0) fun t => decide (t.hub.rdy = 0x80000000 ∧ tget 0 t.health.shlt 15 = 1)) = true ∧
    (after (.functionReady 16 n) (u 0) fun t => decide (t.hub.rfl = 0x10000 ∧ tget 0 t.health.shlt 0 = 2 ∧ t.hub.rdy = 0)) = true ∧
    (after (.functionReady 16 n) (u 0x10000) fun t => decide (t.hub.rfl = 0x10000 ∧ tget 0 t.health.shlt 0 = 2 ∧ t.hub.rdy = 0)) = true ∧
    (after (.functionReady 1 y) (u 0) fun t => decide (t.hub.rdy = 2)) = true ∧ leaves (.functionReady 1 n) (u 0) (u 0) = true ∧ leaves (.functionReady 0 y) bad bad = true ∧
    leaves (.functionReady 15 y) (u 0) (u 0) = true ∧ (after (.functionReady 15 y) (u 1) fun t => decide (t.hub.rdy = 0x8001)) = true ∧
    (after (.functionReady 15 n) (u 0) fun t => decide (t.hub.rfl = 0x8000)) = true := by decide +kernel

/-- Context 1 maps region 2 on stack 3: absent until the stack reports. -/
theorem witness_CanopyAndPackage_stack :
    let e := { entry 0x20000 (2 ^ 46 + 3 * 2 ^ 36) 0xC000 2 with w3 := 0xC000 }
    let away := { e with w3 := 0xC100 }
    let s0 := modCtx s5 1 fun c => { c with imgs := [(1, { blocks := [], tmpl := [(0, [(1, e)])], prods := [], bfmt := [] })] }
    let s1 := modArch s0 5 fun a => { a with tab := [(1, away)] }
    let s := { s1 with hub := { s1.hub with rdy := 1, rfl := 0 }, can := { s1.can with recd := true } }
    newRegions s 0x80001 3 = [(1, 2)] ∧ (archOf s 5).task.map (·.ctx) = some 1 ∧ stackRegions s 3 = [(1, 2)] ∧
    (loadEntry s (ctxOf s 1) 0 e).res = 1 ∧
    (after (.functionReady 19 { ok := true }) s fun t => decide ((archOf t 5).tab.map (·.2.res) = [0] ∧ t.hub.rdy = 0x80001 ∧ (loadEntry t (ctxOf t 1) 0 e).res = 0) &&
      after (.functionReady 19 { ok := false }) t fun u => decide ((archOf u 5).tab.map (·.2.res) = [1] ∧ u.hub.rdy = 1 ∧ tget 0 u.health.shlt 3 = 2)) = true := by
  decide +kernel

theorem witness_CanopyAndPackage_partitions :
    let s := { State.reset with hub := { Hub.reset with part := [(0, 0x8000000000000120)] } }
    (after (.partWrite 7 0xFFFFFFFFFFFF0220) s fun t => decide (tget 0 t.hub.part 7 = 0x8000000000000220)) = true ∧
    (after (.partWrite 7 0x800000000000FE20) s fun t => decide (tget 0 t.hub.part 7 = 0x800000000000FE20)) = true ∧
    leaves (.partWrite 7 0x800000000000FE21) s s = true ∧ leaves (.partWrite 7 0x8000000000000100) s s = true ∧
    leaves (.partWrite 7 0x0000000000000100) s s = true ∧
    (let u := fun (n : BitVec 2) => modCtx s 1 fun c => { c with state := n, record := 7 }
     (after (.partWrite 7 0) (u 2) fun t => decide (tget 1 t.hub.part 7 = 0)) = true ∧ (u 2).hub.ctxs.all (fun c => c.2.state != 1) = true ∧
     leaves (.partWrite 7 0) (u 1) (u 1) = true) := by decide +kernel

/-- One byte of HBM and one of the second tier. -/
theorem witness_CanopyAndPackage_reset :
    let s := { sCan true true with pkg := 3, mem := [(3 * 2 ^ 48 + 2 ^ 46, 5), (3 * 2 ^ 48 + 2 ^ 47, 6)] }
    memWf s.mem = true ∧ leaves (.packageReset 0xC1EB) s s = true ∧
    ([.packageReset 0xC1EA, .powerOn].all fun i => after i s fun t => decide (t.hub = Hub.reset ∧ t.cores = [] ∧ t.mem = [(3 * 2 ^ 48 + 2 ^ 47, 6)] ∧ t.poison = [] ∧ t.net = [] ∧
      t.pkg = 3 ∧ t.can = { State.reset.can with flash := [(0, rec0), (1, rec0)] } ∧ t.fab = State.reset.fab ∧ t.health = State.reset.health)) = true ∧
    (ctxOf sCtx 1).state = 1 ∧ (after .packageHalt sCtx fun t => decide (t.hub.halted = true ∧ (ctxOf t 1).state = 2 ∧ (ctxOf t 1).chain = none)) = true := by
  decide +kernel

/-- A mailbox command that waits, the sensors of its period read: number, target, argument. -/
def sMail (on : Bool) (cmd tgt arg : Nat) : State :=
  let s := sCan on false
  { s with can := { s.can with mpend := true, mcmd := BitVec.ofNat 64 (arg * 2 ^ 16 + tgt * 256 + cmd) } }

/-- The command was done: no result but the done bit. -/
def mailOk (s t : State) : Bool := decide (t.can.mpend = false ∧ t.can.turn = false ∧ t.can.mres = 0x8000000000000000 ∧ t.hub = s.hub ∧ t.can.tgts = [])

/-- The command is done with the register that carries it out. -/
def mailWaits (s t : State) (w : Word) : Bool := decide (t.can.mpend = true ∧ t.can.turn = false ∧ t.can.mres1 = some 0 ∧ t.hub = s.hub ∧ t.cores = s.cores ∧ t.can.tgts = [(0, w)])

theorem witness_CanopyAndPackage_mailbox :
    let asks := fun (s : State) => decide (s.can.mpend = true ∧ s.can.turn = true ∧ s.can.read = true ∧ mTgt s ≤ 63)
    let run := fun (i : Instr) (s : State) (g : State → Bool) => asks s && after i s fun t => mailOk s t && g t
    let tripped := let s := sMail true 5 0 0; { s with can := { s.can with trip := [0] } }
    (let off := { sMail false 1 0 9 with can := { (sMail false 1 0 9).can with turn := false } }
     let due := { sMail false 1 0 9 with can := { (sMail false 1 0 9).can with due := true, read := false } }
     (leaves .setIslandSlope off off && leaves .setIslandSlope due due) = true) ∧
    run .setIslandSlope (sMail false 1 63 0x700000005) (fun t => tget 0 t.can.slope 63 == 5) = true ∧
    run .setPackageSlope (sMail false 2 0 9) (fun t => t.can.pslope == some 9) = true ∧
    run .setPowerLimit (sMail false 3 0 9) (fun t => t.can.plimit == some 9) = true ∧
    (asks (sMail false 4 0 0) && after .gateIsland (sMail false 4 0 0) fun t => mailWaits (sMail false 4 0 0) t 0x8F && t.can.gated == [0]) = true ∧
    (asks (sMail true 5 0 0) && after .ungateIsland (sMail true 5 0 0) fun t => mailWaits (sMail true 5 0 0) t 0 && t.can.gated == []) = true ∧
    run .ungateIsland tripped (fun t => t.can.gated == []) = true ∧
    run .appendRetiredRange (sMail false 6 0 0xABCDEF) (fun t => [0, 1].all fun n => (flashOf t n).retire == [0xABCDEF]) = true := by decide +kernel

theorem witness_CanopyAndPackage_attestation :
    let s := sMail false 16 0 (hbm 0x9000000)
    mTgt s ≤ 63 ∧ mCmd s = 16 ∧ storageOk s (hbm 0x9000000) = true ∧ storageOk s (hbm 0x9000000 + 8767) = true ∧
    (match exec .attestationReport s with
      | .next t => t.can.mpend == false && t.can.mres == 0x8000000000000000
      | _ => false) = true := by decide +kernel

/-! ### Witnesses: rings, scrubs, the host, majority sets, migration -/

theorem witness_RingsScrubsAndHost_acks :
    let r : RecRing := { base := 0, n := 64, head := 3, ack := 0xFFFFFFD0, lost := 0 }
    let s0 := modCtx sCtx 1 fun c => { c with erhead := 3 }
    let s := { s0 with hub := { s0.hub with ring := r }, health := { s0.health with ring := r } }
    (ctxOf s 1).state ≠ 0 ∧ recN (ctxOf s 1).record 48 4 = 64 ∧
    (after (.erackWrite 1 0xFFFFFFC3) s fun t => decide ((ctxOf t 1).erack = 0xFFFFFFC3)) = true ∧ leaves (.erackWrite 1 0xFFFFFFC2) s s = true ∧
    leaves (.peackWrite 0xFFFFFFC3) s { s with hub := { s.hub with ring := { r with ack := 0xFFFFFFC3 } } } = true ∧ leaves (.peackWrite 4) s s = true ∧
    leaves (.tlackWrite 3) s { s with health := { s.health with ring := { r with ack := 3 } } } = true ∧ leaves (.tlackWrite 4) s s = true := by decide +kernel

theorem witness_RingsScrubsAndHost_scrubs :
    let p := hbm 0x140
    let s := { sCtx with health := { sCtx.health with shlt := [(paStack p, 0xFFFFFFFFFF000001)] } }
    let b := { s with poison := [rowBase p / 64, 5 * 2 ^ 16] }
    let w : State → Nat := fun t => (tget 0 t.health.shlt (paStack p)).toNat / 2 ^ 24
    paPkg p = s.pkg.toNat ∧ paSpace p = 1 ∧ storageOk s p = true ∧ storageOk s (5 * 2 ^ 22) = true ∧ marked s p = false ∧ marked b p = true ∧
    marked b (5 * 2 ^ 22) = true ∧ storageOk s (2 ^ 46 - 64) = false ∧
    (match exec (.sramScrub (2 ^ 46 - 64) .clean) s with
      | .fault (.noStorage a) => a == 2 ^ 46 - 64
      | _ => false) = true ∧
    (after (.hbmScrub p (.corrected 1)) s fun t => decide (w t = 0xFFFFFFFFFF ∧ t.poison = [] ∧ t.hub.ring.lost = s.hub.ring.lost + 1 ∧ t.mem = s.mem)) = true ∧
    (after (.hbmScrub p .uncorrectable) s fun t => decide (marked t p = true ∧ w t = 0xFFFFFFFFFF ∧ t.hub.ring.lost = s.hub.ring.lost + 1)) = true ∧
    (after (.hbmScrub p .uncorrectable) b fun t => decide (t.poison = b.poison ∧ t.mem = b.mem)) = true ∧
    (after (.sramScrub (5 * 2 ^ 22) .uncorrectable) s fun t => decide (marked t (5 * 2 ^ 22) = true ∧ t.cores = s.cores)) = true ∧
    (after (.sramScrub (5 * 2 ^ 22) .clean) b fun t => decide (t.poison = b.poison ∧ t.hub = b.hub)) = true := by decide +kernel

/-- A granule of HBM takes AtomicOps; the shadow records of context 1 stand at 0x800000 of the interleaved view. -/
def sHost : State :=
  let s := modCtx sCtx 1 fun c => { c with shtb := BitVec.ofNat 56 (2 ^ 46 + 2 ^ 45 + 0x800000), shtn := 8 }
  { s with hub := { s.hub with samap := [ilv (hbm 0x140) / 65536] } }

/-- Writes and reads of a slice, past its range, and of a shadow record, whose last two written bytes the host may only read. -/
theorem witness_RingsScrubsAndHost_host :
    let s := sHost
    let a : HostAccess := { write := true, region := .sram, off := 5 * 2 ^ 22 + 62, data := [9, 8], len := 0 }
    let r : HostAccess := { a with write := false, data := [], len := 3 }
    let h : HostAccess := { a with region := .hbm, off := 0x800002, data := [1, 2, 3, 4] }
    let f := { s with flaws := [5 * 2 ^ 16 + 1] }
    ([a, r, h].all fun x => hostOk s x && (heldBy s (.access x)).isNone) = true ∧ hostPa s a % 64 + a.data.length ≤ 64 ∧ hostOk s { a with off := 2 ^ 32 } = false ∧
    (after (.hostMemoryAccess a) s fun t => decide (cellAt t.mem (5 * 2 ^ 22 + 62) = 9 ∧ cellAt t.mem (5 * 2 ^ 22 + 63) = 8 ∧ cellAt t.mem (5 * 2 ^ 22) = 1 ∧ t.replies = [.done])) = true ∧
    (after (.hostMemoryAccess h) s fun t => decide (readN t.mem (canon (hostPa s h)) 4 = 0x0201)) = true ∧ shadowRO s (hostPa s h + 2) = true ∧
    (after (.hostMemoryAccess { r with off := 5 * 2 ^ 22 + 14 }) s fun t => decide (t.replies = [.data [15, 16, 0] false] ∧ t.mem = s.mem)) = true ∧
    (after (.hostMemoryAccess r) f fun t => decide (t.replies = [.data [0, 0, 0] true] ∧ marked t (5 * 2 ^ 22 + 64) = true ∧ marked t (5 * 2 ^ 22) = false)) = true ∧
    (let d := { s with can := { s.can with norec := true } }; leaves (.hostMemoryAccess a) d { d with replies := [] }) = true ∧ s.can.norec = false ∧
    spanRows (hostPa s { r with off := 5 * 2 ^ 22 + 64 }) 3 = [5 * 2 ^ 22 + 64] ∧ f.flaws.contains (canon (5 * 2 ^ 22 + 64) / 64) = true ∧
    (after (.hostMemoryAccess { r with off := 5 * 2 ^ 22 + 64 }) f fun t => decide (t.hub.ring.lost = f.hub.ring.lost + 1 ∧ marked t (5 * 2 ^ 22 + 64) = true)) = true ∧
    (after (.hostMemoryAccess { a with off := 5 * 2 ^ 22 + 65 }) f fun t => decide (t.hub.ring.lost = f.hub.ring.lost + 1 ∧ cellAt t.mem (5 * 2 ^ 22 + 65) = 9)) = true ∧
    (after (.hostMemoryAccess { a with off := 2 ^ 32 }) s fun t => decide (t.cores = s.cores ∧ t.poison = s.poison ∧ t.replies = [.done])) = true ∧
    (after (.hostMemoryAccess { r with off := 2 ^ 32 }) s fun t => decide (t.replies = [.data [255, 255, 255] false])) = true := by decide +kernel

theorem witness_RingsScrubsAndHost_atomics :
    let x : HostAtomic := { op := .fetchAdd, size := 32, pa := hbm 0x144, a := 2, b := 7, ctx := 1 }
    let u := { sHost with mem := writeN sHost.mem (canon (hbm 0x140)) 0xFFFFFFFF12345678 255 8 }
    let bad := { u with flaws := [canon (hbm 0x140) / 64] }
    let gives := fun (y : HostAtomic) (w : Nat) => after (.hostAtomic y) u fun t => decide ((wordAt t (hbm 0x140)).toNat = w ∧ t.replies = [.data [255, 255, 255, 255] false])
    hostAtomicOk u x = true ∧ heldBy u (.atomic x) = none ∧ poisoned u (hbm 0x144) = false ∧ poisoned bad (hbm 0x144) = true ∧
    gives x 0x0000000112345678 = true ∧ gives { x with op := .swap } 0x0000000212345678 = true ∧
    gives { x with op := .cas, a := 0xFFFFFFFF } 0x0000000712345678 = true ∧ gives { x with op := .cas } 0xFFFFFFFF12345678 = true ∧
    (after (.hostAtomic x) bad fun t => decide (t.mem = bad.mem ∧ marked t (hbm 0x144) = true ∧ t.replies = [.data [255, 255, 255, 255] true])) = true ∧
    (let d := { u with can := { u.can with norec := true } }; leaves (.hostAtomic x) d { d with replies := [] }) = true ∧
    (let v := { u with hub := { u.hub with samap := [(2 ^ 46 + 2 ^ 45 + 0x800000) / 65536] } }
     let y := { x with pa := 2 ^ 46 + 2 ^ 45 + 0x800000, size := 64, op := .swap, a := 0xFFFFFFFFFFFFFFFF }
     hostAtomicOk v y = true ∧ shadowRO v y.pa = false ∧ shadowRO v (y.pa + 4) = true ∧
     (after (.hostAtomic y) v fun t => decide ((wordAt t y.pa).toNat = 0xFFFFFFFF)) = true) ∧
    hostAtomicOk u { x with pa := hbm 0x142 } = false ∧
    (after (.hostAtomic { x with pa := hbm 0x142 }) u fun t => decide (t.replies = [.unsupported] ∧ t.cores = u.cores)) = true := by decide +kernel

/-- A write to the source of a migration that switches is held at its port, and what follows it on its line after it. -/
theorem witness_RingsScrubsAndHost_held :
    let s := { sHost with hub := { sHost.hub with migs := [(2, { Mig.idle with src0 := ilv (hbm 0), size := 4096, mst := 4 })] } }
    let a : HostAccess := { write := true, region := .hbm, off := ilv (hbm 0x148) - 2 ^ 46 - 2 ^ 45, data := [9], len := 0 }
    let x : HostAtomic := { op := .swap, size := 64, pa := hbm 0x140, a := 2, b := 7, ctx := 1 }
    hostOk s a = true ∧ heldBy s (.access a) = some 2 ∧ hostAtomicOk s x = true ∧ heldBy s (.atomic x) = none ∧
    (after (.hostMemoryAccess a) s fun t => decide ((migOf t 2).held = [.access a] ∧ t.mem = s.mem ∧ t.replies = [] ∧ heldBy t (.atomic x) = some 2)) = true := by
  decide +kernel

/-- An aligned word of BAR0: the mailbox command. -/
theorem witness_RingsScrubsAndHost_bar0 :
    let a : HostAccess := { write := false, region := .bar0, off := 0x6000, data := [], len := 8 }
    let w := { a with write := true, data := (List.range 8).map (fun i => (0x0102030405060708 : Word).extractLsb' (8 * i) 8) }
    let d := { sCtx with can := { sCtx.can with norec := true } }
    (regAnswers d 0x5FF8 = false ∧ regAnswers sCtx 0x6000 = true ∧ writeOwn { sCtx with replies := [.done] } 0x6000 5 = none) ∧
    (after (.hostMemoryAccess { w with off := 0x5FF8 }) d fun t => decide (t = { d with replies := [.done] })) = true ∧
    (after (.hostMemoryAccess { w with off := 0x1038, data := [0x10, 0, 0, 0, 0, 0, 0, 0x80] }) sCtx fun t => decide (tget 0 t.hub.part 7 = 0x8000000000000010)) = true ∧
    (after (.hostMemoryAccess { w with off := 0x110, data := [0xEA, 0xC1, 0, 0, 0, 0, 0, 0] }) sCtx fun t => decide (t.cores = [] ∧ t.hub = Hub.reset)) = true ∧
    (after (.hostMemoryAccess { w with off := 0x110000, data := [2, 0, 0, 0, 0, 0, 0, 0] }) sCtx fun t => decide ((ctxOf t 1).state = 2)) = true ∧
    (after (.hostMemoryAccess { w with off := 0x112040, data := [5, 0, 0, 0, 0, 0, 0, 0] }) sCtx fun t => decide ((queueOf t 1 1).want = some 5)) = true ∧
    (after (.hostMemoryAccess { w with off := 0x112048, data := [5, 0, 0, 0, 0, 0, 0, 0] }) sCtx fun t => decide ((queueOf t 1 1).want = none ∧ t = logDiscard { sCtx with replies := [.done] } 1 1)) = true ∧
    (after (.hostMemoryAccess { w with off := 0x112048, data := [0, 0, 0, 0, 0, 0, 0, 0] }) sCtx fun t => decide (t = { sCtx with replies := [.done] })) = true ∧
    leaves (.hostMemoryAccess a) (sMail false 1 2 3) { sMail false 1 2 3 with replies := [.data [1, 2, 3, 0, 0, 0, 0, 0] false] } = true ∧
    (after (.hostMemoryAccess w) sCtx fun t => decide (t.can.mcmd = 0x0102030405060708 ∧ t.replies = [.done])) = true := by decide +kernel

theorem witness_RingsScrubsAndHost_registers :
    let s := sMail false 1 0 0
    let q := modCtx sCtx 1 fun c => { c with qs := [] }
    leaves (.registerWrite 0x6004 5) s s = true ∧ leaves (.registerWrite 0x200000 5) s s = true ∧
    sCtx.can.mpend = false ∧ sCtx.hub.rfl.getLsbD 0 = false ∧ sCtx.can.norec = false ∧
    (let d := { sCtx with can := { sCtx.can with norec := true } }
     after (.registerWrite 0x6000 5) d fun t => decide (t.can.mres = 0x8000000000000001)) = true ∧
    leaves (.registerWrite 0x6000 5) sCtx { sCtx with can := { sCtx.can with mcmd := 5, mpend := true, mres := 0 } } = true ∧
    leaves (.registerWrite 0x6000 5) s { s with can := { s.can with mres := 0x8000000000000002 } } = true ∧
    (after (.registerWrite 0x6010 5) s fun t => decide (t.can.mnon = 5)) = true ∧
    (after (.registerWrite (0x100000 + 0x10000 + 0x1000 + 64 * 15 + 8) 6) q fun t => decide (queueOf t 1 15 = { LQueue.reset with int := true, kind := true })) = true := by
  decide +kernel

/-- Set 0 of two members that are up and a third, rejoining, of the cell at 0x200000: tags 7, 9 and 0. -/
def sSet : State :=
  let m : MjSet := { MjSet.free with reg := BitVec.ofNat 64 (2 ^ 63 + 32 * 2 ^ 40 + 3 * 2 ^ 32 + 0x210), base := 0x200000, cells := 1, lag := [0x200000] }
  let s := { sCtx with hub := { sCtx.hub with mjs := [(0, m)] } }
  writeRow (writeRow s (copyPa s m 0x200000 0) (7 * 2 ^ 384 + 1)) (copyPa s m 0x200000 1) (9 * 2 ^ 384 + 2)

/-- The tags of the cell's copies. -/
def tags3 (t : State) : List Nat := (List.range 3).map fun i => tagKey (rowAt t (copyPa t (mjsOf t 0) 0x200000 i)) / 2 ^ 24

theorem witness_MajorityAndMigration_members :
    let s := sSet
    (mjsOf s 0).lag = [0x200000] ∧ (mjsOf s 0).need ≤ ((mjsOf s 0).answers s 0x200000).length ∧ (mjsOf s 0).reg.getLsbD 63 = true ∧ (mjsOf s 0).n = 3 ∧
    (mjsOf s 0).mem 2 = 2 ∧
    (after (.majorityRepair 0) s fun t => decide ((mjsOf t 0).lag = [] ∧ tags3 t = [9, 9, 9])) = true ∧
    (after (.majorityWalk 0) s fun t => decide ((mjsOf t 0).lag = [] ∧ (mjsOf t 0).walk = false ∧ tags3 t = [9, 9, 9] ∧ (List.range 3).map (mjsOf t 0).mem = [0, 0, 0])) = true ∧
    (after (.majorityMemberDown 0 1) s fun t => decide ((List.range 3).map (mjsOf t 0).mem = [0, 1, 2] ∧ t.mem = s.mem)) = true ∧
    (after (.mhsWrite 0 0 2) s fun t => decide ((mjsOf t 0).mem 0 = 2 ∧ (mjsOf t 0).walk = true)) = true ∧
    leaves (.mhsWrite 0 0 3) s s = true ∧
    (let d := setMem s 0 1 1
     (mjsOf d 0).lag.find? (fun c => decide ((mjsOf d 0).need ≤ ((mjsOf d 0).answers d c).length)) = none ∧ leaves (.majorityRepair 0) d d = true ∧
     (after (.majorityWalk 0) d fun t => decide ((mjsOf t 0).lag = [0x200000] ∧ (mjsOf t 0).walk = true ∧ (mjsOf t 0).mem 2 = 2)) = true) ∧
    (let d := setMem s 0 1 1; leaves (.mhsWrite 0 1 0) d d = true) := by decide +kernel

/-- Core 5 waits at a bundle whose second slot is a majority load or store of the cell of set 0. -/
def sMjAt (load : Bool) : State :=
  let i := if load then Instr.mjld smS ⟨4, 12, 1, 0, 0, 10, 0⟩ else Instr.mjst smS ⟨4, 12, 1, 0, 0, 10, 0⟩
  let s := { sSet with mem := writeN sSet.mem (5 * 2 ^ 22 + 0x100) (4 + ((encode i).getD 0).toNat * 2 ^ 48) (2 ^ 12 - 1) 12 }
  modStrm s s.focus fun x => { x with pc := 0x10100, due := .bundle, stage := 8, blk := { x.blk with hdr := 0x10000, ext := 0x10200 } }

/-- Set 0 is taken and set 1 free; the storage of the new cell was in use. Two stacks of one grove do not do, nor a device with every set taken. -/
theorem witness_MajorityAndMigration_allocation :
    let r : MajReq := { reg := 5, n := 3, cells := 1, places := [0, 2, 5], off := 0x400000 }
    let s := writeRow sSet (2 ^ 46 + 5 * 2 ^ 36 + 0x400000) (7 * 2 ^ 384 + 3)
    let full := { s with hub := { s.hub with mjs := (List.range 32).map fun i => (i, { MjSet.free with reg := 0x8000000000000000 }) } }
    (mjsOf s 0).reg.getLsbD 63 = true ∧ (mjsOf s 1).reg.getLsbD 63 = false ∧ majFits s r = true ∧ majFits s { r with places := [0, 1, 5] } = false ∧
    (match allocSet s r with
      | some (i, t) => i == 1 && (mjsOf t 1).reg == 0x8000000300000520 && (mjsOf t 1).base == 0x400000 && rowAt t (copyPa t (mjsOf t 1) 0x400000 2) == 3 && t.cores == s.cores
      | none => false) = true ∧
    (allocSet s { r with places := [0, 1, 5] }).isNone = true ∧ (allocSet full r).isNone = true ∧ (∀ i < 32, (mjsOf full i).reg.getLsbD 63 = true) := by decide +kernel

/-- The system-atomic map: the granules of a request are set, and an entry's `SYA` must agree with them; storage that was
retired is refused. -/
theorem test_load_atomic :
    let e := fun (w3 : Nat) => entry 0x10000 (2 ^ 46 + 2 ^ 45 + 0x100000) w3 1
    let l := fun (w3 : Nat) (n : List (Nat × Nat)) => ({ ctx := 1, stand := 2, roots := false, majs := [], atoms := n, image := { image1 with tmpl := [(0, [(0, e w3)])] } } : Load)
    let at_ := [(2 ^ 46 + 2 ^ 45 + 0x100000, 65536)]
    (loadImage sCtx (l 0xDC10 at_)).map (fun x => x.2.hub.samap) = some [(2 ^ 46 + 2 ^ 45) / 65536 + 16] ∧
    (loadImage sCtx (l 0xDC10 [])).isNone = true ∧ (loadImage sCtx (l 0xDC00 at_)).isNone = true ∧ (loadImage sCtx (l 0xDC00 [])).isSome = true ∧
    (loadImage { sCtx with retd := [(2 ^ 46 + 0x10000, 65536)] } (l 0xDC00 [])).isNone = true ∧
    granules (2 ^ 46 + 3 * 2 ^ 36) 8192 = [(2 ^ 46 + 2 ^ 45) / 65536, (2 ^ 46 + 2 ^ 45) / 65536 + 1] := by decide +kernel

/-- An image is loaded: number 2 of context 1. A table whose entry has a base within a granule is refused, as is a load without room for
its set, and nothing stays of either. -/
theorem witness_MajorityAndMigration_load :
    let l : Load := { ctx := 1, stand := 2, roots := false, majs := [], image := { image1 with tmpl := [(0, [(0, entry 0x10000 (hbm 0x100000) 0xDC00 1)])], bfmt := [(0, 5)] } }
    let bad := { l with image := { l.image with tmpl := [(0, [(0, entry 0x10000 (hbm 0x100001) 0xDC00 1)])] } }
    let big := { l with majs := [{ reg := 4, n := 3, cells := 0, places := [0, 2, 4], off := 0 }] }
    let a : HostAccess := { write := true, region := .image l, off := 0, data := [], len := 0 }
    (∀ i ∈ (ctxOf sCtx 1).imgs, i.1 + 1 < 2 ^ 60) ∧ a.region = .image l ∧ (loadImage sCtx l).isSome = true ∧
    (after (.hostMemoryAccess a) sCtx fun t => decide (t.replies = [.loaded (some (2 ^ 60 + 2))]) && (ctxOf t 1).imgs.map (·.1) == [1, 2] &&
      (standCores 2 false).length == 4 && (List.range 4).all (fun k => (tmplOf (tget image1 (ctxOf t 1).imgs 2) k).map (·.1) == if k == 0 then [0, 255] else [255]) &&
      ((tmplOf (tget image1 (ctxOf t 1).imgs 2) 0).map (fun e => (e.2.w0.toNat, e.2.w1.toNat, e.2.w3.toNat))).getLast? == some (0x8010000000000000, 0x3F0000, 0xC004)) = true ∧
    ([bad, big, { l with verifies := false, signed := true }].all fun x => (loadImage sCtx x).isNone && leaves (.hostMemoryAccess { a with region := .image x }) sCtx { sCtx with replies := [.loaded none] }) = true := by
  decide +kernel

/-- The context takes signed code alone; a producer record declares a place; a section and an argument region are mapped; 256 entries are
too many. -/
theorem witness_MajorityAndMigration_signed :
    let l : Load := { ctx := 1, stand := 2, roots := false, majs := [], image := { image1 with tmpl := [(0, [(0, entry 0x10000 (hbm 0x100000) 0xDC00 1)])] }, argVa := 0x1F0000, argReg := 7 }
    let s := modCtx sCtx 1 fun c => { c with record := c.record ||| BitVec.ofNat 1024 (at_ 1 2) }
    let q := { l with image := { l.image with prods := [(1, BitVec.ofNat 1024 (at_ 34 1))] } }
    let full := { l with image := { image1 with tmpl := [(0, (List.range 256).map fun i => (i, entry (0x10000 * (i + 1)) (hbm 0x100000) 0xDC00 1))] } }
    (recN (ctxOf s 1).record 1 1).testBit 1 = true ∧ (recN (ctxOf sCtx 1).record 1 1).testBit 1 = false ∧ (loadImage s l).isNone = true ∧ (loadImage s { l with signed := true }).isSome = true ∧
    (loadImage s { l with signed := true, verifies := false }).isNone = true ∧ recN (BitVec.ofNat 1024 (at_ 34 1)) 34 1 ≠ 0 ∧ (loadImage sCtx q).isNone = true ∧
    (loadImage sCtx full).isNone = true ∧
    (loadImage sCtx l).map (fun x => ((tmplOf (tget image1 (ctxOf x.2 1).imgs 2) 0).map fun e => (e.1, e.2.reg)).getLast?) = some (some (255, 7)) := by decide +kernel

theorem witness_MajorityAndMigration_operation :
    let m := mjsOf sSet 0
    ([true, false].all fun l =>
      let s := sMjAt l
      decide ((strmOf s s.focus).stage = 8 ∧ (strmOf s s.focus).mjok = none) && mayAct s s.focus && (coreOf s 5).roll.isEmpty && allDone s s.focus && (majoritySlot s s.focus).map (·.1) == some l &&
        reach s { askLoad with wr := true, timed := false, coreWr := true, major := true } ((strmOf s s.focus).reg 12) == some (hbm 0x200000) &&
        reach s (if l then { askStore with own := true } else { askLoad with timed := false, own := true }) ((strmOf s s.focus).reg 1) == some (5 * 2 ^ 22)) = true ∧
    mjSet (hbm 0x200000) = 0 ∧ m.need ≤ (m.answers sSet (cellOf (hbm 0x200000))).length := by decide +kernel

/-- The same bundle in protected mode, held for its compare. -/
def sMjHeld : State := let s := sMjAt true
  putCore s 5 { coreOf s 5 with split := false, roll := [] }

theorem witness_CompareTokensAndProduction_held :
    (coreOf sMjHeld 5).roll = [] ∧ heldForCompare sMjHeld ⟨5, false⟩ = true ∧
    (after (.lockstepCompare 5 false 2) sMjHeld fun t => decide ((archOf t 5).run = .stopped ∧ (strmOf t ⟨5, false⟩).s = (strmOf sMjHeld ⟨5, false⟩).s)) = true := by
  decide +kernel

/-- Region 2 moves from HBM offset 0x100000 to 0x300000: one granule. -/
def sMig (st : Nat) : State :=
  let x := { Mig.idle with mds0 := BitVec.ofNat 56 (hbm 0x300000), mctx := 1, mreg := 2, mst := st, src0 := hbm 0x100000, size := 128, dirty := [1] }
  let e := { entry 0x20000 (hbm 0x100000) 0xC000 2 with w0 := BitVec.ofNat 64 (2 ^ 63 + 7 * 2 ^ 48 + 0x20000) }
  let s := modCtx sShadow 1 fun c => { c with imgs := [(1, { image1 with tmpl := [(0, [(0, e)])] })] }
  { s with hub := { s.hub with migs := [(3, x)] }, mem := writeN s.mem (canon (hbm 0x100040)) 0x77 1 1 }

/-- What core 5 and core 9 hold of region 2: the residency, and the base. -/
def region2 (t : State) : List (Nat × Nat) := ([5, 4, 9].map fun c => ((archOf t c).tab.filter fun z => z.2.reg == 2).map fun z => (z.2.res, z.2.w1.toNat)).flatten

theorem witness_MajorityAndMigration_migration :
    let b := hbm 0x100000
    migCause (sMig 0) 3 (migOf (sMig 0) 3) = 0 ∧ migCause (modCtx (sMig 0) 1 fun c => { c with state := 2 }) 3 (migOf (sMig 0) 3) = 1 ∧
    sourceBusy (sMig 4) (migOf (sMig 4) 3) = false ∧ rowsOut (sMig 4) 3 = false ∧ (migOf (sMig 4) 3).spans.all (fun a => paPkg a == 0) = true ∧ (ctxOf (sMig 1) 1).state = 1 ∧
    (let u := { sMig 2 with hub := { (sMig 2).hub with marea := BitVec.ofNat 56 (hbm 0x2000000) } }
     u.hub.marea.toNat % 2 ^ 25 = 0 ∧ hostByte u (hbm 0x2000000 + 2 ^ 23 * 3) = 2 ∧ hostByte u (hbm 0x2000000 + 2 ^ 23 * 3 + 1) = 0) ∧
    (let b4 := { sMig 4 with fab := { (sMig 4).fab with retry := [{ hdr := 0, data := 0, core := migrationId, req := none, cmd := some 3, refd := false, sent := true }] } }
     rowsOut b4 3 = true ∧ leaves (.migrationPhase 3 false) b4 b4 = true) ∧
    (after (.migrationStart 3) (sMig 0) fun t => decide ((migOf t 3).mst = 1 ∧ (migOf t 3).dirty = [] ∧ (migOf t 3).src0 = b ∧ (migOf t 3).size = 128)) = true ∧
    (after (.migrationStart 3) (modCtx (sMig 0) 1 fun c => { c with state := 2 }) fun t => decide ((migOf t 3).mst = 0)) = true ∧
    ([5, 6].all fun n => after (.migrationReset 3) (sMig n) fun t => decide ((migOf t 3).mst = 0)) = true ∧
    (after (.migrationPhase 3 false) (sMig 1) fun t => decide ((migOf t 3).mst = 2 ∧ region2 t = [(2, b), (2, b), (2, b)] ∧ rowAt t (hbm 0x300040) = 0x77)) = true ∧
    (after (.migrationPhase 3 false) (sMig 2) fun t => decide ((migOf t 3).mst = 3)) = true ∧
    (after (.migrationPhase 3 false) (sMig 3) fun t => decide ((migOf t 3).mst = 3 ∧ (migOf t 3).mpass = 1 ∧ (migOf t 3).dirty = [] ∧ rowAt t (hbm 0x300040) = 0x77)) = true ∧
    (after (.migrationPhase 3 false) (sMig 4) fun t => decide ((migOf t 3).mst = 5 ∧ region2 t = [(0, hbm 0x300000), (0, hbm 0x300000), (0, hbm 0x300000)])) = true ∧
    ([1, 2, 3, 4].all fun n => after (.migrationPhase 3 true) (sMig n) fun t => decide ((migOf t 3).mst = 6 ∧ (migOf t 3).dirty = [])) = true := by decide +kernel

/-! ### Witnesses: frames, steps, encodings -/

theorem witness_ComputeFrame :
    let i := Instr.add sc ⟨31, 2, 5, 0, 0, 0, 0, 0⟩
    i.slot? = some sc ∧ i.wf = true ∧ sc.isSc = true ∧ (after i s5 fun t => decide (t.hub = s5.hub)) = true := by decide +kernel

/-- A bundle with an `add` of s2 and s5 to s31 in slot 0, and in slot 1 a `sub` when `two`. -/
def sTwo (two : Bool) : State :=
  let w := fun (i : Instr) => ((encode i).getD 0).toNat
  let a := w (.add ⟨0, false, 0, false⟩ ⟨31, 2, 5, 0, 0, 0, 0, 0⟩)
  let b := w (.sub ⟨1, false, 0, false⟩ ⟨30, 2, 5, 0, 0, 0, 0, 0⟩)
  let s := { s5 with mem := writeN s5.mem (5 * 2 ^ 22 + 0x100) (if two then 3 + a * 2 ^ 48 + b * 2 ^ 96 else 1 + a * 2 ^ 48) (2 ^ 18 - 1) 18 }
  modStrm s s.focus fun x => { x with pc := 0x10100, due := .bundle, blk := { x.blk with hdr := 0x10000, ext := 0x10200 } }

/-- What both clauses on a bundle ask. -/
def bundleClear (s : State) (b : Fetched) : Bool :=
  let k := s.focus
  let x := strmOf s k
  let p := atBundle s k b
  mayAct s k && (boundary s k).isNone && !x.anyDue && x.tabAt.isNone && s.upsets.isEmpty && !x.resto && decide (x.due = .bundle) && !b.slots.isEmpty && !badHeader s k b && (badSlot p b).isNone && !badShape b &&
    !tooHeavy s k b && !limiterHolds s k b && (waitHold x b.hdr).isNone && !popsEmpty s k b.hdr && !sameRow p b.instrs && !collide p b.instrs && !undClash p b.instrs && !popsAfter p b.instrs && decide (votes p b.instrs = ([], none))

theorem witness_StepRunsTheDecodedInstruction :
    ([true, false].all fun two =>
      let s := sTwo two
      let k := s.focus
      match fetchBundle s 5 0x10100 with
      | .error _ => false
      | .ok b =>
        let p := atBundle s k b
        let f := foldBundle p p b.instrs
        bundleClear s b && f.low.isNone && f.trap.isNone && f.high.isNone && f.last.isNone && !f.check &&
        (two || (match b.slots, runSlot sc (slotIssue (.add sc ⟨31, 2, 5, 0, 0, 0, 0, 0⟩)) p p with
          | [(q, .ok i)], .ok t => decide (q = 0 ∧ i = .add sc ⟨31, 2, 5, 0, 0, 0, 0, 0⟩ ∧ (archOf s 5).main.pipe.rep = none ∧ (archOf s 5).main.pipe.nest = none ∧
              (strmOf t k).pipe.ops.length = 1)
          | _, _ => false))) = true ∧
    (after (.bundle ⟨s5.focus, []⟩) (sTwo true) fun t => decide ((strmOf t s5.focus).pc = 0x10112 ∧ (strmOf t s5.focus).pipe.ops.map (fun y => (y.dst, y.val.toNat)) =
      [(.s 31, 13), (.s 30, 2 ^ 64 - 3)] ∧ (strmOf t s5.focus).ccnt = 1)) = true ∧
    (after (.bundle ⟨s5.focus, []⟩) (sTwo false) fun t => decide ((strmOf t s5.focus).pc = 0x1010C)) = true := by decide +kernel

theorem witness_StepRunsTheDecodedInstruction_agenda :
    let s := { s5 with agenda := [.thermalSample [], .chainTick] }
    s.agenda = .thermalSample [] :: [.chainTick] ∧ s5.agenda = [] ∧
    (match step s with
      | .next t => t.agenda == [.chainTick]
      | _ => false) = true := by decide +kernel

theorem witness_DecodeEncode : (match decodeSlot 1 0x140CA5FFFFFF with
    | .ok i => encode i == some 0x140CA5FFFFFF
    | .error _ => false) = true := by decide +kernel

theorem witness_StepKeepsInv : Inv State.reset ∧ (match step State.reset with
    | .next t => memWf t.mem && t.hub.htck == 1
    | _ => false) = true := by unfold Machine.Inv; decide +kernel

theorem witness_EncodeDecode : (Instr.add sc ⟨31, 2, 5, 0, 0, 0, 0, 0⟩).wf = true ∧ (Instr.chainTick).slot? = none ∧ encode .chainTick = none := by decide +kernel

end Sys2Proof.Tests
end

/-!
The cluster forms that are not elementwise (R119 to R131): what the elements of a row that was joined, merged or masked are, what
the mould writes, how a cluster slot issues, and from these O15 to O18.
-/
namespace Sys2Proof.VectorProofs
open Sys2Proof.Machine Sys2Proof.Laws

/-! ### Elements of rows (R15) -/

theorem testBit_fld (x lo w i : Nat) : (fld x lo w).testBit i = (decide (i < w) && x.testBit (lo + i)) := by
  rw [fld, Nat.testBit_mod_two_pow, Nat.testBit_div_two_pow, Nat.add_comm]

@[simp] theorem fld_mod (x lo w : Nat) : fld x lo w % 2 ^ w = fld x lo w := Nat.mod_mod _ _

@[simp] theorem elem_mod (w : Nat) (r : Row) (e : Nat) : elem w r e % 2 ^ w = elem w r e := fld_mod _ _ _

@[simp] theorem wf_low {n : Nat} (x : BitVec n) (w : Nat) : wf x 0 w = x.toNat % 2 ^ w := by simp [wf, fld]

theorem testBit_elem (w : Nat) (r : Row) (e i : Nat) : (elem w r e).testBit i = (decide (i < w) && r.getLsbD (e * w + i)) :=
  testBit_fld _ _ _ _

/-- An element that is among those of a row lies within the row. -/
theorem elem_fits {w e : Nat} (he : e < 512 / w) : e * w + w ≤ 512 :=
  calc e * w + w = (e + 1) * w := (Nat.succ_mul e w).symm
    _ ≤ 512 / w * w := Nat.mul_le_mul_right w he
    _ ≤ 512 := Nat.div_mul_le_self 512 w

/-- An element of a number cut to a row is a field of that number. -/
theorem elem_ofNat {w e : Nat} (n : Nat) (he : e < 512 / w) : elem w (BitVec.ofNat 512 n) e = fld n (e * w) w := by
  have fits := elem_fits he
  apply Nat.eq_of_testBit_eq
  intro i
  rw [testBit_elem, testBit_fld, BitVec.getLsbD_ofNat]
  by_cases hi : i < w
  · simp [hi, show e * w + i < 512 by omega]
  · simp [hi]

/-- A field of elements joined is the element at its place. -/
theorem fld_joinN (w : Nat) (l : List Nat) (e : Nat) : fld (joinN w l) (e * w) w = l.getD e 0 % 2 ^ w := by
  induction l generalizing e with
  | nil => simp [joinN, fld]
  | cons x t ih =>
    cases e with
    | zero => simp [joinN, fld]
    | succ e =>
      have low : (x % 2 ^ w + 2 ^ w * joinN w t) / 2 ^ w = joinN w t := by
        rw [Nat.add_mul_div_left _ _ (Nat.two_pow_pos w), Nat.div_eq_of_lt (Nat.mod_lt _ (Nat.two_pow_pos w)), Nat.zero_add]
      rw [List.getD_cons_succ, ← ih e]
      simp only [fld, joinN]
      rw [Nat.succ_mul, Nat.add_comm (e * w), Nat.pow_add, ← Nat.div_div_eq_div_mul, low]

/-- An element of a row made of elements is the one at its place. -/
theorem elem_ofElems {w e : Nat} (l : List Nat) (he : e < 512 / w) : elem w (ofElems w l) e = l.getD e 0 % 2 ^ w := by
  rw [ofElems, elem_ofNat _ he, fld_joinN]

/-- The same of a row whose elements are listed by number. -/
theorem elem_ofElems_range {w e n : Nat} (g : Nat → Nat) (he : e < 512 / w) :
    elem w (ofElems w ((List.range n).map g)) e = if e < n then g e % 2 ^ w else 0 := by
  rw [elem_ofElems _ he]
  by_cases h : e < n <;> simp [List.getD, h]

/-- A lane of the bits that a lane mask governs: all ones or none (R16). -/
theorem elem_laneBits {k : Nat} (m : BitVec 16) (hk : k < 16) :
    elem 32 (laneBits m) k = if m.getLsbD k then 2 ^ 32 - 1 else 0 := by
  rw [show laneBits m = ofElems 32 _ from rfl, elem_ofElems_range _ (by simpa using hk), if_pos hk]
  split <;> rfl

/-- Every element of the mask of a whole row is all ones. -/
theorem elem_maskAll {w e : Nat} (he : e < 512 / w) : elem w maskAll e = 2 ^ w - 1 := by
  have fits := elem_fits he
  apply Nat.eq_of_testBit_eq
  intro i
  rw [maskAll, elem_ofNat _ he, testBit_fld, Nat.testBit_two_pow_sub_one 512, Nat.testBit_two_pow_sub_one w]
  by_cases hi : i < w
  · simp [hi, show e * w + i < 512 by omega]
  · simp [hi]

/-- An element of a row merged from two by bits, where the selector's element is all ones or none, is that of one of them. -/
theorem elem_select {w e : Nat} (a b sel : Row) (c : Bool) (he : e < 512 / w) (hs : elem w sel e = if c then 2 ^ w - 1 else 0) :
    elem w ((a &&& sel) ||| (b &&& ~~~sel)) e = if c then elem w a e else elem w b e := by
  have fits := elem_fits he
  apply Nat.eq_of_testBit_eq
  intro i
  by_cases hi : i < w
  · have bit : sel.getLsbD (e * w + i) = c := by
      have := congrArg (Nat.testBit · i) hs
      rw [testBit_elem] at this
      cases c <;> simpa [hi, Nat.testBit_two_pow_sub_one] using this
    have within : e * w + i < 512 := by omega
    cases c <;> simp [testBit_elem, -BitVec.getLsbD_eq_getElem, hi, within, bit]
  · cases c <;> simp [testBit_elem, hi]

/-! ### What the mould writes (R111) -/

/-- A result writes the elements `on` of width `w`, each with its value, and has the flags of those written. -/
def Moulds (r : VRes) (w : Nat) (on : Nat → Bool) (val : Nat → Nat × Flags) : Prop :=
  r.flags = (List.range (512 / w)).foldl (fun f e => if on e then f ||| (val e).2 else f) 0 ∧
  ∀ e, e < 512 / w → elem w r.mask e = (if on e then 2 ^ w - 1 else 0) ∧ (on e = true → elem w r.val e = (val e).1 % 2 ^ w)

theorem vMapP_moulds (w : Nat) (on : Nat → Bool) (op : Nat → Nat × Flags) : Moulds (vMapP w on op) w on op := by
  refine ⟨?flags, fun e he => ⟨?mask, fun hon => ?val⟩⟩
  case flags =>
    simp only [vMapP, List.foldl_map]
    congr 1
    funext f e
    split <;> simp
  case mask =>
    simp only [vMapP, List.map_map, Function.comp_def]
    rw [elem_ofElems_range _ he, if_pos he]
    split
    · exact Nat.mod_eq_of_lt (Nat.sub_lt (Nat.two_pow_pos w) Nat.one_pos)
    · exact Nat.zero_mod _
  case val =>
    simp only [vMapP, List.map_map, Function.comp_def]
    rw [elem_ofElems_range _ he, if_pos he, hon]
    rfl

theorem vMap_moulds (w : Nat) (m : BitVec 16) (op : Nat → Nat × Flags) :
    Moulds (vMap w m op) w (fun e => m.getLsbD (e * w / 32)) op := vMapP_moulds w _ op

/-- In lanes, the lane mask has one bit for each element. -/
theorem vMap_lanes (m : BitVec 16) (op : Nat → Nat × Flags) : Moulds (vMap 32 m op) 32 (fun k => m.getLsbD k) op := by
  simpa using vMap_moulds 32 m op

/-- A gathering that none of its items changes. -/
theorem foldl_eq_self {α β : Type} {f : α → β → α} {a : α} (fixed : ∀ b, f a b = a) (l : List β) : l.foldl f a = a := by
  induction l with
  | nil => rfl
  | cons b t ih => rw [List.foldl_cons, fixed, ih]

/-- Two gatherings that agree on every item. -/
theorem foldl_congr_mem {α β : Type} {f g : α → β → α} {l : List β} (agree : ∀ a, ∀ b ∈ l, f a b = g a b) (a : α) :
    l.foldl f a = l.foldl g a := by
  induction l generalizing a with
  | nil => rfl
  | cons b t ih =>
    rw [List.foldl_cons, List.foldl_cons, agree a b List.mem_cons_self]
    exact ih (fun a c hc => agree a c (List.mem_cons_of_mem b hc)) _

/-- No flag is raised where none of the elements raises one. -/
theorem foldl_noFlags (on : Nat → Bool) (l : List Nat) (f : Flags) : l.foldl (fun f e => if on e then f ||| 0 else f) f = f := by
  refine foldl_eq_self (fun e => ?_) l
  split
  · exact BitVec.or_zero
  · rfl

/-- A result that raises no flag is known by its elements. -/
theorem moulds_noFlags {val mask : Row} {w : Nat} {on : Nat → Bool} {op : Nat → Nat}
    (hm : ∀ e, e < 512 / w → elem w mask e = if on e then 2 ^ w - 1 else 0)
    (hv : ∀ e, e < 512 / w → on e = true → elem w val e = op e % 2 ^ w) :
    Moulds { val := val, mask := mask, flags := 0 } w on (fun e => (op e, 0)) :=
  ⟨(foldl_noFlags on _ 0).symm, fun e he => ⟨hm e he, hv e he⟩⟩

/-! ### The slot's issue (R59, R113) -/

/-- A result that is the same in both pipeline modes (R217). -/
@[simp] theorem lat_self (s : State) (k : Sid) (n : Nat) : lat s k n n = n := ite_self n

/-- The latency of the groups that differ by type (R113). -/
theorem lat_vLat (s : State) (t i im f fm : Nat) : lat s s.focus (vLat t i im f fm).1 (vLat t i im f fm).2 =
    if t < 3 then lat s s.focus f fm else lat s s.focus i im := by
  unfold vLat etF
  by_cases h : t < 3 <;> simp [h]

section
variable {s : State} {h : Slot} {opc : BitVec 8} {codes : List (BitVec 6)} {dst : Dst} {full merged : Nat}
  {latch : Latched} {r : VRes} {i : Instr} {g : State → State → SlotRes}

/-- A cluster slot with its queue heads full puts its result in flight. -/
theorem vaGo_ok (heads : HeadsFull s codes) : vaGo h opc codes dst full merged latch r s s =
    .ok (emit s (mkFlight s h opc dst r.val r.mask (lat s s.focus full merged) r.flags latch)) := by
  have : codes.any (emptyHead s) = false := by simpa [HeadsFull] using heads
  simp [vaGo, this]

/-- An instruction that is the issue of a cluster slot writes the elements that its result moulds. -/
theorem writesElements_of_vaGo {w l : Nat} {on : Nat → Bool} {val : Nat → Nat × Flags} (run : slotOn s h = true)
    (heads : HeadsFull s codes) (step : exec i s = slotStep h g s) (issue : g s s = vaGo h opc codes dst full merged latch r s s)
    (late : lat s s.focus full merged = l) (res : Moulds r w on val) : WritesElements s i h dst l w on val latch := by
  obtain ⟨flags, elems⟩ := res
  subst late
  exact ⟨_, step.trans (slotStep_ok run (issue.trans (vaGo_ok heads))), rfl, rfl, rfl, rfl, rfl, rfl, flags, elems⟩

end

/-- What is asked of the heads of all operands holds of those that an instruction reads (R59). -/
theorem headsFull_of_subset {s : State} {l l' : List (BitVec 6)} (heads : HeadsFull s l) (sub : l' ⊆ l) : HeadsFull s l' :=
  fun c hc => heads c (sub hc)

theorem headsFull_nil (s : State) : HeadsFull s [] := by simp [HeadsFull]

/-- A mask form puts its 16 bits in flight (R130). -/
theorem writesRow_of_vaMask {s : State} {h : Slot} {o : VaF} {opc : BitVec 8} {v : BitVec 16} {i : Instr}
    {g : State → State → SlotRes} (run : slotOn s h = true) (step : exec i s = slotStep h g s) (issue : g s s = vaMask h o opc v s s) :
    WritesRow s i h (.m (vaC h) o.vd.toNat) 1 (v.setWidth 512) (BitVec.ofNat 512 0xFFFF) := by
  have ok := slotStep_ok run (issue.trans (vaGo_ok (headsFull_nil s)))
  refine ⟨_, step.trans ok, rfl, rfl, ?_, rfl, ?_, rfl, rfl, rfl⟩
  · rw [lat_self]; rfl
  · simp [mkFlight, BitVec.ofNat_toNat]

/-! ### Selection, copies, splats, insertion, shuffle and rotation (R120 to R124) -/

/-- Selection: every lane is written, with that of the first operand where the mask has a one (R120). -/
theorem select_moulds (a b : Row) (m : BitVec 16) :
    Moulds { val := (a &&& laneBits m) ||| (b &&& ~~~laneBits m), mask := maskAll, flags := 0 } 32 (fun _ => true)
      (fun k => (if m.getLsbD k then elem 32 a k else elem 32 b k, 0)) := by
  refine moulds_noFlags (fun k hk => elem_maskAll hk) fun k hk _ => ?_
  rw [elem_select a b _ _ hk (elem_laneBits m hk)]
  split <;> exact (elem_mod ..).symm

/-- A row of which the lanes of a mask are written as they stand. -/
theorem lanes_moulds (a : Row) (m : BitVec 16) :
    Moulds { val := a, mask := laneBits m, flags := 0 } 32 (fun k => m.getLsbD k) (fun k => (elem 32 a k, 0)) :=
  moulds_noFlags (fun _ hk => elem_laneBits m hk) fun _ _ _ => (elem_mod ..).symm

/-- A lane of a number shifted down by some bits (R124). -/
theorem elem_ofNat_shifted {k : Nat} (n b : Nat) (hk : k < 16) :
    elem 32 (BitVec.ofNat 512 (n / 2 ^ b)) k = n / 2 ^ (b + 32 * k) % 2 ^ 32 := by
  rw [elem_ofNat _ (by simpa using hk), fld, Nat.div_div_eq_div_mul, ← Nat.pow_add, Nat.mul_comm k]

theorem shifted_moulds (n b : Nat) (m : BitVec 16) :
    Moulds { val := BitVec.ofNat 512 (n / 2 ^ b), mask := laneBits m, flags := 0 } 32 (fun k => m.getLsbD k)
      (fun k => (n / 2 ^ (b + 32 * k) % 2 ^ 32, 0)) :=
  moulds_noFlags (fun _ hk => elem_laneBits m hk) fun _ hk _ => by rw [elem_ofNat_shifted n b hk, Nat.mod_mod]

/-- A splat of the low bits of a scalar register (R121). -/
theorem vMapP_low {n : Nat} (w : Nat) (on : Nat → Bool) (x : BitVec n) :
    Moulds (vMapP w on (fun _ => (wf x 0 w, 0))) w on (fun _ => (x.toNat % 2 ^ w, 0)) := by
  simpa using vMapP_moulds w on (fun _ => (wf x 0 w, 0))

/-- Settles O15: each form is the issue of a cluster slot, and what its result writes is said by one lemma for each shape. -/
theorem vectorMoves : Obligations.VectorMoves := by
  intro h o s run heads c w m on a b go
  have one : lat s s.focus 1 1 = 1 := lat_self ..
  have headA : HeadsFull s [o.va] := headsFull_of_subset heads (by simp)
  have noHeads := headsFull_nil s
  refine ⟨?vsel, ?vmov, ?vbcs, ?vext, ?vins, ?vshuf, ?vrmg⟩
  case vsel => exact writesElements_of_vaGo (g := issueVsel h o) run heads rfl rfl one (select_moulds a b m)
  case vmov => exact writesElements_of_vaGo (g := issueVmov h o) run headA rfl rfl one (lanes_moulds a m)
  case vbcs => exact writesElements_of_vaGo (g := issueVbcs h o) run noHeads rfl rfl one (vMapP_low w on _)
  case vext => exact writesElements_of_vaGo (g := issueVext h o) run headA rfl rfl one (vMap_moulds w m _)
  case vins => exact writesElements_of_vaGo (g := issueVins h o) run noHeads rfl rfl one (vMapP_low w _ _)
  case vshuf => exact writesElements_of_vaGo (g := issueVshuf h o) run heads rfl rfl one (vMap_moulds w m _)
  case vrmg => exact writesElements_of_vaGo (g := issueVrmg h o) run heads rfl rfl one (shifted_moulds _ _ m)

/-! ### Reduction, functions and random numbers (R122, R129, R131) -/

/-- A function of the lanes of one FP32 operand, 12 or 6 core cycles after issue (R129). -/
theorem writesElements_of_vUn {s : State} {h : Slot} {o : VaF} {opc : BitVec 8} {op : Nat → Nat × Flags} {i : Instr}
    {g : State → State → SlotRes} (run : slotOn s h = true) (heads : HeadsFull s [o.va]) (ft : o.ft = 0)
    (step : exec i s = slotStep h g s) (issue : g s s = vUn h o opc (12, 6) .none op s s) :
    WritesElements s i h (.v (vaC h) o.vd.toNat) (lat s s.focus 12 6) 32
      (fun k => (vMask s (vaC h) o.m).getLsbD k) (fun k => op (elem 32 (vOperand s (vaC h) o.va) k)) .none := by
  have width : etW o.ft.toNat = 32 := by rw [ft]; rfl
  rw [vUn, width] at issue
  exact writesElements_of_vaGo run heads step issue rfl (vMap_lanes _ _)

/-- Settles O16: the mould over lanes, for `vred` and `vrng` with an operation of their own and for the six functions with that
of the one operand. -/
theorem vectorLaneFunctions : Obligations.VectorLaneFunctions := by
  intro h o s run heads c m a x l z go
  have headA : HeadsFull s [o.va] := headsFull_of_subset heads (by simp)
  refine ⟨?vred, fun ft => ⟨?vexp2, ?vlog2, ?vrcp, ?vrsq, ?vsqrt, ?vtanh⟩, ?vrng⟩
  case vred => exact writesElements_of_vaGo (g := issueVred h o) run headA rfl rfl rfl (vMap_lanes m _)
  case vexp2 => exact writesElements_of_vUn (g := issueVexp2 h o) run headA ft rfl rfl
  case vlog2 => exact writesElements_of_vUn (g := issueVlog2 h o) run headA ft rfl rfl
  case vrcp => exact writesElements_of_vUn (g := issueVrcp h o) run headA ft rfl rfl
  case vrsq => exact writesElements_of_vUn (g := issueVrsq h o) run headA ft rfl rfl
  case vsqrt => exact writesElements_of_vUn (g := issueVsqrt h o) run headA ft rfl rfl
  case vtanh => exact writesElements_of_vUn (g := issueVtanh h o) run headA ft rfl rfl
  case vrng => exact writesElements_of_vaGo (g := issueVrng h o) run heads rfl rfl rfl (vMap_lanes m _)

/-! ### Conversions (R125 to R128) -/

/-- The three shapes of a conversion, by the numbers of elements of the two types, are one (R125): a widening count writes the
part that the source fills, a narrowing one reads a part of it, an equal one all. -/
theorem convert_moulds (w ns nd pt : Nat) (m : BitVec 16) (cv : Nat → Nat × Flags) :
    Moulds (if ns < nd then vMapP w (fun e => m.getLsbD (e * w / 32) && decide (e / ns = pt)) (fun e => cv (e % ns))
        else if nd < ns then vMap w m (fun e => cv (pt * nd + e)) else vMap w m cv) w
      (fun e => m.getLsbD (e * w / 32) && (if ns < nd then decide (e / ns = pt) else true))
      (fun e => cv (if ns < nd then e % ns else if nd < ns then pt * nd + e else e)) := by
  by_cases more : ns < nd
  · simpa only [more, if_true] using vMapP_moulds w _ _
  · by_cases fewer : nd < ns
    · simpa only [more, fewer, if_true, if_false, Bool.and_true] using vMap_moulds w m _
    · simpa only [more, fewer, if_false, Bool.and_true] using vMap_moulds w m cv

/-- An element of a pair of rows, read as an integer: the choice of the row stands inside the reading (R126). -/
theorem pack_moulds (w n : Nat) (m : BitVec 16) (f : Int → Nat × Flags) (rd : Nat → Int) (a b : Row) :
    Moulds (vMap w m (fun j => f (if j < n then rd (elem (2 * w) a j) else rd (elem (2 * w) b (j - n))))) w
      (fun e => m.getLsbD (e * w / 32)) (fun j => f (rd (if j < n then elem (2 * w) a j else elem (2 * w) b (j - n)))) := by
  simpa only [apply_ite rd] using vMap_moulds w m
    (fun j => f (if j < n then rd (elem (2 * w) a j) else rd (elem (2 * w) b (j - n))))

/-- Settles O17: each form is the mould over the elements of its result, and `vcvt` one of three moulds. -/
theorem vectorConversions : Obligations.VectorConversions := by
  intro h o s run heads c t w m a b hd dst l z u ns nd cv
  have headA : HeadsFull s [o.va] := headsFull_of_subset heads (by simp)
  have headAB : HeadsFull s [o.va, o.vb] := headsFull_of_subset heads (by simp)
  have headAC : HeadsFull s [o.va, o.vc] := headsFull_of_subset heads (by simp)
  have one : lat s s.focus 1 1 = 1 := lat_self ..
  refine ⟨?vcvt, fun _ => ?vpack, fun _ => ?vunpk, ?vqnt, ?vdqnt, ?vdot4⟩
  case vcvt => exact writesElements_of_vaGo (g := issueVcvt h o) run headA rfl rfl rfl (convert_moulds (etW u) ns nd o.vb.toNat m cv)
  case vpack =>
    exact writesElements_of_vaGo (g := issueVpack h o) run headAB rfl rfl one
      (pack_moulds w (ns / 2) m (fitT t (o.sat == 1)) (fun y => if etS t then sgn (2 * w) y else (y : Int)) a b)
  case vunpk => exact writesElements_of_vaGo (g := issueVunpk h o) run headA rfl rfl one (vMap_moulds (2 * w) m _)
  case vqnt => exact writesElements_of_vaGo (g := issueVqnt h o) run headAC rfl rfl rfl (vMapP_moulds w _ _)
  case vdqnt => exact writesElements_of_vaGo (g := issueVdqnt h o) run headAC rfl rfl rfl (vMap_lanes m _)
  case vdot4 => exact writesElements_of_vaGo (g := issueVdot4 h o) run heads rfl rfl rfl (vMap_lanes m _)

/-! ### Masks (R119, R130) -/

/-- The number of ones among the lowest bits is the number of the bits that are ones. -/
theorem onesN_eq_length_filter (k x : Nat) : onesN k x = ((List.range k).filter (fun i => x.testBit i)).length := by
  induction k generalizing x with
  | zero => rfl
  | succ k ih =>
    have tail : ((List.range k).map Nat.succ).filter (fun i => x.testBit i) =
        ((List.range k).filter (fun i => (x / 2).testBit i)).map Nat.succ := by
      rw [List.filter_map]
      simp [Function.comp_def, Nat.testBit_succ]
    rw [onesN, ih, List.range_succ_eq_map, List.filter_cons, tail]
    rcases Nat.mod_two_eq_zero_or_one x with h | h <;> simp [Nat.testBit_zero, h, Nat.add_comm]

/-- Flags gathered onto others are those others with the flags gathered. -/
theorem foldl_or_flags (l : List (Bool × Flags)) (f : Flags) :
    l.foldl (fun f x => f ||| x.2) f = f ||| l.foldl (fun f x => f ||| x.2) 0 := by
  induction l generalizing f with
  | nil => simp
  | cons x t ih =>
    rw [List.foldl_cons, List.foldl_cons, ih (f ||| x.2), ih (0 ||| x.2)]
    simp [BitVec.or_assoc]

/-- A single bit of a row as an element. -/
theorem elem_bit (r : Row) (e : Nat) : elem 1 r e = (r.getLsbD e).toNat := by
  simp [elem, fld, BitVec.getLsbD, Nat.toNat_testBit]

/-- The flags of the lanes of a compare: a lane outside the mask has none, and no bit beyond the sixteenth is written (R23). -/
theorem foldl_lane_flags (m : BitVec 16) (lane : Nat → List (Bool × Flags)) :
    ((List.range 16).map (fun k => if m.getLsbD k then lane k else [])).foldl (fun f l => l.foldl (fun f x => f ||| x.2) f) 0 =
      (List.range (512 / 1)).foldl
        (fun f k => if decide (k < 16) && m.getLsbD k then f ||| (lane k).foldl (fun f x => f ||| x.2) 0 else f) 0 := by
  rw [List.foldl_map, show 512 / 1 = 16 + 496 from rfl, List.range_add, List.foldl_append, List.foldl_map]
  rw [foldl_eq_self (l := List.range 496) (fun i => if_neg (by simp))]
  refine foldl_congr_mem (fun f k hk => ?_) 0
  rw [decide_eq_true (List.mem_range.1 hk), Bool.true_and]
  split
  · exact foldl_or_flags _ _
  · rfl

/-- A compare writes the bits of its lane mask, each the conjunction over the elements of its lane, with the flags of the lanes
written (R119, R23). -/
theorem compare_moulds (m : BitVec 16) (lane : Nat → List (Bool × Flags)) :
    let ls := (List.range 16).map (fun k => if m.getLsbD k then lane k else [])
    Moulds { val := BitVec.ofNat 512 (joinN 1 (ls.map (fun l => (l.all (·.1)).toNat))), mask := BitVec.ofNat 512 m.toNat
             flags := ls.foldl (fun f l => l.foldl (fun f x => f ||| x.2) f) 0 }
      1 (fun k => decide (k < 16) && m.getLsbD k) (fun k => (((lane k).all (·.1)).toNat, (lane k).foldl (fun f x => f ||| x.2) 0)) := by
  intro ls
  refine ⟨foldl_lane_flags m lane, fun k hk => ⟨?mask, fun hon => ?val⟩⟩
  case mask =>
    rw [BitVec.ofNat_toNat, elem_bit, BitVec.getLsbD_setWidth]
    by_cases h16 : k < 16
    · cases hm : m.getLsbD k <;> simp [h16, hm, -BitVec.getLsbD_eq_getElem, show k < 512 by omega]
    · simp [h16, BitVec.getLsbD_of_ge m k (by omega)]
  case val =>
    obtain ⟨h16, hm⟩ : k < 16 ∧ m.getLsbD k = true := by simpa using hon
    change elem 1 (ofElems 1 _) k = _
    rw [List.map_map, elem_ofElems_range _ hk, if_pos h16]
    simp [hm]

/-- Settles O18: a compare's row of bits, the three mask forms by one lemma, and the mould over lanes for the count. -/
theorem vectorMasks : Obligations.VectorMasks := by
  intro h o s run heads c t w m dst mk all
  refine ⟨?vcmp, ?vmand, ?vmor, ?vmnot, ?vmpop⟩
  case vcmp =>
    refine writesElements_of_vaGo (g := issueVcmp h o) run heads rfl rfl ?_ (compare_moulds m _)
    rw [lat_vLat, lat_self]
  case vmand => exact writesRow_of_vaMask (g := issueVmand h o) run rfl rfl
  case vmor => exact writesRow_of_vaMask (g := issueVmor h o) run rfl rfl
  case vmnot => exact writesRow_of_vaMask (g := issueVmnot h o) run rfl rfl
  case vmpop =>
    refine writesElements_of_vaGo (g := issueVmpop h o) run (headsFull_nil s) rfl rfl (lat_self ..) ?_
    rw [onesN_eq_length_filter]
    exact vMap_lanes m _

end Sys2Proof.VectorProofs

/-!
Memory and queues as slots and their homes reach them (R133 to R163).
-/
namespace Sys2Proof.MemoryProofs
open Sys2Proof.Machine Sys2Proof.Laws Sys2Proof.VectorProofs

/-! ### Reading the cores after an update -/

/-- A field that an update of a core keeps is the same in every core. -/
theorem archField_modArch {α : Type} (f : Arch → α) {g : Arch → Arch} (keeps : ∀ a, f (g a) = f a) (s : State) (c d : Nat) :
    f (archOf (modArch s c g) d) = f (archOf s d) := by
  by_cases hd : d = c
  · rw [hd, archOf_modArch_same, keeps]
  · rw [archOf_modArch_ne s g hd]

/-- A stream after an update of a core that keeps both streams. -/
theorem strmOf_modArch {g : Arch → Arch} (keeps : ∀ a b, (g a).stream b = a.stream b) (s : State) (c : Nat) (k : Sid) :
    strmOf (modArch s c g) k = strmOf s k := archField_modArch (fun a => a.stream k.side) (fun a => keeps a k.side) s c k.core

theorem sameCores_modArch (s : State) (c : Nat) (g : Arch → Arch) : SameCores s (modArch s c g) c := by
  intro d hd
  rw [coreOf_modArch, if_neg hd]

theorem sameOutside_modArch (s : State) (c : Nat) (g : Arch → Arch) : SameOutside s (modArch s c g) :=
  ⟨rfl, rfl, rfl, rfl, rfl, rfl, rfl, rfl, rfl, rfl, rfl, rfl⟩

/-- Equal cores have equal accessors. -/
theorem coreOf_congr {s t : State} (h : t.cores = s.cores) (c : Nat) : coreOf t c = coreOf s c := by rw [coreOf, h, coreOf]
theorem archOf_congr {s t : State} (h : t.cores = s.cores) (c : Nat) : archOf t c = archOf s c := by
  rw [archOf, coreOf_congr h, archOf]
theorem strmOf_congr {s t : State} (h : t.cores = s.cores) (k : Sid) : strmOf t k = strmOf s k := by
  rw [strmOf, archOf_congr h, strmOf]

/-! ### What an issuing access leaves alone (R57, R299) -/

theorem sameStorage_of_sameOutside {s t : State} (h : SameOutside s t) : SameStorage s t := by
  obtain ⟨agenda, focus, pkg, mem, poison, -, -, fab, can, health, flaws, replies⟩ := h
  exact ⟨agenda, focus, pkg, mem, poison, fab, can, health, flaws, replies⟩

theorem sameStorage_trans {s t u : State} (a : SameStorage s t) (b : SameStorage t u) : SameStorage s u := by
  obtain ⟨a1, a2, a3, a4, a5, a6, a7, a8, a9, a10⟩ := a
  obtain ⟨b1, b2, b3, b4, b5, b6, b7, b8, b9, b10⟩ := b
  exact ⟨b1.trans a1, b2.trans a2, b3.trans a3, b4.trans a4, b5.trans a5, b6.trans a6, b7.trans a7, b8.trans a8, b9.trans a9,
    b10.trans a10⟩

theorem sameCores_trans {s t u : State} {c : Nat} (a : SameCores s t c) (b : SameCores t u c) : SameCores s u c :=
  fun d hd => (b d hd).trans (a d hd)

theorem onlyAsks_trans {s t u : State} (a : OnlyAsks s t) (b : OnlyAsks t u) : OnlyAsks s u := by
  obtain ⟨sa, ca, oa, ea⟩ := a
  obtain ⟨sb, cb, ob, eb⟩ := b
  have focus : t.focus = s.focus := sa.2.1
  rw [focus] at cb eb
  rw [OnlyOps, focus] at ob
  have ops : OnlyOps s u := fun sd => by rw [ob sd, oa sd]
  refine ⟨sameStorage_trans sa sb, sameCores_trans ca cb, ops, ?_⟩
  rw [eb, ea, show archOf t s.focus.core = _ from congrArg Core.arch ea]

/-- An update of the issuing core that changes its requests and its table alone. -/
theorem onlyAsks_modArch {s : State} {g : Arch → Arch} (shape : ∀ a, g a = { a with reqs := (g a).reqs, tab := (g a).tab }) :
    OnlyAsks s (modArch s s.focus.core g) := by
  have streams : ∀ a b, (g a).stream b = a.stream b := fun a b => by rw [shape a]; cases b <;> rfl
  refine ⟨sameStorage_of_sameOutside (sameOutside_modArch s _ g), sameCores_modArch s _ g, fun sd => ?_, ?_⟩
  · rw [archOf_modArch_same, streams]
  · rw [archOf_modArch_same, coreOf_modArch, if_pos rfl]
    rw [shape (archOf s s.focus.core)]

/-- Where the cores stand, only storage has to. -/
theorem onlyAsks_of_cores {s t : State} (storage : SameStorage s t) (cores : t.cores = s.cores) : OnlyAsks s t := by
  refine ⟨storage, fun c _ => coreOf_congr cores c, fun sd => ?_, ?_⟩
  · rw [archOf_congr cores]
  · rw [archOf_congr cores, coreOf_congr cores]; rfl

/-! ### What is counted of an access before its request (R299, R360) -/

/-- Between the state before a slot and the one in which its request is made only counts and marks have changed: of the issuing
core its table, and outside the cores race tags and the nodes of contexts. -/
structure Counted (s u : State) : Prop where
  asks : OnlyAsks s u
  iss : u.iss = s.iss
  net : u.net = s.net
  reqs : (archOf u s.focus.core).reqs = (archOf s s.focus.core).reqs
  strm : ∀ k, strmOf u k = strmOf s k
  task : (archOf u s.focus.core).task = (archOf s s.focus.core).task
  chain : ∀ c, (ctxOf u c).chain = (ctxOf s c).chain

theorem Counted.focus {s u : State} (h : Counted s u) : u.focus = s.focus := h.asks.1.2.1
theorem Counted.pkg {s u : State} (h : Counted s u) : u.pkg = s.pkg := h.asks.1.2.2.1
theorem Counted.mem {s u : State} (h : Counted s u) : u.mem = s.mem := h.asks.1.2.2.2.1

theorem Counted.trans {s t u : State} (a : Counted s t) (b : Counted t u) : Counted s u where
  asks := onlyAsks_trans a.asks b.asks
  iss := b.iss.trans a.iss
  net := b.net.trans a.net
  reqs := by rw [← a.reqs, ← a.focus, b.reqs]
  strm k := (b.strm k).trans (a.strm k)
  task := by rw [← a.task, ← a.focus, b.task]
  chain c := (b.chain c).trans (a.chain c)

/-- Where the cores stand, storage and the chains of contexts have to. -/
theorem counted_of_cores {s t : State} (storage : SameStorage s t) (cores : t.cores = s.cores) (iss : t.iss = s.iss)
    (net : t.net = s.net) (chain : ∀ c, (ctxOf t c).chain = (ctxOf s c).chain) : Counted s t where
  asks := onlyAsks_of_cores storage cores
  iss := iss
  net := net
  reqs := by rw [archOf_congr cores]
  strm k := strmOf_congr cores k
  task := by rw [archOf_congr cores]
  chain := chain

theorem counted_refl (s : State) : Counted s s :=
  counted_of_cores ⟨rfl, rfl, rfl, rfl, rfl, rfl, rfl, rfl, rfl, rfl⟩ rfl rfl rfl fun _ => rfl

/-- Race tags are no part of what has to stand. -/
theorem counted_tags (s : State) (l : Tbl (BitVec 32)) : Counted s { s with tags := l } :=
  counted_of_cores ⟨rfl, rfl, rfl, rfl, rfl, rfl, rfl, rfl, rfl, rfl⟩ rfl rfl rfl fun _ => rfl

/-- An access counts in the entry it goes through (R299). -/
theorem counted_countHot (s : State) (i : Nat) : Counted s (countHot s s.focus.core i) where
  asks := onlyAsks_modArch fun _ => rfl
  iss := rfl
  net := rfl
  reqs := archField_modArch Arch.reqs (fun _ => by rfl) ..
  strm k := strmOf_modArch (fun _ b => by cases b <;> rfl) ..
  task := archField_modArch Arch.task (fun _ => by rfl) ..
  chain _ := rfl

/-- A change of a node leaves everything but the nodes of its context. -/
theorem modNode_spec (s : State) (c n : Nat) (g : Node → Node) : ∃ l, modNode s c n g = { s with hub := { s.hub with ctxs := l } } ∧
    ∀ d, (ctxOf (modNode s c n g) d).chain = (ctxOf s d).chain := by
  unfold modNode
  split
  · exact ⟨s.hub.ctxs, rfl, fun _ => rfl⟩
  · refine ⟨_, rfl, fun d => ?_⟩
    by_cases hd : d = c
    · rw [hd, ctxOf_modCtx_same]
    · rw [ctxOf_modCtx_ne _ _ hd]

/-- A write of a node's task is noted in the node (R360). -/
theorem counted_noteWrite (s : State) (c pa : Nat) : Counted s (noteWrite s c pa) := by
  unfold noteWrite
  split
  · exact counted_refl s
  · rename_i t _
    obtain ⟨l, same, chain⟩ := modNode_spec s t.ctx t.node fun n => if nodeOwns s n pa then n else { n with restart := false }
    rw [noteNodeWrite]
    refine counted_of_cores ?_ ?_ ?_ ?_ chain <;> rw [same]
    exact ⟨rfl, rfl, rfl, rfl, rfl, rfl, rfl, rfl, rfl, rfl⟩

@[simp] theorem noteWrite_tags (s : State) (c pa : Nat) : (noteWrite s c pa).tags = s.tags := by
  unfold noteWrite
  split
  · rfl
  · rename_i t _
    obtain ⟨l, same, -⟩ := modNode_spec s t.ctx t.node fun n => if nodeOwns s n pa then n else { n with restart := false }
    rw [noteNodeWrite, same]

/-- A scope holds the same homes. -/
theorem Counted.scopeHolds_eq {s u : State} (h : Counted s u) (scp pa : Nat) :
    scopeHolds u s.focus.core scp pa = scopeHolds s s.focus.core scp pa := by
  have chain : ∀ p, inChain u s.focus.core p = inChain s s.focus.core p := fun p => by simp only [inChain, h.task, h.chain]
  simp only [scopeHolds, h.pkg, chain]

/-- A request waits for the same ones. -/
theorem Counted.reqWaits_eq {s u : State} (h : Counted s u) (pa : Nat) (rels : List Nat) :
    reqWaits u s.focus pa rels = reqWaits s s.focus pa rels := by
  simp only [reqWaits, h.reqs, h.pkg, h.scopeHolds_eq]

theorem Counted.relScopes_eq {s u : State} (h : Counted s u) (store : Bool) (ord : BitVec 2) (scp : Nat) :
    relScopes u s.focus store ord scp = relScopes s s.focus store ord scp := by
  simp only [relScopes, h.strm]

/-! ### Requests (R57, R307 to R310) -/

/-- The request that a slot makes. -/
def newReq (s : State) (h : Slot) (op : ReqOp) (pa len : Nat) (data : Row) (mask : BitVec 64) (cmp : Word) (ord : BitVec 2) (scp : Nat)
    (hnd : Option Nat) (part : Bool) : Req :=
  let c := coreOf s s.focus.core
  let rels := relScopes s s.focus (op == .store) ord scp
  { id := s.ids, side := s.focus.side, slot := h.pos, pc := s.iss.pc, op := op, pa := pa, len := len, data := data, mask := mask
    cmp := cmp, acq := ord = 1, rel := ord = 2, scp := scp, hnd := hnd, wait := reqWaits s s.focus pa rels
    stg := if c.split ∨ op = .load then none else some c.seq, sent := false, sig := op != .load && !rels.isEmpty
    part := part, ctx := (nodeIds s s.focus.core).1, node := (nodeIds s s.focus.core).2 }

/-- Enter a request behind those of its core. -/
def addReq (r : Req) (a : Arch) : Arch := { a with reqs := a.reqs ++ [r] }

section
variable (s : State) (h : Slot) (op : ReqOp) (pa len : Nat) (data : Row) (mask : BitVec 64) (cmp : Word) (ord : BitVec 2)
  (scp : Nat) (hnd : Option Nat) (part : Bool)

theorem issueReq_eq : issueReq s h op pa len data mask cmp ord scp hnd part =
    (s.ids, { modArch s s.focus.core (addReq (newReq s h op pa len data mask cmp ord scp hnd part)) with ids := s.ids + 1 }) := rfl

/-- A request enters the issuing core's list, and of the rest of the state only the identities change. -/
theorem issueReq_isReq : IsReq s (issueReq s h op pa len data mask cmp ord scp hnd part).2
    (newReq s h op pa len data mask cmp ord scp hnd part) op pa len :=
  ⟨congrArg Arch.reqs (archOf_modArch_same s s.focus.core (addReq _)), rfl, rfl, rfl, rfl⟩

theorem issueReq_asks : OnlyAsks s (issueReq s h op pa len data mask cmp ord scp hnd part).2 :=
  onlyAsks_trans (onlyAsks_modArch (g := addReq _) fun _ => rfl)
    (onlyAsks_of_cores ⟨rfl, rfl, rfl, rfl, rfl, rfl, rfl, rfl, rfl, rfl⟩ rfl)

theorem issueReq_strm (k : Sid) : strmOf (issueReq s h op pa len data mask cmp ord scp hnd part).2 k = strmOf s k :=
  strmOf_modArch (g := addReq _) (fun _ b => by cases b <;> rfl) ..

end

/-- A request after counts were made is the one new since the state before them. -/
theorem Counted.isReq {s u t : State} (h : Counted s u) {r : Req} {op : ReqOp} {pa len : Nat} (req : IsReq u t r op pa len) :
    IsReq s t r op pa len := by
  obtain ⟨new, rest⟩ := req
  rw [NewReq, h.focus, h.reqs] at new
  rw [h.focus] at rest
  exact ⟨new, rest⟩

/-! ### The checks of an access (R136, R316 to R318) -/

theorem needBank_free {p : State} {pa : Nat} (free : BankFree p pa) (r : SlotRes) : needBank p pa r = r := by
  rw [BankFree] at free
  simp [needBank, free]

theorem needEntry_free {p : State} {side : Nat} (free : EntryFree p side) (r : SlotRes) : needEntry p side r = r := by
  rw [EntryFree] at free
  simp [needEntry, free]

theorem needOut_free {p : State} (free : OutFree p) (r : SlotRes) : needOut p r = r := by
  rw [OutFree] at free
  simp only [needOut]
  rw [decide_eq_false (by omega), Bool.and_false]
  rfl

theorem needFar_free {p : State} {pa : Nat} (room : paPkg pa = p.pkg.toNat ∨ OutFree p) (r : SlotRes) : needFar p pa r = r := by
  unfold needFar
  split
  · rfl
  · next far => exact needOut_free (room.resolve_left far) r

theorem withAccess_ok {p : State} {a : Ask} {va : Word} {i pa : Nat} {e : TEntry} (reached : access p p.focus.core a va = .ok (i, e, pa))
    (h : Slot) (g : Nat → TEntry → Nat → SlotRes) : withAccess h a va p g = g i e pa := by rw [withAccess, reached]

theorem raceLive_iff (s : State) (e : TEntry) (pa : Nat) : raceLive s e pa = true ↔ Checked s e pa := by
  simp [raceLive, Checked, and_assoc]

theorem acquiring_of_checkNow {s : State} (now : CheckNow s) : acquiring s = false := by
  simp only [acquiring, List.any_eq_false, Bool.and_eq_true, beq_iff_eq, not_and, Bool.not_eq_true]
  exact now.1

/-- What an unchecked access leaves of the tags: a store resets that of a row of a checked region (R316). -/
theorem raceStep_unchecked {s : State} {e : TEntry} {pa : Nat} (off : ¬Checked s e pa) (wr : Bool) :
    ∃ l, raceStep s s e pa wr = some { s with tags := l } ∧ TagsAfter s { s with tags := l } e pa wr := by
  have live : raceLive s e pa = false := by rw [← Bool.not_eq_true, raceLive_iff]; exact off
  rw [raceStep, live]
  by_cases drops : wr = true ∧ e.rck = true
  · obtain ⟨rfl, rck⟩ := drops
    by_cases here : paSpace pa = 0 ∧ paPkg pa = s.pkg.toNat
    · refine ⟨tput s.tags (pa / 64) (tget 0 s.tags (pa / 64) &&& ~~~8), by simp [rck, dropTag, here], ?_⟩
      exact ⟨fun r hr => tget_tput_ne _ _ _ hr, fun c => absurd c off, fun _ _ _ _ _ => tget_tput_same .., fun _ o => by simp [rck] at o⟩
    · refine ⟨s.tags, by simp [rck, dropTag, here], ?_⟩
      exact ⟨fun _ _ => rfl, fun c => absurd c off, fun _ _ _ sp pk => absurd ⟨sp, pk⟩ here, fun _ _ => rfl⟩
  · refine ⟨s.tags, by simp [drops], ?_⟩
    exact ⟨fun _ _ => rfl, fun c => absurd c off, fun _ w r _ _ => absurd ⟨w, r⟩ drops, fun _ _ => rfl⟩

theorem raceStep_checked {s : State} {e : TEntry} {pa : Nat} (on : Checked s e pa) (wr : Bool) :
    raceStep s s e pa wr = (TagOutcome s pa wr).map fun t => { s with tags := tput s.tags (pa / 64) t.bits } := by
  rw [raceStep, (raceLive_iff s e pa).2 on, if_pos rfl]
  show (match TagOutcome s pa wr with | none => none | some t => _) = _
  cases TagOutcome s pa wr <;> rfl

/-- An access that is not checked, or that its check lets pass, goes on with the tags as the check makes them. -/
theorem withCheck_passes {s : State} {e : TEntry} {pa : Nat} {wr : Bool}
    (ok : Checked s e pa → CheckNow s ∧ TagOutcome s pa wr ≠ none) (h : Slot) (va : Word) (g : State → SlotRes) :
    ∃ l, withCheck h va s s e pa wr g = g { s with tags := l } ∧ TagsAfter s { s with tags := l } e pa wr := by
  by_cases on : Checked s e pa
  · obtain ⟨now, clear⟩ := ok on
    obtain ⟨t, ht⟩ := Option.ne_none_iff_exists'.1 clear
    refine ⟨tput s.tags (pa / 64) t.bits, ?_, ?_⟩
    · simp [withCheck, now.2, acquiring_of_checkNow now, raceStep_checked on, ht]
    · refine ⟨fun r hr => tget_tput_ne _ _ _ hr, fun _ y hy => ?_, fun off => absurd on off, fun off => absurd on off⟩
      rw [ht] at hy
      cases hy
      exact tget_tput_same ..
  · have live : raceLive s e pa = false := by rw [← Bool.not_eq_true, raceLive_iff]; exact on
    obtain ⟨l, step, after⟩ := raceStep_unchecked on wr
    exact ⟨l, by simp [withCheck, live, step], after⟩

/-- A checked access that races is the race trap. -/
theorem withCheck_races {s : State} {e : TEntry} {pa : Nat} {wr : Bool} (on : Checked s e pa) (now : CheckNow s)
    (race : TagOutcome s pa wr = none) (h : Slot) (va : Word) (g : State → SlotRes) :
    withCheck h va s s e pa wr g = raceTrap s h va := by
  simp [withCheck, now.2, acquiring_of_checkNow now, raceStep_checked on, race]

/-- Only the tags of the state after an access matter to what is said of them. -/
theorem tagsAfter_congr {s t u : State} {e : TEntry} {pa : Nat} {wr : Bool} (same : u.tags = t.tags) (h : TagsAfter s t e pa wr) :
    TagsAfter s u e pa wr := by
  simpa only [TagsAfter, same] using h

/-! ### Stores (R140, R144) -/

/-- A store has issued: its request carries the data, the bytes and the order, waits for what it follows as a release at its own
scope or at that of a fence, and nothing else has changed (R310, R312). -/
def StoreAsked (s : State) (pa : Nat) (ord : BitVec 2) (scp len : Nat) (data : Row) (mask : BitVec 64) (t : State) : Prop :=
  ∃ r, IsReq s t r .store pa len ∧ r.data = data ∧ r.mask = mask ∧ (r.rel = true ↔ ord = 2) ∧ OnlyAsks s t ∧ t.net = s.net ∧
    (strmOf t s.focus).pipe = (strmOf s s.focus).pipe ∧
    ∀ q ∈ (archOf s s.focus.core).reqs, q.side = s.focus.side → q.eng = false →
      (ord = 2 ∧ scopeHolds s s.focus.core scp q.pa = true) ∨
        (∃ f, (strmOf s s.focus).relF = some f ∧ scopeHolds s s.focus.core f q.pa = true) → q.id ∈ r.wait

/-- A release waits for the stream's earlier requests that are homed in its scopes (R310, R312). -/
theorem mem_reqWaits_of_release {s : State} {q : Req} {rels : List Nat} (pa : Nat) (mem : q ∈ (archOf s s.focus.core).reqs)
    (side : q.side = s.focus.side) (own : q.eng = false) {f : Nat} (rel : f ∈ rels) (holds : scopeHolds s s.focus.core f q.pa = true) :
    q.id ∈ reqWaits s s.focus pa rels := by
  refine List.mem_map_of_mem (List.mem_filter.2 ⟨mem, ?_⟩)
  have any : rels.any (fun scp => scopeHolds s s.focus.core scp q.pa) = true := List.any_eq_true.2 ⟨f, rel, holds⟩
  simp [side, own, any]

theorem storeAsked_issueReq {s u : State} (h : Slot) (counted : Counted s u) (pa len : Nat) (data : Row) (mask : BitVec 64)
    (ord : BitVec 2) (scp : Nat) (part : Bool) :
    StoreAsked s pa ord scp len data mask (issueReq u h .store pa len data mask 0 ord scp none part).2 := by
  refine ⟨newReq u h .store pa len data mask 0 ord scp none part, counted.isReq (issueReq_isReq ..), rfl, rfl, by simp [newReq],
    onlyAsks_trans counted.asks (issueReq_asks ..), counted.net, ?pipe, fun q mem side own rel => ?wait⟩
  case pipe => rw [issueReq_strm, counted.strm]
  case wait =>
    show q.id ∈ reqWaits u u.focus pa (relScopes u u.focus true ord scp)
    rw [counted.focus, counted.reqWaits_eq, counted.relScopes_eq]
    obtain ⟨is2, holds⟩ | ⟨f, fence, holds⟩ := rel
    · exact mem_reqWaits_of_release pa mem side own (by simp [relScopes, is2]) holds
    · exact mem_reqWaits_of_release pa mem side own (by simp [relScopes, fence]) holds

/-- A slot whose meaning is a store issues it, or is the race trap. -/
theorem store_completes {h : Slot} {s : State} {pa len scp : Nat} {i : Instr} {va : Word} {ord : BitVec 2} {data : Row}
    {mask : BitVec 64} {part : Bool} {g : State → State → SlotRes} (run : slotOn s h = true) (free : BankFree s pa)
    (room : paPkg pa = s.pkg.toNat ∨ OutFree s) (step : exec i s = slotStep h g s)
    (issue : g s s = storeTo h va len data mask ord scp s s part) :
    AccessCompletes s h i askStore va pa (StoreAsked s pa ord scp len data mask) := by
  intro n e reached
  rw [storeTo, withAccess_ok reached] at issue
  have late : va.toNat % 2 ^ 48 = wf va 0 48 := (wf_low va 48).symm
  refine ⟨fun ok => ?passes, fun on now race => ?races⟩
  case passes =>
    obtain ⟨l, goes, tags⟩ := withCheck_passes (wr := true) ok h va _
    rw [goes, needBank_free free, needFar_free room] at issue
    have counted := ((counted_tags s l).trans (counted_countHot _ n)).trans (counted_noteWrite _ s.focus.core pa)
    exact ⟨_, step.trans (slotStep_ok run issue), tagsAfter_congr (noteWrite_tags ..) tags, storeAsked_issueReq h counted ..⟩
  case races =>
    rw [withCheck_races (wr := true) on now race] at issue
    rw [step, slotStep_trap run issue, late]

/-- The bytes of the lanes of a mask: four to a lane (R16, R140). -/
theorem getLsbD_laneBytes (m : BitVec 16) {i : Nat} (hi : i < 64) : (laneBytes m).getLsbD i = m.getLsbD (i / 4) := by
  have lane : i / 4 < 16 := by omega
  have bits : ∀ b : Bool, (if b then 15 else 0 : Nat).testBit (i % 4) = b := by
    have : i % 4 = 0 ∨ i % 4 = 1 ∨ i % 4 = 2 ∨ i % 4 = 3 := by omega
    rcases this with h | h | h | h <;> rw [h] <;> decide
  have fields := congrArg (Nat.testBit · (i % 4))
    (fld_joinN 4 ((List.range 16).map fun k => if m.getLsbD k then 15 else 0) (i / 4))
  rw [laneBytes, BitVec.getLsbD_ofNat, decide_eq_true hi, Bool.true_and]
  simp only [testBit_fld, Nat.testBit_mod_two_pow, show i % 4 < 4 by omega, decide_true, Bool.true_and, Nat.div_add_mod'] at fields
  rw [fields, List.getD_eq_getElem _ _ (by simpa using lane), List.getElem_map, List.getElem_range, bits]

/-- Settles O20: each form is one store, of a row, of the lanes of a mask or of a word. -/
theorem storesIssue : Obligations.StoresIssue := by
  intro h s pa run free room go
  refine ⟨fun o => ⟨?vst, laneBytes (vMask s (vlC h) o.m), ?vstm, fun i hi => getLsbD_laneBytes _ hi⟩, fun o => ?st⟩
  case vst => exact store_completes (g := issueVst h o) run free room rfl rfl
  case vstm => exact store_completes (g := issueVstm h o) run free room rfl rfl
  case st =>
    rw [← BitVec.ofNat_toNat]
    exact store_completes (g := issueSt h o) run free room rfl rfl

/-! ### Atomics (R146 to R149) -/

/-- A landing awaits a request and is the issuing stream's last operation in flight (R26). -/
theorem emitLanding_lands {s u : State} (p : State) (h : Slot) (opc : BitVec 8) (dst : Dst) (mask : Row) (shape : Shape) (arr : Nat)
    {r : Req} {id : Nat} (await : id = r.id) (focus : u.focus = s.focus) (strm : strmOf u s.focus = strmOf s s.focus) :
    Lands s (emitLanding p u h opc dst mask shape arr id) h r dst mask shape arr := by
  refine ⟨{ mkFlight p h opc dst 0 mask arr 0 .none with
    landing := true, shape := shape, req := id, got := false, rem := arr + 1 }, ?new, rfl, rfl, rfl, rfl, rfl, rfl, rfl, ?await⟩
  case new => rw [NewOp, emitLanding, ← focus, emit_strm, focus, strm]
  case await => exact await

theorem onlyAsks_emit (s : State) (x : Flight) : OnlyAsks s (emit s x) := by
  let g : Arch → Arch := fun a => a.withStream s.focus.side { strmOf s s.focus with
    pipe := { (strmOf s s.focus).pipe with ops := (strmOf s s.focus).pipe.ops ++ [x] } }
  have made : archOf (emit s x) s.focus.core = g (archOf s s.focus.core) := archOf_modArch_same s s.focus.core g
  refine ⟨sameStorage_of_sameOutside (emit_outside s x), emit_cores s x, fun sd => ?_, ?_⟩
  · rw [made, stream_withStream]
    split
    · next same => rw [same]; rfl
    · rfl
  · rw [made]
    refine (coreOf_modArch s _ _ g).trans ((if_pos rfl).trans ?_)
    cases side : s.focus.side <;> simp only [g, side] <;> rfl

theorem emit_reqs (s : State) (x : Flight) (c : Nat) : (archOf (emit s x) c).reqs = (archOf s c).reqs :=
  archField_modArch Arch.reqs (fun _ => by cases s.focus.side <;> rfl) ..


/-- An atomic that may go issues its request, and its landing when it is timed (R149). -/
def AtomAsked (s : State) (h : Slot) (o : SmF) (opc : BitVec 8) (pa : Nat) (t : State) (r : Req) : Prop :=
  IsReq s t r (.atom opc) pa 8 ∧ r.data = (rs s o.sb).setWidth 512 ∧ r.cmp = rs s o.sd ∧
    OnlyAsks s t ∧ t.hub = s.hub ∧ t.net = s.net ∧
    (o.arr = 0 → (strmOf t s.focus).pipe = (strmOf s s.focus).pipe) ∧
    (o.arr ≠ 0 → ∃ sh, Lands s t h r (if o.sd = 0 then .none else .s o.sd.toNat) mask64 sh o.arr.toNat ∧
      (opc ≠ 17 → sh = .word) ∧ (opc = 17 → sh = .half (pa.testBit 2)))

theorem testBit_of_fld (x i : Nat) : decide (fld x i 1 = 1) = x.testBit i := by
  rw [fld, Nat.pow_one, Nat.testBit_eq_decide_div_mod_eq]

theorem atomic_asks {s : State} {h : Slot} {o : SmF} {pa : Nat} (opc : BitVec 8)
    (reach : Reaches s (askAtomic (decide (o.arr ≠ 0))) (rs s o.sa + o.off.signExtend 64 * 8) pa) (free : BankFree s pa)
    (room : paPkg pa = s.pkg.toNat ∨ OutFree s) (entry : o.arr ≠ 0 → EntryFree s 8) :
    ∃ t r, atomic h opc o s s = .ok t ∧ AtomAsked s h o opc pa t r := by
  obtain ⟨i, e, reached⟩ := reach
  have counted := counted_countHot s i
  let q := issueReq (countHot s s.focus.core i) h (.atom opc) pa 8 (BitVec.ofNat 512 (rs s o.sb).toNat) 255 (rs s o.sd) o.ord
    o.scp.toNat none
  let r := newReq (countHot s s.focus.core i) h (.atom opc) pa 8 (BitVec.ofNat 512 (rs s o.sb).toNat) 255 (rs s o.sd) o.ord
    o.scp.toNat none false
  have made : IsReq s q.2 r (.atom opc) pa 8 := counted.isReq (issueReq_isReq ..)
  have asks : OnlyAsks s q.2 := onlyAsks_trans counted.asks (issueReq_asks ..)
  have strm : strmOf q.2 s.focus = strmOf s s.focus := by rw [issueReq_strm, counted.strm]
  have goes := withAccess_ok (va := eaWord (rs s o.sa) o.off) reached h
  by_cases untimed : o.arr = 0
  · have off : decide (o.arr ≠ 0) = false := decide_eq_false (not_not.2 untimed)
    rw [off] at goes
    refine ⟨q.2, r, ?_, made, BitVec.ofNat_toNat .., rfl, asks, rfl, rfl, fun _ => by rw [strm], absurd untimed⟩
    simp only [atomic, off, goes, needBank_free free, needFar_free room]
    rfl
  · have on : decide (o.arr ≠ 0) = true := decide_eq_true untimed
    rw [on] at goes
    let sh : Shape := if opc = 17 then .half (decide (fld pa 2 1 = 1)) else .word
    let t := emitLanding s q.2 h opc (if o.sd = 0 then .none else .s o.sd.toNat) mask64 sh o.arr.toNat q.1
    have reqs : (archOf t s.focus.core).reqs = (archOf q.2 s.focus.core).reqs := emit_reqs ..
    refine ⟨t, r, ?ends, by rw [IsReq, NewReq, reqs]; exact made, BitVec.ofNat_toNat .., rfl, onlyAsks_trans asks (onlyAsks_emit ..), rfl, rfl,
      fun z => absurd z untimed, fun _ => ⟨sh, emitLanding_lands (u := q.2) _ h opc _ _ _ _ rfl rfl strm, ?word, ?half⟩⟩
    case ends =>
      simp only [atomic, on, goes, needEntry_free (entry untimed), needBank_free free, needFar_free room]
      rfl
    case word => exact fun other => if_neg other
    case half => exact fun afadd => by rw [← testBit_of_fld]; exact if_pos afadd

/-- Settles O22: every form is the atomic of its opcode. -/
theorem atomicsIssue : Obligations.AtomicsIssue := by
  intro h o s pa run reach free room entry
  have issued : ∀ {i : Instr} {g : State → State → SlotRes} (opc : BitVec 8), exec i s = slotStep h g s →
      g s s = atomic h opc o s s → ∃ t r, exec i s = .next t ∧ AtomAsked s h o opc pa t r := by
    intro i g opc step issue
    obtain ⟨t, r, ends, asked⟩ := atomic_asks opc reach free room entry
    exact ⟨t, r, step.trans (slotStep_ok run (issue.trans ends)), asked⟩
  intro x hx
  simp only [List.mem_cons, List.not_mem_nil, or_false] at hx
  rcases hx with rfl | rfl | rfl | rfl | rfl | rfl | rfl | rfl | rfl | rfl | rfl
  · exact issued (g := issueAadd h o) 7 rfl rfl
  · exact issued (g := issueAand h o) 8 rfl rfl
  · exact issued (g := issueAor h o) 9 rfl rfl
  · exact issued (g := issueAxor h o) 10 rfl rfl
  · exact issued (g := issueAmin h o) 11 rfl rfl
  · exact issued (g := issueAmax h o) 12 rfl rfl
  · exact issued (g := issueAminz h o) 13 rfl rfl
  · exact issued (g := issueAmaxz h o) 14 rfl rfl
  · exact issued (g := issueAxch h o) 15 rfl rfl
  · exact issued (g := issueAcas h o) 16 rfl rfl
  · exact issued (g := issueAfadd h o) 17 rfl rfl

/-! ### Majority operations (R150 to R152) -/

theorem withBoth_ok {p : State} {a b : Ask} {va vb : Word} {x y : Nat × TEntry} {pa pb : Nat}
    (one : access p p.focus.core a va = .ok (x.1, x.2, pa)) (two : access p p.focus.core b vb = .ok (y.1, y.2, pb))
    (h : Slot) (g : Nat → Nat → Nat → Nat → SlotRes) : withBoth h a va b vb p g = g x.1 pa y.1 pb := by
  simp only [withBoth, one, two]

/-- A fence that passes changes of the issuing stream its mark alone, and of its core the two sets of releaser ids (R312, R317). -/
theorem passFence_strm (s : State) (k : Sid) (acq : Bool) (rel : Option Nat) :
    strmOf (passFence s k acq rel) k = { strmOf s k with relF := rel } := by
  rw [passFence, strmOf_modStrm_same]
  cases acq
  · rfl
  · rw [if_pos rfl, strmOf_modArch fun a b => ?keeps]
    case keeps => rw [addIds]; split <;> cases b <;> rfl

theorem modStrm_reqs (s : State) (k : Sid) (g : Machine.Stream → Machine.Stream) (c : Nat) :
    (archOf (modStrm s k g) c).reqs = (archOf s c).reqs :=
  archField_modArch Arch.reqs (fun _ => by cases k.side <;> rfl) ..

theorem passFence_reqs (s : State) (k : Sid) (acq : Bool) (rel : Option Nat) (c : Nat) :
    (archOf (passFence s k acq rel) c).reqs = (archOf s c).reqs := by
  rw [passFence, modStrm_reqs]
  cases acq
  · rfl
  · rw [if_pos rfl, archField_modArch Arch.reqs fun a => ?keeps]
    case keeps => rw [addIds]; split <;> rfl

theorem passFence_mem (s : State) (k : Sid) (acq : Bool) (rel : Option Nat) : (passFence s k acq rel).mem = s.mem := by
  cases acq <;> rfl

theorem passFence_focus (s : State) (k : Sid) (acq : Bool) (rel : Option Nat) : (passFence s k acq rel).focus = s.focus := by
  cases acq <;> rfl

/-- The counter of a cell as the bits of a result (R151). -/
theorem counter_bits (r : Row) : BitVec.ofNat 512 (BitVec.ofNat 64 (r.toNat / 2 ^ 384 % 2 ^ 48)).toNat =
    (r.extractLsb' 384 48).setWidth 512 := by
  apply BitVec.eq_of_toNat_eq
  have small : r.toNat / 2 ^ 384 % 2 ^ 48 < 2 ^ 48 := Nat.mod_lt _ (Nat.two_pow_pos _)
  simp only [BitVec.toNat_ofNat, BitVec.toNat_setWidth, BitVec.extractLsb'_toNat, Nat.shiftRight_eq_div_pow]
  rw [Nat.mod_eq_of_lt (a := _ % 2 ^ 48) (by omega)]

/-- The state in which a majority operation has written its counter (R151, R152, R326). -/
def afterMajority (s : State) (h : Slot) (opc : BitVec 8) (sd : BitVec 5) (i j : Nat) (r : Row) : State :=
  let s0 := countHot s s.focus.core i
  let s1 := if i = j then s0 else countHot s0 s.focus.core j
  emitS s (passFence (modStrm s1 s.focus (fun x => { x with mjok := none })) s.focus true (some 9)) h opc sd
    (BitVec.ofNat 64 (r.toNat / 2 ^ 384 % 2 ^ 48)) 1 0

/-- One or two counts (R299). -/
theorem counted_countBoth (s : State) (i j : Nat) :
    Counted s (if i = j then countHot s s.focus.core i else countHot (countHot s s.focus.core i) s.focus.core j) := by
  have first := counted_countHot s i
  split
  · exact first
  · exact first.trans (counted_countHot (countHot s s.focus.core i) j)

/-- What a majority operation leaves: the counter in flight, its row taken, no request and no byte. -/
theorem afterMajority_spec (s : State) (h : Slot) (opc : BitVec 8) (sd : BitVec 5) (i j : Nat) (r : Row) :
    let t := afterMajority s h opc sd i j r
    t.focus = s.focus ∧ t.mem = s.mem ∧ (archOf t s.focus.core).reqs = (archOf s s.focus.core).reqs ∧
      (strmOf t s.focus).mjok = none ∧ ∃ x, NewOp s t x ∧ x.dst = (if sd = 0 then .none else .s sd.toNat) ∧
        x.val = (r.extractLsb' 384 48).setWidth 512 ∧ x.rem = inFlight 1 := by
  intro t
  have counted := counted_countBoth s i j
  generalize hu : (if i = j then countHot s s.focus.core i else countHot (countHot s s.focus.core i) s.focus.core j) = u at counted
  let v := passFence (modStrm u s.focus (fun x => { x with mjok := none })) s.focus true (some 9)
  let x := mkFlight s h opc (if sd = 0 then .none else .s sd.toNat)
    (BitVec.ofNat 512 (BitVec.ofNat 64 (r.toNat / 2 ^ 384 % 2 ^ 48)).toNat) mask64 1 0 .none
  have is : t = emit v x := by simp only [t, afterMajority, hu]; rfl
  have focus : v.focus = s.focus := (passFence_focus ..).trans counted.focus
  have strm : strmOf v s.focus = { strmOf s s.focus with mjok := none, relF := some 9 } := by
    rw [passFence_strm, strmOf_modStrm_same, counted.strm]
  have placed : strmOf t s.focus = { strmOf v s.focus with
      pipe := { (strmOf v s.focus).pipe with ops := (strmOf v s.focus).pipe.ops ++ [x] } } := by
    rw [is, ← focus]; exact emit_strm v x
  refine ⟨by rw [is]; exact focus, ?mem, ?reqs, by rw [placed, strm], x, by rw [NewOp, placed, strm], rfl, counter_bits r, rfl⟩
  case mem => rw [is, emit_mem, passFence_mem, modStrm_mem, counted.mem]
  case reqs => rw [is, emit_reqs, passFence_reqs, modStrm_reqs, counted.reqs]

/-- A majority operation in a state in which both its operands are reached (R151, R152). -/
theorem majority_cases {s : State} {h : Slot} {opc : BitVec 8} {load : Bool} {o : SmF} {pa own : Nat} {x y : Nat × TEntry}
    (cell : access s s.focus.core { askLoad with wr := true, timed := false, coreWr := true, major := true } (rs s o.sa) =
      .ok (x.1, x.2, pa))
    (row : access s s.focus.core (if load then { askStore with own := true } else { askLoad with timed := false, own := true })
      (rs s o.sb) = .ok (y.1, y.2, own)) (free : BankFree s own) :
    (∀ r, (strmOf s s.focus).mjok = some r → let t := afterMajority s h opc o.sd x.1 y.1 r
      majority h opc load o s s = .ok (if load then
        (issueReq (noteWrite t s.focus.core own) h .store own 64 r (BitVec.ofNat 64 (2 ^ 64 - 1)) 0 0 0 none).2 else t)) ∧
    ((strmOf s s.focus).mjok = none → (tget MjSet.free s.hub.mjs (mjSet pa)).up.length < (tget MjSet.free s.hub.mjs (mjSet pa)).need →
      majority h opc load o s s = .trap (mkTrap s h 16 4 (BitVec.ofNat 64 (wf (rs s o.sa) 0 48 / 64 * 64)) 0)) := by
  have goes : ∀ g, withBoth h _ (rs s o.sa) _ (rs s o.sb) s g = g x.1 pa y.1 own := withBoth_ok cell row h
  refine ⟨fun r ready => ?ends, fun waits few => ?traps⟩
  case ends => simp only [majority, goes, needBank_free free, ready]; rfl
  case traps => simp only [majority, goes, needBank_free free, waits, if_pos few]

/-- Settles O28: `mjst` ends as the counter is written, `mjld` with the store of the cell behind it. -/
theorem majorityOperations : Obligations.MajorityOperations := by
  intro h o s pa own run up reach free
  obtain ⟨i, e, cell⟩ := reach
  refine ⟨fun row => ?mjld, fun row => ?mjst⟩
  case mjld =>
    obtain ⟨j, f, row⟩ := row
    obtain ⟨ends, traps⟩ := majority_cases (h := h) (opc := 18) (load := true) (x := (i, e)) (y := (j, f)) cell row free
    refine ⟨fun r ready => ?_, fun waits few => slotStep_trap (g := issueMjld h o) run (traps waits few)⟩
    obtain ⟨focus, mem, reqs, taken, x, new, dst, val, rem⟩ := afterMajority_spec s h 18 o.sd i j r
    let m := afterMajority s h 18 o.sd i j r
    have noted : Counted m (noteWrite m s.focus.core own) := counted_noteWrite m s.focus.core own
    obtain ⟨made, rest⟩ := noted.isReq (issueReq_isReq _ h .store own 64 r (BitVec.ofNat 64 (2 ^ 64 - 1)) 0 0 0 none false)
    rw [NewReq, focus, reqs] at made
    rw [focus] at rest
    have strm : ∀ k, strmOf (issueReq (noteWrite m s.focus.core own) h .store own 64 r (BitVec.ofNat 64 (2 ^ 64 - 1)) 0 0 0 none).2 k =
      strmOf m k := fun k => (issueReq_strm ..).trans (noted.strm k)
    refine ⟨_, _, x, slotStep_ok (g := issueMjld h o) run (ends r ready), ⟨made, rest⟩, rfl, rfl, ?_, dst, val, rem, ?_, ?_⟩
    · rw [NewOp, if_pos rfl, strm]; exact new
    · rw [if_pos rfl, strm]; exact taken
    · exact noted.mem.trans mem
  case mjst =>
    obtain ⟨j, f, row⟩ := row
    obtain ⟨ends, traps⟩ := majority_cases (h := h) (opc := 19) (load := false) (x := (i, e)) (y := (j, f)) cell row free
    refine ⟨fun r ready => ?_, fun waits few => slotStep_trap (g := issueMjst h o) run (traps waits few)⟩
    obtain ⟨focus, mem, reqs, taken, x, new, dst, val, rem⟩ := afterMajority_spec s h 19 o.sd i j r
    exact ⟨_, x, slotStep_ok (g := issueMjst h o) run (ends r ready), reqs, new, dst, val, rem, taken, mem⟩

end Sys2Proof.MemoryProofs

/-!
Queues, handles and signals as slots reach them (R153 to R163, R205).
-/
namespace Sys2Proof.MemoryProofs
open Sys2Proof.Machine Sys2Proof.Laws Sys2Proof.VectorProofs

/-! ### Queues (R159 to R161) -/

theorem pushEvent_queue (a : Arch) (r : EvRec) (n : Nat) : (pushEvent a r).queue n = a.queue n := by
  unfold pushEvent; split <;> rfl

theorem pushEvent_stream (a : Arch) (r : EvRec) (b : Bool) : (pushEvent a r).stream b = a.stream b := by
  unfold pushEvent; split <;> cases b <;> rfl

/-- An entry in the storage of a queue: the queue holds it last, every other queue stands. -/
theorem enqueue_queue (a : Arch) (q : Nat) (e : QEnt) (n : Nat) : (enqueue a q e).queue n =
    if n = q then { (a.queue q).noteProd e.src with ents := (a.queue q).ents ++ [e] } else a.queue n := by
  have stored : ({ a with q := tput a.q q { (a.queue q).noteProd e.src with ents := (a.queue q).ents ++ [e] } } : Arch).queue n =
      if n = q then { (a.queue q).noteProd e.src with ents := (a.queue q).ents ++ [e] } else a.queue n := tget_tput ..
  unfold enqueue
  dsimp only
  split
  · rw [pushEvent_queue, stored]
  · exact stored

theorem enqueue_stream (a : Arch) (q : Nat) (e : QEnt) (b : Bool) : (enqueue a q e).stream b = a.stream b := by
  unfold enqueue
  dsimp only
  split
  · rw [pushEvent_stream]; cases b <;> rfl
  · cases b <;> rfl

/-- A queue with one producer and no ring stores what arrives (R159, R355). -/
theorem arrive_stores {s : State} {c q : Nat} {e : QEnt} (ring : ((archOf s c).queue q).ring = none)
    (one : ((archOf s c).queue q).manyProds e.src = false) : arrive s c q e = some (modArch s c (fun a => enqueue a q e)) := by
  simp [arrive, ring, queueChoice, one]

/-! ### Pushes (R160) -/

/-- A push has entered the own queue. -/
def PushedHere (s : State) (h : Slot) (o : VlF) (t : State) : Prop :=
  ∃ e, ((archOf t s.focus.core).queue o.off.toNat).ents = ((archOf s s.focus.core).queue o.off.toNat).ents ++ [e] ∧
    e.data = vlV s h o.vd ∧ e.src = s.focus.core ∧ (e.rel = true ↔ o.ord = 2) ∧ t.net = s.net ∧ t.mem = s.mem

/-- A push is on its way to a queue of a core. -/
def PushedAway (s : State) (h : Slot) (o : VlF) (dst q : Nat) (out : Bool) (t : State) : Prop :=
  ∃ m e, t.net = s.net ++ [m] ∧ m.dst = dst ∧ m.src = s.focus.core ∧ m.out = out ∧ m.msg = .push q e ∧ e.data = vlV s h o.vd ∧
    (e.rel = true ↔ o.ord = 2) ∧ t.mem = s.mem ∧ t.cores = s.cores ∧ t.hub = s.hub

theorem pushedAway_sendMsg (s : State) (h : Slot) (o : VlF) (dst q : Nat) (wait : List Nat) (out : Bool) :
    PushedAway s h o dst q out (sendMsg { s with ids := s.ids + 1 } dst (.push q (newEnt s (vlV s h o.vd) (decide (o.ord = 2)))) wait out) :=
  ⟨_, _, rfl, rfl, rfl, rfl, rfl, rfl, decide_eq_true_iff, rfl, rfl, rfl⟩

section
variable {s : State} {h : Slot} {o : VlF}

/-- A local push that nothing keeps enters the queue. -/
theorem localPush_here (room : queueFull s s.focus.core o.off.toNat = false)
    (ring : ((archOf s s.focus.core).queue o.off.toNat).ring = none) (first : ownPushes s s.focus.core o.off.toNat = 0)
    (done : o.ord = 2 → relWaits s s.focus 5 = [])
    (one : ((archOf s s.focus.core).queue o.off.toNat).manyProds s.focus.core = false) :
    ∃ t, localPush h o.off.toNat (vlV s h o.vd) (decide (o.ord = 2)) s s = .ok t ∧ PushedHere s h o t := by
  have wait : (if decide (o.ord = 2) then relWaits s s.focus 5 else []) = [] := by
    split
    · next rel => exact done (of_decide_eq_true rel)
    · rfl
  let u := { s with ids := s.ids + 1 }
  let e := newEnt s (vlV s h o.vd) (decide (o.ord = 2))
  have stores : arrive u s.focus.core o.off.toNat e = some _ := arrive_stores (s := u) ring one
  refine ⟨modArch u s.focus.core (fun a => enqueue a o.off.toNat e), ?ends, e, ?ents, rfl, rfl, decide_eq_true_iff, rfl, rfl⟩
  case ends =>
    simp only [localPush, wait, room, first, queueHeld, one]
    rw [if_neg Bool.false_ne_true, if_neg (by simp), stores]
  case ents =>
    rw [archOf_modArch_same, enqueue_queue, if_pos rfl]
    rfl

/-- A local push that waits for what it releases, or behind another, is on its way (log 98). -/
theorem localPush_away (room : queueFull s s.focus.core o.off.toNat = false)
    (kept : ownPushes s s.focus.core o.off.toNat ≠ 0 ∨ (o.ord = 2 ∧ relWaits s s.focus 5 ≠ [])) :
    ∃ t, localPush h o.off.toNat (vlV s h o.vd) (decide (o.ord = 2)) s s = .ok t ∧
      PushedAway s h o s.focus.core o.off.toNat false t := by
  refine ⟨_, ?_, pushedAway_sendMsg s h o s.focus.core o.off.toNat (if decide (o.ord = 2) then relWaits s s.focus 5 else []) false⟩
  simp only [localPush, room]
  obtain behind | ⟨rel, waits⟩ := kept
  · simp [behind]
  · simp [rel, waits]

/-- A local push to a queue that takes nothing is a handle misuse. -/
theorem localPush_full (full : queueFull s s.focus.core o.off.toNat = true) (data : Row) (rel : Bool) :
    localPush h o.off.toNat data rel s s = .trap (mkTrap s h 9 4 0 o.off.toNat) := by
  simp only [localPush, full]
  rfl

/-- A push to the own core, whether named by nothing or by its number, is the local one. -/
theorem issueVqpush_local (own : o.xc = 0 ∨ (o.xc = 1 ∧ (rs s o.sa).toNat = s.focus.core ∧ coreOkN s.focus.core = true)) :
    issueVqpush h o s s = localPush h o.off.toNat (vlV s h o.vd) (decide (o.ord = 2)) s s := by
  obtain is0 | ⟨is1, self, real⟩ := own
  · simp [issueVqpush, is0]
  · have target : targetOk (rs s o.sa) = true := by
      rw [targetOk, self, real]
      simp only [coreOkN, Bool.and_eq_true, decide_eq_true_eq] at real
      simp [real.1]
    simp [issueVqpush, is1, target, self]

end

/-- Settles O27: local pushes by whether the queue takes them, the others by the message they send. -/
theorem queuePushes : Obligations.QueuePushes := by
  intro h o s run c q here away
  refine ⟨fun own => ?own, fun is1 other real room => ?remote, fun is2 verts credit => ?vertical⟩
  case own =>
    have same := issueVqpush_local (h := h) own
    refine ⟨fun room ring => ⟨fun first done one => ?_, fun kept => ?_⟩, fun full => ?_⟩
    · obtain ⟨t, ends, entered⟩ := localPush_here room ring first done one
      exact ⟨t, slotStep_ok (g := issueVqpush h o) run (same.trans ends), entered⟩
    · obtain ⟨t, ends, sent⟩ := localPush_away room kept
      exact ⟨t, slotStep_ok (g := issueVqpush h o) run (same.trans ends), sent⟩
    · exact slotStep_trap (g := issueVqpush h o) run (same.trans (localPush_full full ..))
  case remote =>
    have target : targetOk (rs s o.sa) = true := by
      rw [targetOk, real]
      simp only [coreOkN, Bool.and_eq_true, decide_eq_true_eq] at real
      simp [real.1]
    refine ⟨_, slotStep_ok (g := issueVqpush h o) run ?_, pushedAway_sendMsg s h o _ q
      (if decide (o.ord = 2) then relWaits s s.focus 5 else []) true⟩
    have elsewhere : ¬(rs s o.sa).toNat = s.focus.core := other
    simp [issueVqpush, is1, target, elsewhere, needOut_free room, q]
  case vertical =>
    refine ⟨_, slotStep_ok (g := issueVqpush h o) run ?_, pushedAway_sendMsg s h o _ 7
      (if decide (o.ord = 2) then relWaits s s.focus 5 else []) false⟩
    have free : ¬8 < vertUsed s (vertTarget s.focus.core o.off.toNat) + 1 := Nat.not_lt.2 credit
    simp [issueVqpush, is2, verts, tget, free, q, c]

end Sys2Proof.MemoryProofs

namespace Sys2Proof.MemoryProofs
open Sys2Proof.Machine Sys2Proof.Laws Sys2Proof.VectorProofs

/-! ### Fields of bit vectors (R2) -/

theorem testBit_wf {n : Nat} (x : BitVec n) (lo w i : Nat) : (wf x lo w).testBit i = (decide (i < w) && x.getLsbD (lo + i)) :=
  testBit_fld ..

/-- A bit after a field was replaced. -/
theorem getLsbD_setFld {n : Nat} (x : BitVec n) (lo w v : Nat) {i : Nat} (hi : i < n) :
    (setFld x lo w v).getLsbD i = if lo ≤ i ∧ i < lo + w then v.testBit (i - lo) else x.getLsbD i := by
  have mask : (BitVec.ofNat n ((2 ^ w - 1) * 2 ^ lo)).getLsbD i = decide (lo ≤ i ∧ i < lo + w) := by
    rw [BitVec.getLsbD_ofNat, Nat.testBit_mul_two_pow, Nat.testBit_two_pow_sub_one, decide_eq_true hi]
    by_cases h : lo ≤ i
    · simp [h, Nat.sub_lt_iff_lt_add' h]
    · simp [h]
  have value : (BitVec.ofNat n ((v % 2 ^ w) * 2 ^ lo)).getLsbD i = (decide (lo ≤ i ∧ i < lo + w) && v.testBit (i - lo)) := by
    rw [BitVec.getLsbD_ofNat, Nat.testBit_mul_two_pow, Nat.testBit_mod_two_pow, decide_eq_true hi]
    by_cases h : lo ≤ i
    · simp [h, Nat.sub_lt_iff_lt_add' h]
    · simp [h]
  simp only [setFld, BitVec.getLsbD_or, BitVec.getLsbD_and, BitVec.getLsbD_not, mask, value, decide_eq_true hi, Bool.true_and]
  split
  · next h => simp [h]
  · next h => simp [h]

/-- A field that was replaced reads the low bits of its value. -/
theorem wf_setFld_same {n : Nat} (x : BitVec n) {lo w : Nat} (v : Nat) (fits : lo + w ≤ n) : wf (setFld x lo w v) lo w = v % 2 ^ w := by
  apply Nat.eq_of_testBit_eq
  intro i
  rw [testBit_wf, Nat.testBit_mod_two_pow]
  by_cases h : i < w
  · rw [getLsbD_setFld _ _ _ _ (by omega), if_pos (by omega), Nat.add_sub_cancel_left]
  · simp [h]

/-- A field apart from one that was replaced stands. -/
theorem wf_setFld_apart {n : Nat} (x : BitVec n) {lo w lo' w' : Nat} (v : Nat) (apart : lo' + w' ≤ lo ∨ lo + w ≤ lo') :
    wf (setFld x lo w v) lo' w' = wf x lo' w' := by
  apply Nat.eq_of_testBit_eq
  intro i
  rw [testBit_wf, testBit_wf]
  by_cases h : i < w'
  · by_cases fits : lo' + i < n
    · rw [getLsbD_setFld _ _ _ _ fits, if_neg (by omega)]
    · rw [BitVec.getLsbD_of_ge _ _ (Nat.not_lt.1 fits), BitVec.getLsbD_of_ge _ _ (Nat.not_lt.1 fits)]
  · simp [h]

/-! ### Banks and chain signals (R163, R205) -/

/-- A bit of the banks that `brel` names: a root core has sixteen (R31). -/
theorem getLsbD_bankMask (root : Bool) : ∀ b < 32, ((if root then 0xFFFF else 0xFFFFFFFF : BitVec 32)).getLsbD b = (!root || decide (b < 16)) := by
  cases root <;> decide

section
variable {s : State} {h : Slot} {o : SmF} {ret : Bool}

/-- A signal with operands in range enters the intake of its context while the core has fewer than four there. -/
theorem chsig_enters (range : ¬(256 ≤ (rs s o.sa).toNat ∨ 65536 ≤ (rs s o.sb).toNat))
    (chain : (ctxOf s (nodeIds s s.focus.core).1).chain.isSome = true)
    (room : ((ctxOf s (nodeIds s s.focus.core).1).sigs.filter (fun x => x.core == s.focus.core)).length < 4) :
    ∃ t g, chsig h ret o s s = .ok t ∧
      (ctxOf t (nodeIds s s.focus.core).1).sigs = (ctxOf s (nodeIds s s.focus.core).1).sigs ++ [g] ∧ g.core = s.focus.core ∧
      g.ret = ret ∧ g.ctr = (rs s o.sa).toNat ∧ g.amt = (rs s o.sb).toNat ∧ g.wait = relWaits s s.focus 6 ∧
      t.cores = s.cores ∧ t.mem = s.mem ∧ t.net = s.net := by
  obtain ⟨y, hy⟩ := Option.isSome_iff_exists.1 chain
  let g : Sig := { core := s.focus.core, side := s.focus.side, ret := ret, ctr := (rs s o.sa).toNat, amt := (rs s o.sb).toNat
                   wait := relWaits s s.focus 6
                   stg := if (coreOf s s.focus.core).split then none else some (coreOf s s.focus.core).seq }
  refine ⟨modCtx s (nodeIds s s.focus.core).1 (fun x => { x with sigs := x.sigs ++ [g] }), g, ?ends, ?sigs, rfl, rfl, rfl, rfl, rfl,
    rfl, rfl, rfl⟩
  case ends => simp only [chsig, if_neg range, hy, if_neg (Nat.not_le.2 room)]; rfl
  case sigs => rw [ctxOf_modCtx_same]

/-- A signal waits while the core has four in the intake. -/
theorem chsig_waits (range : ¬(256 ≤ (rs s o.sa).toNat ∨ 65536 ≤ (rs s o.sb).toNat))
    (chain : (ctxOf s (nodeIds s s.focus.core).1).chain.isSome = true)
    (full : 4 ≤ ((ctxOf s (nodeIds s s.focus.core).1).sigs.filter (fun x => x.core == s.focus.core)).length) :
    chsig h ret o s s = .hold 9 false .plain := by
  obtain ⟨y, hy⟩ := Option.isSome_iff_exists.1 chain
  simp only [chsig, if_neg range, hy, if_pos full]

end

/-- Settles O35: `brel` bit by bit, a signal by whether the core's intake is full. -/
theorem signalsAndReleases : Obligations.SignalsAndReleases := by
  intro h o s run c ctx mine
  refine ⟨⟨_, slotStep_ok (g := issueBrel h o) run rfl, sameOutside_modArch .., sameCores_modArch _ _ _,
    strmOf_modArch (fun _ b => by cases b <;> rfl) .., fun b hb => ?bank⟩, ?signals⟩
  case bank =>
    rw [archOf_modArch_same]
    simp only [BitVec.getLsbD_or, BitVec.getLsbD_and, BitVec.getLsbD_setWidth, decide_eq_true hb, Bool.true_and,
      getLsbD_bankMask _ b hb, c]
    rw [Bool.and_right_comm]
  case signals =>
    have signal : ∀ {i : Instr} {ret : Bool} {g : State → State → SlotRes}, exec i s = slotStep h g s → g s s = chsig h ret o s s →
        (rs s o.sa).toNat < 256 → (rs s o.sb).toNat < 65536 → (ctxOf s ctx).chain.isSome = true →
        (mine.length < 4 → ∃ t g, exec i s = .next t ∧ (ctxOf t ctx).sigs = (ctxOf s ctx).sigs ++ [g] ∧ g.core = c ∧ g.ret = ret ∧
          g.ctr = (rs s o.sa).toNat ∧ g.amt = (rs s o.sb).toNat ∧ g.wait = relWaits s s.focus 6 ∧
          t.cores = s.cores ∧ t.mem = s.mem ∧ t.net = s.net) ∧
        (4 ≤ mine.length → exec i s = .next s) := by
      intro i ret g step issue counter amount chain
      have range : ¬(256 ≤ (rs s o.sa).toNat ∨ 65536 ≤ (rs s o.sb).toNat) := by omega
      refine ⟨fun room => ?_, fun full => ?_⟩
      · obtain ⟨t, x, ends, entered⟩ := chsig_enters (h := h) (ret := ret) range chain room
        exact ⟨t, x, step.trans (slotStep_ok run (issue.trans ends)), entered⟩
      · exact step.trans (slotStep_hold run (issue.trans (chsig_waits range chain full)))
    intro x hx
    simp only [List.mem_cons, List.not_mem_nil, or_false] at hx
    rcases hx with rfl | rfl
    · exact signal (g := issueChsigReady h o) rfl rfl
    · exact signal (g := issueChsigReturn h o) rfl rfl

/-! ### Handles (R20, R153 to R158) -/

/-- A pointer that was set, cut to its thirteen bits; the rest of the image stands (R20). -/
theorem handleOf_setPtr (w : Word) (prd : Bool) (v : Nat) : handleOf (setPtr w prd v) =
    if prd then { handleOf w with prd := v % 2 ^ 13 } else { handleOf w with cns := v % 2 ^ 13 } := by
  cases prd <;> simp [setPtr, handleOf, wf_setFld_same, wf_setFld_apart, getLsbD_setFld, -BitVec.getLsbD_eq_getElem]

/-- The free and the filled count of a handle fit in a word (R158). -/
theorem handleCounts_lt (w : Word) : (handleOf w).free * 2 ^ 16 + (handleOf w).filled < 2 ^ 64 := by
  have lsz : (handleOf w).lsz ≤ 15 := Nat.le_of_lt_succ (Nat.mod_lt _ (by decide))
  have size : (handleOf w).size ≤ 2 ^ 15 := Nat.pow_le_pow_right (by decide) lsz
  have pos : 0 < 2 * (handleOf w).size := Nat.mul_pos (by decide) (Nat.two_pow_pos _)
  have filled : (handleOf w).filled < 2 * (handleOf w).size := Nat.mod_lt _ pos
  have free : (handleOf w).free ≤ (handleOf w).size := Nat.sub_le ..
  omega

/-- Of the machine only the issuing core has changed, and its stream stands. -/
def OnlyCore (s t : State) : Prop :=
  t.mem = s.mem ∧ t.hub = s.hub ∧ SameCores s t s.focus.core ∧ strmOf t s.focus = strmOf s s.focus

theorem onlyCore_modArch (s : State) {g : Arch → Arch} (keeps : ∀ a b, (g a).stream b = a.stream b) :
    OnlyCore s (modArch s s.focus.core g) :=
  ⟨rfl, rfl, sameCores_modArch _ _ _, strmOf_modArch keeps ..⟩

/-- The peer of a handle is told of a pointer that has moved, behind the stream's requests through the handle (R157). -/
def Tells (s t : State) (n : Nat) (prd : Bool) (v : Nat) (op : ReqOp) : Prop :=
  let x := handleReg s n
  (x.peer = s.focus.core → t.net = s.net) ∧
  (x.peer ≠ s.focus.core → ∃ m, t.net = s.net ++ [m] ∧ m.dst = x.peer ∧ m.src = s.focus.core ∧
    m.msg = .pointer n prd (BitVec.ofNat 13 v) ∧
    ∀ r ∈ (archOf s s.focus.core).reqs, r.side = s.focus.side → r.hnd = some n → r.op = op → r.id ∈ m.wait)

/-- A message that is sent stands last among those on their way. -/
theorem sendMsg_spec (s : State) (dst : Nat) (m : Msg) (wait : List Nat) (out : Bool) :
    ∃ x, (sendMsg s dst m wait out).net = s.net ++ [x] ∧ x.dst = dst ∧ x.src = s.focus.core ∧ x.msg = m ∧ x.wait = wait ∧ x.out = out :=
  ⟨_, rfl, rfl, rfl, rfl, rfl, rfl⟩

/-- The requests that an update of a pointer follows. -/
theorem mem_handleWaits {s : State} {k : Sid} {n : Nat} (prd : Bool) {r : Req} (mem : r ∈ (archOf s k.core).reqs)
    (side : r.side = k.side) (hnd : r.hnd = some n) (op : r.op = if prd then .store else .load) : r.id ∈ handleWaits s k n prd := by
  refine List.mem_map_of_mem (List.mem_filter.2 ⟨mem, ?_⟩)
  cases prd <;> simp_all

section
variable {s : State} {h : Slot} {o : HqF} {prd : Bool}

/-- The handle file after an advance of one pointer. -/
def advanced (o : HqF) (prd : Bool) (v : Nat) (a : Arch) : Arch :=
  { a with h := tput a.h o.hn.toNat (setPtr (tget 0 a.h o.hn.toNat) prd v) }

/-- The pointer to which an advance moves. -/
def advance (x : Handle) (prd : Bool) (n : Nat) : Nat := ((if prd then x.prd else x.cns) + n) % (2 * x.size)

/-- An advance that the handle allows moves its pointer and tells the peer (R157). -/
theorem issueHadv_moves (is : decide (o.pk = 0) = prd) (pos : o.cnt ≠ 0) (valid : (handleReg s o.hn.toNat).vld = true)
    (room : o.cnt.toNat ≤ if prd then (handleReg s o.hn.toNat).free else (handleReg s o.hn.toNat).filled)
    (idle : prd = true → producing (archOf s s.focus.core) o.hn.toNat = false)
    (once : (o.hn.toNat, prd) ∉ (archOf s s.focus.core).moved) :
    let v := advance (handleReg s o.hn.toNat) prd o.cnt.toNat
    ∃ t, issueHadv h o s s = .ok t ∧ OnlyCore s t ∧ archOf t s.focus.core = advanced o prd v (archOf s s.focus.core) ∧
      Tells s t o.hn.toNat prd v (if prd then .store else .load) := by
  intro v
  have pos' : ¬o.cnt.toNat = 0 := fun z => pos (BitVec.eq_of_toNat_eq z)
  have busy : (prd && producing (archOf s s.focus.core) o.hn.toNat) = false := by
    cases prd
    · rfl
    · exact idle rfl
  have free : decide ((if prd then (handleReg s o.hn.toNat).free else (handleReg s o.hn.toNat).filled) < o.cnt.toNat) = false :=
    decide_eq_false (Nat.not_lt.2 room)
  have unmoved : (archOf s s.focus.core).moved.contains (o.hn.toNat, prd) = false := by simpa using once
  let u := modArch s s.focus.core (advanced o prd v)
  have only : OnlyCore s u := onlyCore_modArch s fun _ b => by cases b <;> rfl
  have made : archOf u s.focus.core = advanced o prd v (archOf s s.focus.core) := archOf_modArch_same ..
  have issue : issueHadv h o s s = .ok (if (handleReg s o.hn.toNat).peer = s.focus.core then u
      else sendMsg u (handleReg s o.hn.toNat).peer (.pointer o.hn.toNat prd (BitVec.ofNat 13 v))
        (handleWaits u s.focus o.hn.toNat prd) false) := by
    simp only [issueHadv, is, if_neg pos', valid, free, busy, unmoved]
    rfl
  by_cases self : (handleReg s o.hn.toNat).peer = s.focus.core
  · exact ⟨u, by rw [issue, if_pos self], only, made, fun _ => rfl, fun other => absurd self other⟩
  · rw [if_neg self] at issue
    obtain ⟨m, net, dst, src, msg, wait, -⟩ := sendMsg_spec u (handleReg s o.hn.toNat).peer (.pointer o.hn.toNat prd (BitVec.ofNat 13 v))
      (handleWaits u s.focus o.hn.toNat prd) false
    refine ⟨_, issue, only, made, fun own => absurd own self, fun _ => ⟨m, net, dst, src, msg, fun r mem side hnd op => ?_⟩⟩
    rw [wait]
    exact mem_handleWaits prd (by rw [made]; exact mem) side hnd op

/-- What an advance leaves of the handles. -/
theorem advanced_handle (v m : Nat) (a : Arch) : tget 0 (advanced o prd v a).h m =
    if m = o.hn.toNat then setPtr (tget 0 a.h o.hn.toNat) prd v else tget 0 a.h m := tget_tput ..

end

/-- A queue after one was changed. -/
theorem queue_tmod (a : Arch) (n m : Nat) (g : Queue → Queue) :
    ({ a with q := tmod Queue.idle a.q n g } : Arch).queue m = if m = n then g (a.queue n) else a.queue m := tget_tmod ..

/-- The overflow mark and two counts of a queue fit in a word (R158). -/
theorem queueCounts_lt (b : Bool) {ring held : Nat} (short : ring < 2 ^ 24) (few : held < 256) :
    b.toNat * 2 ^ 32 + ring * 256 + held < 2 ^ 64 := by
  have := Bool.toNat_le b
  omega

/-- What a query of a queue answers: its overflow mark, the entries of its ring and those of its storage (R158). -/
theorem hqryWord_queue {s : State} {o : HqF} (is : o.cnt = 2) {ring : Nat}
    (spilt : (((archOf s s.focus.core).queue o.qn.toNat).ring.map (·.ents.length)).getD 0 = ring) (short : ring < 2 ^ 24)
    (few : ((archOf s s.focus.core).queue o.qn.toNat).ents.length < 256) : (hqryWord s o).toNat =
      (if ((archOf s s.focus.core).queue o.qn.toNat).qov then 2 ^ 32 else 0) + 256 * ring +
        ((archOf s s.focus.core).queue o.qn.toNat).ents.length := by
  have word : hqryWord s o = BitVec.ofNat 64 (((archOf s s.focus.core).queue o.qn.toNat).qov.toNat * 2 ^ 32 +
      (((archOf s s.focus.core).queue o.qn.toNat).ring.map (·.ents.length)).getD 0 * 256 +
      ((archOf s s.focus.core).queue o.qn.toNat).ents.length) := by rw [hqryWord, is]; rfl
  rw [word, spilt, BitVec.toNat_ofNat, Nat.mod_eq_of_lt (queueCounts_lt _ short few), Nat.mul_comm ring]
  cases ((archOf s s.focus.core).queue o.qn.toNat).qov <;> simp

/-- A spill ring is set where its base is reached, its quota fits its size and no ring holds entries (R162). -/
theorem issueQspl_sets {s : State} {h : Slot} {o : HqF} {pa : Nat} (aligned : (rs s o.sa).extractLsb' 0 6 = 0)
    (reach : Reaches s askStore (rs s o.sa) pa) (pos : 0 < (rs s o.sx).toNat) (quota : (rs s o.sx).toNat ≤ o.cnt.toNat)
    (keep : (((archOf s s.focus.core).queue o.qn.toNat).ring.map (fun r => !r.ents.isEmpty)).getD false = false) :
    ∃ t, issueQspl h o s s = .ok t ∧ OnlyCore s t ∧ (archOf t s.focus.core).queue o.qn.toNat =
      { (archOf s s.focus.core).queue o.qn.toNat with
        ring := some { base := pa, size := o.cnt.toNat, quota := (rs s o.sx).toNat, head := 0, ents := [] } } := by
  obtain ⟨i, e, reached⟩ := reach
  have low : wf (rs s o.sa) 0 6 = 0 := by simpa [wf, fld] using congrArg BitVec.toNat aligned
  have legal : ¬(decide (wf (rs s o.sa) 0 6 ≠ 0) || decide ((rs s o.sx).toNat = 0) || decide (o.cnt.toNat < (rs s o.sx).toNat) ||
      (((archOf s s.focus.core).queue o.qn.toNat).ring.map (fun r => !r.ents.isEmpty)).getD false) = true := by
    rw [keep, decide_eq_false (not_not.2 low), decide_eq_false (Nat.ne_of_gt pos), decide_eq_false (Nat.not_lt.2 quota)]
    exact Bool.false_ne_true
  refine ⟨_, (withAccess_ok reached h _).trans (if_neg legal), ?core, ?queue⟩
  case core =>
    refine ⟨rfl, rfl, sameCores_trans (sameCores_modArch s _ _) (sameCores_modArch _ _ _), ?_⟩
    exact (strmOf_modArch (fun _ b => by cases b <;> rfl) ..).trans ((counted_countHot s i).strm _)
  case queue =>
    rw [archOf_modArch_same, queue_tmod, if_pos rfl]
    rw [countHot, archOf_modArch_same]
    rfl

/-- Settles O36: an advance of either pointer by one lemma, the others by the one field of the core that they change. -/
theorem handleAndQueueRegisters : Obligations.HandleAndQueueRegisters := by
  intro h o s run c n q w x y frame only tells ringFull
  refine ⟨fun idle good => ?hdef, fun zero => ?still, fun pos moved => ?twice, fun pos valid prd room idle once => ?produce,
    fun pos valid cns room once => ?consume, fun query vert => ?hqry, fun range spill keep => ?qcfg, ?qspl⟩
  case hdef =>
    refine ⟨_, slotStep_ok (g := issueHdef h o) run (if_neg ?ok), onlyCore_modArch s fun _ b => by cases b <;> rfl, ?_, ?_⟩
    case ok =>
      rw [show producing _ _ = false from idle, show imageBad _ _ = false from good]
      exact Bool.false_ne_true
    · rw [archOf_modArch_same]; exact tget_tput_same ..
    · intro m hm
      rw [archOf_modArch_same]; exact tget_tput_ne _ _ _ hm
  case still => exact slotStep_ok (g := issueHadv h o) run (by simp [issueHadv, zero])
  case twice =>
    refine slotStep_trap (g := issueHadv h o) run ?_
    have pos' : ¬o.cnt.toNat = 0 := fun z => pos (BitVec.eq_of_toNat_eq z)
    have seen : (archOf s s.focus.core).moved.contains (o.hn.toNat, decide (o.pk = 0)) = true := by simpa using moved
    simp only [issueHadv, if_neg pos', seen, Bool.or_true]
    rfl
  case produce =>
    obtain ⟨t, ends, core, made, told⟩ := issueHadv_moves (h := h) (prd := true) (decide_eq_true prd) pos valid room (fun _ => idle) once
    refine ⟨t, slotStep_ok (g := issueHadv h o) run ends, core, fun m hm => ?_, ?_, ?_, told⟩
    · rw [made, advanced_handle, if_neg hm]
    · rw [made, advanced_handle, if_pos rfl, handleOf_setPtr]; rfl
    · rw [made, advanced_handle, if_pos rfl, handleOf_setPtr]; rfl
  case consume =>
    obtain ⟨t, ends, core, made, told⟩ := issueHadv_moves (h := h) (prd := false) (decide_eq_false cns) pos valid room nofun once
    refine ⟨t, slotStep_ok (g := issueHadv h o) run ends, core, fun m hm => ?_, ?_, ?_, told⟩
    · rw [made, advanced_handle, if_neg hm]
    · rw [made, advanced_handle, if_pos rfl, handleOf_setPtr]; rfl
    · rw [made, advanced_handle, if_pos rfl, handleOf_setPtr]; rfl
  case hqry =>
    have legal : ¬(o.cnt = 3 ∧ (if isRoot s.focus.core then 3 else 0) < o.qn.toNat) := fun ⟨is3, far⟩ => Nat.not_lt.2 (vert is3) far
    refine ⟨_, slotStep_ok (g := issueHqry h o) run (if_neg legal), onlyCore_modArch s fun _ b => by cases b <;> rfl, rfl, ?_⟩
    have hqv : (archOf (modArch s s.focus.core fun a => { a with hqv := hqryWord s o }) s.focus.core).hqv = hqryWord s o := by
      rw [archOf_modArch_same]
    rw [hqv]
    refine ⟨fun is => ?image, fun is => ?counts, fun is few ring => ?bare, fun r is few ring short => ?spilt, fun is => ?credit⟩
    case image => simp [hqryWord, is, c, n]
    case counts =>
      simp only [hqryWord, is]
      exact (BitVec.toNat_ofNat ..).trans (Nat.mod_eq_of_lt (handleCounts_lt _))
    case bare => exact hqryWord_queue (ring := 0) is (by rw [show _ = none from ring]; rfl) (Nat.two_pow_pos 24) few
    case spilt => exact hqryWord_queue is (by rw [show _ = some r from ring]; rfl) short few
    case credit =>
      simp only [hqryWord, is]
      refine (BitVec.toNat_ofNat ..).trans (Nat.mod_eq_of_lt (by omega))
  case qcfg =>
    have legal : (8 ≤ w.toNat || (w.getLsbD 1 && (q = 7 || y.ring.isNone)) || (!w.getLsbD 1 && ringFull y)) = false := by
      cases spills : w.getLsbD 1
      · simp [keep spills, range]
      · obtain ⟨not7, ring⟩ := spill spills
        simp [not7, Option.isNone_eq_false_iff.2 ring, range]
    refine ⟨_, slotStep_ok (g := issueQcfg h o) run (if_neg (by rw [legal]; exact Bool.false_ne_true)),
      onlyCore_modArch s fun _ b => by cases b <;> rfl, ?_, fun q' other => ?_⟩
    · rw [archOf_modArch_same, queue_tmod, if_pos rfl]
    · rw [archOf_modArch_same, queue_tmod, if_neg other]
  case qspl =>
    intro pa aligned reach pos quota keep
    obtain ⟨t, ends, core, queue⟩ := issueQspl_sets (h := h) aligned reach pos quota keep
    exact ⟨t, slotStep_ok (g := issueQspl h o) run ends, core, queue⟩

end Sys2Proof.MemoryProofs

namespace Sys2Proof.MemoryProofs
open Sys2Proof.Machine Sys2Proof.Laws Sys2Proof.VectorProofs

/-! ### Addresses and bytes (R2, R290) -/

/-- Both views of an address agree within a page of 4 KiB: an offset in a row is the same in the home's view (R290). -/
theorem canon_add {b d : Nat} (aligned : b % 64 = 0) (small : d < 64) : canon (b + d) = canon b + d := by
  simp only [canon, paSpace, fld, Nat.reducePow, Nat.div_one]
  have high : (b + d) / 4096 = b / 4096 := by omega
  have h46 : (b + d) / 70368744177664 = b / 70368744177664 := by omega
  have h45 : (b + d) / 35184372088832 = b / 35184372088832 := by omega
  rw [h46, h45]
  split <;> omega

/-- The home of a word lies in that of its row. -/
theorem canon_word (pa : Nat) : canon (pa / 8 * 8) = canon (rowBase pa) + pa % 64 / 8 * 8 := by
  rw [← canon_add (by rw [rowBase]; omega) (by omega), rowBase]
  congr 1
  omega

/-- A byte of a value, counted from the lowest. -/
theorem byte_ofNat {n : Nat} (v : BitVec n) (k : Nat) : BitVec.ofNat 8 (v.toNat / 256 ^ k) = v.extractLsb' (8 * k) 8 := by
  apply BitVec.eq_of_toNat_eq
  rw [BitVec.toNat_ofNat, BitVec.extractLsb'_toNat, Nat.shiftRight_eq_div_pow, Nat.pow_mul]

theorem bit_iff {n : Nat} (m : BitVec n) (k : Nat) : m.toNat / 2 ^ k % 2 = 1 ↔ m.getLsbD k = true := by
  rw [BitVec.getLsbD, Nat.testBit_eq_decide_div_mod_eq, decide_eq_true_iff]

/-- The mask of all bytes of a row. -/
theorem getLsbD_allBytes {k : Nat} (hk : k < 64) : (BitVec.ofNat 64 (2 ^ 64 - 1)).getLsbD k = true := by
  rw [BitVec.getLsbD_ofNat, Nat.testBit_two_pow_sub_one, decide_eq_true hk]
  rfl

/-! ### What a write of memory notes (R317, R391, R420) -/

/-- A field of a table's entries that a change of them keeps. -/
theorem tget_map_field {α β : Type} (f : α → β) (d : α) {g : Nat × α → Nat × α} (key : ∀ x, (g x).1 = x.1) (keeps : ∀ x, f (g x).2 = f x.2)
    (t : Tbl α) (n : Nat) : f (tget d (t.map g) n) = f (tget d t n) := by
  induction t with
  | nil => rfl
  | cons x t ih =>
    obtain ⟨k, v⟩ := x
    have gx : g (k, v) = (k, (g (k, v)).2) := Prod.ext (key _) rfl
    rw [List.map_cons, gx]
    simp only [tget]
    split
    · exact keeps (k, v)
    · exact ih

@[simp] theorem markDirty_cores (s : State) (pa : Nat) : (markDirty s pa).cores = s.cores := by unfold markDirty; dsimp only; split <;> rfl
@[simp] theorem dropRels_cores (s : State) (pa mask : Nat) : (dropRels s pa mask).cores = s.cores := by
  unfold dropRels; dsimp only; split <;> rfl
@[simp] theorem poisonRow_cores (s : State) (pa : Nat) : (poisonRow s pa).cores = s.cores := by unfold poisonRow; split <;> rfl
@[simp] theorem countStack_cores (s : State) (pa : Nat) (b : Option Nat) : (countStack s pa b).cores = s.cores := by
  unfold countStack; split <;> rfl
@[simp] theorem meetError_cores (s : State) (pa : Nat) : (meetError s pa).cores = s.cores := by
  unfold meetError; split
  · simp
  · split <;> simp

/-- A write changes of the cores at most the marks of zeroed banks (R208). -/
theorem coreField_dropDisc {α : Type} (f : Core → α) (keeps : ∀ c d, f { c with arch := { c.arch with disc := d } } = f c) (s : State)
    (pa c : Nat) : f (coreOf (dropDisc s pa) c) = f (coreOf s c) := by
  unfold dropDisc
  dsimp only
  split
  · refine tget_map_field f Core.idle (fun x => ?_) (fun x => ?_) _ _
    · split <;> rfl
    · split
      · exact keeps ..
      · rfl
  · rfl

theorem coreField_noteBytes {α : Type} (f : Core → α) (keeps : ∀ c d, f { c with arch := { c.arch with disc := d } } = f c) (s : State)
    (pa mask c : Nat) : f (coreOf (noteBytes s pa mask) c) = f (coreOf s c) := by
  rw [noteBytes, coreField_dropDisc f keeps, coreOf_congr ((dropRels_cores ..).trans (markDirty_cores ..))]

/-- A row written under a mask: each byte that the mask names is that of the data (R140, R391). -/
theorem cellAt_writePart {s : State} (wf : Inv s) (pa : Nat) (r : Row) (m : BitVec 64) (x : Nat) :
    cellAt (writePart s pa r m).mem x = if canon (rowBase pa) ≤ x ∧ x < canon (rowBase pa) + 64 ∧ m.getLsbD (x - canon (rowBase pa)) = true
      then r.extractLsb' (8 * (x - canon (rowBase pa))) 8 else cellAt s.mem x := by
  simp only [writePart, noteBytes_mem, meetIf_mem]
  rw [cellAt_writeN wf, byte_ofNat]
  simp only [bit_iff]

theorem cellAt_writeRow_all {s : State} (wf : Inv s) (pa : Nat) (r : Row) (x : Nat) :
    cellAt (writeRow s pa r).mem x = if canon (rowBase pa) ≤ x ∧ x < canon (rowBase pa) + 64
      then r.extractLsb' (8 * (x - canon (rowBase pa))) 8 else cellAt s.mem x := by
  simp only [writeRow, noteBytes_mem]
  rw [cellAt_writeN wf, byte_ofNat]
  by_cases h : canon (rowBase pa) ≤ x ∧ x < canon (rowBase pa) + 64
  · rw [if_pos ⟨h.1, h.2, mask_ones (by omega)⟩, if_pos h]
  · rw [if_neg h, if_neg fun c => h ⟨c.1, c.2.1⟩]

/-- A store writes its bytes in its row, whole or in part. -/
theorem cellAt_applyStore {s : State} (wf : Inv s) (r : Req) (x : Nat) :
    cellAt (applyStore s r).mem x = if canon (rowBase r.pa) ≤ x ∧ x < canon (rowBase r.pa) + 64 ∧
        (storeBytes r).2.getLsbD (x - canon (rowBase r.pa)) = true
      then (storeBytes r).1.extractLsb' (8 * (x - canon (rowBase r.pa))) 8 else cellAt s.mem x := by
  unfold applyStore
  dsimp only
  split
  · next whole =>
    rw [cellAt_writeRow_all wf, whole.1]
    by_cases h : canon (rowBase r.pa) ≤ x ∧ x < canon (rowBase r.pa) + 64
    · have bit : (BitVec.ofNat 64 (2 ^ 64 - 1)).getLsbD (x - canon (rowBase r.pa)) = true :=
        getLsbD_allBytes (by omega)
      rw [if_pos h, if_pos ⟨h.1, h.2, bit⟩]
    · rw [if_neg h, if_neg fun c => h ⟨c.1, c.2.1⟩]
  · exact cellAt_writePart wf ..

theorem writeRow_cores (s : State) (pa : Nat) (r : Row) : (writeRow s pa r).cores = (noteBytes s pa (2 ^ 64 - 1)).cores := by
  simp only [writeRow]

theorem writePart_cores (s : State) (pa : Nat) (r : Row) (m : BitVec 64) : (writePart s pa r m).cores =
    (noteBytes (if partMask pa m.toNat then meetError s pa else s) pa m.toNat).cores := by
  simp only [writePart]

theorem meetIf_cores (s : State) (p : Prop) [Decidable p] (pa : Nat) : (if p then meetError s pa else s).cores = s.cores := by
  split
  · exact meetError_cores ..
  · rfl

/-- A store changes of the cores at most the marks of zeroed banks. -/
theorem coreField_applyStore {α : Type} (f : Core → α) (keeps : ∀ c d, f { c with arch := { c.arch with disc := d } } = f c) (s : State)
    (r : Req) (c : Nat) : f (coreOf (applyStore s r) c) = f (coreOf s c) := by
  unfold applyStore
  dsimp only
  split
  · rw [coreOf_congr (writeRow_cores ..), coreField_noteBytes f keeps]
  · rw [coreOf_congr (writePart_cores ..), coreField_noteBytes f keeps, coreOf_congr (meetIf_cores ..)]

/-- A byte of a row shifted up by bytes. -/
theorem byte_shiftLeft (r : Row) {o j : Nat} (within : o + j < 64) :
    (r <<< (8 * o)).extractLsb' (8 * (o + j)) 8 = r.extractLsb' (8 * j) 8 := by
  apply BitVec.eq_of_getLsbD_eq
  intro i hi
  simp only [BitVec.getLsbD_extractLsb', BitVec.getLsbD_shiftLeft, decide_eq_true hi, Bool.true_and]
  rw [decide_eq_true (by omega), decide_eq_false (by omega), Nat.mul_add, Nat.add_assoc, Nat.add_sub_cancel_left]
  rfl

/-- A bit of the mask of a word's bytes, placed in its row. -/
theorem getLsbD_wordMask (m : BitVec 64) {o j : Nat} (within : o + j < 64) (low : j < 8) :
    ((m &&& 0xFF) <<< o).getLsbD (o + j) = m.getLsbD j := by
  have ones : ∀ j < 8, (0xFF : BitVec 64).getLsbD j = true := by decide
  simp only [BitVec.getLsbD_shiftLeft, BitVec.getLsbD_and, Nat.add_sub_cancel_left, ones j low, Bool.and_true]
  rw [decide_eq_true within, decide_eq_false (by omega)]
  rfl

/-- A bit of that mask outside the word's bytes. -/
theorem getLsbD_wordMask_apart (m : BitVec 64) {o k : Nat} (apart : k < o ∨ o + 8 ≤ k) : ((m &&& 0xFF) <<< o).getLsbD k = false := by
  have zeros : ∀ j, 8 ≤ j → (0xFF : BitVec 64).getLsbD j = false := fun j hj => by
    by_cases h : j < 64
    · have : ∀ j < 64, 8 ≤ j → (0xFF : BitVec 64).getLsbD j = false := by decide
      exact this j h hj
    · exact BitVec.getLsbD_of_ge _ _ (Nat.not_lt.1 h)
  simp only [BitVec.getLsbD_shiftLeft, BitVec.getLsbD_and]
  obtain below | above := apart
  · simp [below]
  · rw [zeros (k - o) (by omega)]; simp

theorem storeBytes_row {r : Req} (row : r.len = 64) : storeBytes r = (r.data, r.mask) := by rw [storeBytes, if_pos row]

theorem storeBytes_word {r : Req} (word : r.len = 8) : storeBytes r =
    (r.data <<< (8 * (r.pa % 64 / 8 * 8)), (r.mask &&& 0xFF) <<< (r.pa % 64 / 8 * 8)) := by
  rw [storeBytes, if_neg (by omega)]

/-- A store of `n` bytes leaves of them those that its mask names as its data's (R140, R144). -/
theorem cellAt_store_byte {s : State} (wf : Inv s) {r : Req} (len : r.len = 64 ∨ r.len = 8) {j : Nat} (hj : j < r.len) :
    cellAt (applyStore s r).mem (canon (r.pa / r.len * r.len) + j) =
      if r.mask.getLsbD j then r.data.extractLsb' (8 * j) 8 else cellAt s.mem (canon (r.pa / r.len * r.len) + j) := by
  rw [cellAt_applyStore wf]
  obtain row | word := len
  · rw [row] at hj ⊢
    have base : canon (r.pa / 64 * 64) = canon (rowBase r.pa) := rfl
    simp only [storeBytes_row row, base, Nat.add_sub_cancel_left, Nat.le_add_right, true_and, Nat.add_lt_add_left hj]
  · rw [word] at hj ⊢
    have within : r.pa % 64 / 8 * 8 + j < 64 := by omega
    simp only [storeBytes_word word, canon_word, Nat.add_assoc, Nat.add_sub_cancel_left, Nat.le_add_right, true_and,
      Nat.add_lt_add_left within, getLsbD_wordMask _ within hj, byte_shiftLeft _ within]

/-- A store changes no byte outside its own. -/
theorem cellAt_store_apart {s : State} (wf : Inv s) {r : Req} (len : r.len = 64 ∨ r.len = 8) {b : Nat}
    (apart : b < canon (r.pa / r.len * r.len) ∨ canon (r.pa / r.len * r.len) + r.len ≤ b) :
    cellAt (applyStore s r).mem b = cellAt s.mem b := by
  rw [cellAt_applyStore wf, if_neg]
  rintro ⟨low, high, bit⟩
  obtain row | word := len
  · rw [row] at apart
    have base : canon (r.pa / 64 * 64) = canon (rowBase r.pa) := rfl
    omega
  · rw [word, canon_word] at apart
    rw [storeBytes_word word, getLsbD_wordMask_apart _ (by omega)] at bit
    exact Bool.false_ne_true bit

/-! ### Accesses at their homes (R139, R140, R307) -/

/-- A request that is performed is one no longer. -/
theorem dropReq_reqs {s : State} {core id : Nat} : ∀ q ∈ (archOf (dropReq s core id) core).reqs, q.id ≠ id := by
  intro q hq
  rw [dropReq, archOf_modArch_same] at hq
  simpa using (List.mem_filter.1 hq).2

/-- A load or store of the package whose home is there is performed. -/
theorem accessPerformed_home {core i : Nat} {r : Req} {s : State} (at_ : (archOf s core).reqs[i]? = some r)
    (op : r.op = .load ∨ r.op = .store) (ready : reqReady (archOf s core) r = true) (pkg : paPkg r.pa = s.pkg.toNat)
    (storage : storageOk s r.pa = true) (tier : tierUp s r.pa = true) :
    exec (.accessPerformed core i) s = .next (if r.op = .load then performLoad s core r else performStore s core r) := by
  show execAccessPerformed core i s = _
  obtain op | op := op <;> simp [execAccessPerformed, at_, op, ready, accessAt, pkg, storage, tier]

theorem notePend_mem (s : State) (k : Sid) (code slot aux : Nat) (tfa : BitVec 48) (targ : Word) :
    (notePend s k code slot aux tfa targ).mem = s.mem := meetIf_mem ..

theorem archOf_notePend_ne (s : State) {k : Sid} {c : Nat} (other : c ≠ k.core) (code slot aux : Nat) (tfa : BitVec 48) (targ : Word) :
    archOf (notePend s k code slot aux tfa targ) c = archOf s c := by
  rw [notePend, modStrm, putStrm, archOf_modArch_ne _ _ other, archOf_congr (meetIf_cores ..)]

theorem setRels_mem (s : State) (pa mask core : Nat) : (setRels s pa mask core).mem = s.mem := rfl
theorem setRels_cores (s : State) (pa mask core : Nat) : (setRels s pa mask core).cores = s.cores := rfl

/-- A store that is performed changes memory as its bytes are written. -/
theorem performStore_mem (s : State) (core : Nat) (r : Req) : (performStore s core r).mem = (applyStore s r).mem := by
  simp only [performStore, dropReq, modArch_mem]
  split <;> split <;> simp only [notePend_mem, setRels_mem]

/-- No stream of another core notices it. -/
theorem performStore_strm (s : State) {core : Nat} (r : Req) {k : Sid} (other : k.core ≠ core) :
    strmOf (performStore s core r) k = strmOf s k := by
  have applied : strmOf (applyStore s r) k = strmOf s k := coreField_applyStore (fun c => c.arch.stream k.side)
    (fun _ _ => by cases k.side <;> rfl) ..
  have marked : ∀ u : State, u = (if r.sig then setRels (applyStore s r) r.pa (storeBytes r).2.toNat core else applyStore s r) →
      archOf u k.core = archOf (applyStore s r) k.core := by
    intro u hu
    rw [hu]
    split
    · exact archOf_congr (setRels_cores ..) _
    · rfl
  rw [← applied]
  simp only [strmOf, performStore, dropReq, archOf_modArch_ne _ _ other]
  split
  · rw [archOf_notePend_ne _ (k := reqSid core r) other, marked _ rfl]
  · rw [marked _ rfl]

/-- Settles O24: the bytes are those of the store applied to its row. -/
theorem storesAreWritten : Obligations.StoresAreWritten := by
  intro core i r s wf at_ op ready pkg storage tier len n a
  have goes := accessPerformed_home at_ (.inr op) ready pkg storage tier
  rw [op, if_neg nofun] at goes
  refine ⟨_, goes, fun k other => performStore_strm s r other, dropReq_reqs, fun j hj => ?_, fun b apart => ?_⟩
  · rw [performStore_mem]; exact cellAt_store_byte wf len hj
  · rw [performStore_mem]; exact cellAt_store_apart wf len apart

/-! ### What an access returns (R139, R144) -/

/-- A landing that awaits a request has its data; any other operation stands. -/
theorem returnData_op {s : State} {core id : Nat} {r : Row} {bad : Option Nat} {sd : Bool} {n : Nat} {x : Flight}
    (at_ : (strmOf s ⟨core, sd⟩).pipe.ops[n]? = some x) :
    (strmOf (returnData s core id r bad) ⟨core, sd⟩).pipe.ops[n]? = some (fillFlight id r bad x) := by
  have filled : strmOf (returnData s core id r bad) ⟨core, sd⟩ = fillStream id r bad (strmOf s ⟨core, sd⟩) := by
    rw [strmOf, returnData, archOf_modArch_same]
    cases sd <;> rfl
  rw [filled, fillStream, List.getElem?_map, at_]
  rfl

theorem fillFlight_other {id : Nat} {r : Row} {bad : Option Nat} {x : Flight} (other : x.landing = false ∨ x.req ≠ id) :
    fillFlight id r bad x = x := by
  refine if_neg fun c => ?_
  simp only [Bool.and_eq_true, beq_iff_eq] at c
  obtain no | no := other
  · exact Bool.false_ne_true (no.symm.trans c.1)
  · exact no c.2

theorem fillFlight_awaits {id : Nat} {r : Row} {bad : Option Nat} {x : Flight} (landing : x.landing = true) (req : x.req = id) :
    fillFlight id r bad x = { x with got := true, val := shapeData x.shape r, bad := bad } := by
  refine if_pos ?_
  rw [landing, req]
  simp

theorem strmOf_dropReq (s : State) (core id : Nat) (k : Sid) : strmOf (dropReq s core id) k = strmOf s k :=
  strmOf_modArch (fun _ b => by cases b <;> rfl) ..

theorem strmOf_takeIds (s : State) (core : Nat) (r : Req) (ids : List Nat) (k : Sid) :
    strmOf (modArch s core (fun a => takeIds a r ids)) k = strmOf s k := by
  refine strmOf_modArch (fun a b => ?_) ..
  unfold takeIds addIds
  dsimp only
  split
  · split <;> cases b <;> rfl
  · split <;> cases b <;> rfl

theorem reqs_takeIds (s : State) (core : Nat) (r : Req) (ids : List Nat) (c : Nat) :
    (archOf (modArch s core (fun a => takeIds a r ids)) c).reqs = (archOf s c).reqs := by
  refine archField_modArch Arch.reqs (fun a => ?_) ..
  unfold takeIds addIds
  dsimp only
  split
  · split <;> rfl
  · split <;> rfl

/-- A row without an error is met without one (R391). -/
theorem meetError_clean {s : State} {pa : Nat} (clean : poisoned s pa = false) : meetError s pa = s := by
  have flaw : s.flaws.contains (canon pa / 64) = false := by
    simp only [poisoned, Bool.or_eq_false_iff] at clean
    exact clean.2
  rw [meetError, flaw, clean]
  rfl

/-- A word as it stands in the low bits of a row. -/
theorem word_of_row (w : Word) : (w.setWidth 512).toNat % 2 ^ 64 = w.toNat := by
  rw [BitVec.toNat_setWidth_of_le (by decide), Nat.mod_eq_of_lt w.isLt]

/-- The word of a broadcast landing stands in every pair of lanes (R139). -/
theorem elem_bcast (w : Word) {k : Nat} (hk : k < 8) : elem 64 (shapeData .bcast (w.setWidth 512)) k = w.toNat := by
  show elem 64 (ofElems 64 _) k = _
  rw [elem_ofElems _ (by omega), word_of_row, List.getD_eq_getElem _ _ (by simpa using hk), List.getElem_replicate]
  exact Nat.mod_eq_of_lt w.isLt

theorem shapeData_word (w : Word) : shapeData .word (w.setWidth 512) = w.setWidth 512 := by
  show BitVec.ofNat 512 _ = _
  rw [word_of_row, BitVec.ofNat_toNat]

/-- Settles O23: what a load returns fills the landings that await it, each by its shape. -/
theorem loadsAreRead : Obligations.LoadsAreRead := by
  intro core i r s at_ op ready pkg storage tier clean
  have goes := accessPerformed_home at_ (.inl op) ready pkg storage tier
  rw [if_pos op] at goes
  refine ⟨_, goes, ?mem, ?poison, ?cores, ?gone, fun sd n x hx => ?landing⟩
  case mem => simp only [performLoad, meetError_clean clean]; rfl
  case poison => simp only [performLoad, meetError_clean clean]; rfl
  case cores =>
    simp only [performLoad, meetError_clean clean]
    exact sameCores_trans (sameCores_trans (sameCores_modArch _ _ _) (sameCores_modArch _ _ _)) (sameCores_modArch _ _ _)
  case gone =>
    simp only [performLoad, reqs_takeIds]
    exact dropReq_reqs
  case landing =>
    refine ⟨_, by simp only [performLoad, strmOf_takeIds, strmOf_dropReq, meetError_clean clean]; exact returnData_op hx,
      fillFlight_other, fun landing req => ?_⟩
    rw [fillFlight_awaits landing req]
    refine ⟨rfl, rfl, rfl, rfl, fun row len => ?_, fun word len => ?_, fun bcast len k hk => ?_⟩
    · simp [row, len, shapeData]
    · simp [word, len, shapeData_word]
    · simp [bcast, len, elem_bcast _ hk]

end Sys2Proof.MemoryProofs

namespace Sys2Proof.MemoryProofs
open Sys2Proof.Machine Sys2Proof.Laws Sys2Proof.VectorProofs

/-! ### The operation of an atomic (R147, R148) -/

/-- A half of a word that is replaced, the other half beside it (R148). -/
theorem setFld_low (x : Word) (v : Nat) : setFld x 0 32 v = x.extractLsb' 32 32 ++ BitVec.ofNat 32 v := by
  apply BitVec.eq_of_getLsbD_eq
  intro i hi
  rw [getLsbD_setFld _ _ _ _ hi, BitVec.getLsbD_append]
  by_cases low : i < 32
  · simp [low, BitVec.getLsbD_ofNat, -BitVec.getLsbD_eq_getElem]
  · have : i - 32 < 32 := by omega
    simp [low, this, show 32 + (i - 32) = i by omega]

theorem setFld_high (x : Word) (v : Nat) : setFld x 32 32 v = BitVec.ofNat 32 v ++ x.extractLsb' 0 32 := by
  apply BitVec.eq_of_getLsbD_eq
  intro i hi
  rw [getLsbD_setFld _ _ _ _ hi, BitVec.getLsbD_append]
  by_cases low : i < 32
  · simp [low, show ¬32 ≤ i by omega]
  · have : i - 32 < 32 := by omega
    simp [low, this, show 32 ≤ i by omega, show i < 64 by omega, BitVec.getLsbD_ofNat, -BitVec.getLsbD_eq_getElem]

/-- A field of 32 bits as a part of a word. -/
theorem wf_half (x : Word) (lo : Nat) : wf x lo 32 = (x.extractLsb' lo 32).toNat := by
  rw [BitVec.extractLsb'_toNat, Nat.shiftRight_eq_div_pow]
  rfl

/-- What each opcode makes of the word, `b` the operand, `e` the expected value, `hi` the half of `afadd` (R147, R148). -/
def AtomResult (c : BitVec 8) (hi : Bool) (x b e y : Word) : Prop :=
  (c = 7 → y = x + b) ∧ (c = 8 → y = x &&& b) ∧ (c = 9 → y = x ||| b) ∧ (c = 10 → y = x ^^^ b) ∧
  (c = 11 → y.toInt = Min.min x.toInt b.toInt) ∧ (c = 12 → y.toInt = Max.max x.toInt b.toInt) ∧
  (c = 13 → y.toNat = Min.min x.toNat b.toNat) ∧ (c = 14 → y.toNat = Max.max x.toNat b.toNat) ∧
  (c = 15 → y = b) ∧ (c = 16 → y = if x = e then b else x) ∧
  (c = 17 → hi = false → y = x.extractLsb' 32 32 ++
    BitVec.ofNat 32 (fAdd fp32 0 false (x.extractLsb' 0 32).toNat (b.extractLsb' 0 32).toNat).1) ∧
  (c = 17 → hi = true → y =
    BitVec.ofNat 32 (fAdd fp32 0 false (x.extractLsb' 32 32).toNat (b.extractLsb' 0 32).toNat).1 ++ x.extractLsb' 0 32)

theorem atomVal_result (c : BitVec 8) (hi : Bool) (x b e : Word) : AtomResult c hi x b e (atomVal c.toNat hi x b e) := by
  refine ⟨?_, ?_, ?_, ?_, ?_, ?_, ?_, ?_, ?_, ?_, ?_, ?_⟩ <;> rintro rfl
  · rfl
  · rfl
  · rfl
  · rfl
  · show (if x.toInt ≤ b.toInt then x else b).toInt = _
    split <;> omega
  · show (if x.toInt ≤ b.toInt then b else x).toInt = _
    split <;> omega
  · show (if x.toNat ≤ b.toNat then x else b).toNat = _
    split <;> omega
  · show (if x.toNat ≤ b.toNat then b else x).toNat = _
    split <;> omega
  · rfl
  · rfl
  · rintro rfl
    rw [← wf_half, ← wf_half, ← setFld_low]
    rfl
  · rintro rfl
    rw [← wf_half, ← wf_half, ← setFld_high]
    rfl

/-! ### Nodes (R263) -/

theorem find?_tput {α : Type} (t : Tbl α) (n : Nat) (v : α) : (tput t n v).find? (fun e => e.1 == n) = some (n, v) := by
  induction t with
  | nil => simp [tput]
  | cons x t ih =>
    obtain ⟨k, w⟩ := x
    simp only [tput]
    split
    · simp
    · next above =>
      split
      · simp
      · next other =>
        have : (k == n) = false := by simpa using fun h : k = n => other h.symm
        rw [List.find?_cons, this, ih]

/-- A node after it was changed. -/
theorem nodeOf_modNode (s : State) (c n : Nat) (g : Node → Node) : nodeOf (modNode s c n g) c n = (nodeOf s c n).map g := by
  unfold modNode
  split
  · next none => rw [none]; rfl
  · next x some_ =>
    rw [some_, nodeOf, ctxOf_modCtx_same, find?_tput]
    rfl

theorem nodeOf_of_nodes {s t : State} {c : Nat} (same : (ctxOf t c).nodes = (ctxOf s c).nodes) (n : Nat) : nodeOf t c n = nodeOf s c n := by
  rw [nodeOf, same, nodeOf]

/-! ### Atomics at their unit (R146 to R148, R394) -/

/-- The node of an atomic keeps it for undo: it is restartable, and the word lies outside its banks (R394). -/
def Undone (s : State) (r : Req) : Prop := ∃ z, nodeOf s r.ctx r.node = some z ∧ z.restart = true ∧ nodeOwns s z r.pa = false

/-- Where the undo record goes: a free place in the ring of the save area (log 69). -/
def undoAt (s : State) (r : Req) : Nat :=
  canon (recN (ctxOf s r.ctx).record 56 8 + 0xAA000000 + 16 * (Config.undoPlace s.fresh % 2 ^ 22))

theorem writeUndo_mem (s : State) (r : Req) (u : Undo) : ∃ v, (writeUndo s r.ctx u).mem = writeN s.mem (undoAt s r) v (2 ^ 16 - 1) 16 :=
  ⟨(Config.undoEntry u.pa u.opc.toNat u.b u.old u.new).toNat, by simp only [writeUndo, writeRec, undoAt]⟩

/-- The undo of an atomic writes at most its record, and changes no core (R394). -/
theorem noteUndo_cases (s : State) (r : Req) (opc : BitVec 8) (old new : Word) : (noteUndo s r opc old new).cores = s.cores ∧
    ((noteUndo s r opc old new).mem = s.mem ∨
      (Undone s r ∧ ∃ v, (noteUndo s r opc old new).mem = writeN s.mem (undoAt s r) v (2 ^ 16 - 1) 16)) := by
  unfold noteUndo
  split
  · exact ⟨rfl, .inl rfl⟩
  · next n node =>
    split
    · exact ⟨rfl, .inl rfl⟩
    · next kept =>
      have undone : Undone s r := ⟨n, node, by simpa using kept⟩
      split
      · obtain ⟨l, same, -⟩ := modNode_spec s r.ctx r.node fun n => { n with restart := false }
        rw [same]
        exact ⟨rfl, .inl rfl⟩
      · let u : Undo := { pa := r.pa, opc := opc, b := r.data.setWidth 64, old := old, new := new }
        obtain ⟨l, same, -⟩ := modNode_spec (writeUndo s r.ctx u) r.ctx r.node fun n => { n with undo := n.undo ++ [u] }
        obtain ⟨v, mem⟩ := writeUndo_mem s r u
        dsimp only
        rw [same]
        exact ⟨rfl, .inr ⟨undone, v, mem⟩⟩

/-- The write of an atomic's word, and what it leaves of the cores. -/
theorem atomWrite_mem (s : State) (core pa : Nat) (sig : Bool) (w : Word) :
    (atomWrite s core pa sig w).mem = writeN s.mem (canon (pa / 8 * 8)) w.toNat 255 8 := by
  have word : (writeWord s pa w).mem = writeN s.mem (canon (pa / 8 * 8)) w.toNat 255 8 := by
    simp only [writeWord, noteBytes_mem, meetIf_mem]
  unfold atomWrite
  dsimp only
  split
  · rw [setRels_mem]; exact word
  · exact word

theorem writeWord_cores (s : State) (pa : Nat) (w : Word) : (writeWord s pa w).cores =
    (noteBytes (if partMask pa (255 * 2 ^ (pa % 64 / 8 * 8)) then meetError s pa else s) pa (255 * 2 ^ (pa % 64 / 8 * 8))).cores := by
  simp only [writeWord]

theorem strmOf_atomWrite (s : State) (core pa : Nat) (sig : Bool) (w : Word) (k : Sid) :
    strmOf (atomWrite s core pa sig w) k = strmOf s k := by
  have cores : (atomWrite s core pa sig w).cores = (writeWord s pa w).cores := by
    unfold atomWrite
    dsimp only
    split
    · rw [setRels_cores]
    · rfl
  rw [strmOf_congr cores, strmOf_congr (writeWord_cores ..), strmOf, archOf]
  rw [coreField_noteBytes (fun c => c.arch.stream k.side) (fun _ _ => by cases k.side <;> rfl), coreOf_congr (meetIf_cores ..)]
  rfl

/-- What meeting an error can change (R391, R443). -/
theorem meetError_form (s : State) (pa : Nat) : ∃ p f h, meetError s pa = { s with poison := p, flaws := f, health := h } := by
  have poison : ∀ u : State, ∃ p f, poisonRow u pa = { u with poison := p, flaws := f } := fun u => by
    unfold poisonRow; split <;> exact ⟨_, _, rfl⟩
  have count : ∃ h, countStack s pa none = { s with health := h } := by
    unfold countStack; split <;> exact ⟨_, rfl⟩
  unfold meetError
  split
  · obtain ⟨h, ch⟩ := count
    obtain ⟨p, f, pf⟩ := poison (countStack s pa none)
    exact ⟨p, f, h, by rw [pf, ch]⟩
  · split
    · obtain ⟨p, f, pf⟩ := poison s
      exact ⟨p, f, s.health, pf⟩
    · exact ⟨s.poison, s.flaws, s.health, rfl⟩

/-- What a write of bytes notes beside them (R317, R420, R208). -/
theorem noteBytes_form (s : State) (pa mask : Nat) : ∃ m r c, noteBytes s pa mask =
    { s with hub := { s.hub with migs := m }, rels := r, cores := c } := by
  have dirty : ∃ m, markDirty s pa = { s with hub := { s.hub with migs := m } } := by
    unfold markDirty; dsimp only; split <;> exact ⟨_, rfl⟩
  have rels : ∀ u : State, ∃ r, dropRels u pa mask = { u with rels := r } := fun u => by
    unfold dropRels; dsimp only; split <;> exact ⟨_, rfl⟩
  have disc : ∀ u : State, ∃ c, dropDisc u pa = { u with cores := c } := fun u => by
    unfold dropDisc; dsimp only; split <;> exact ⟨_, rfl⟩
  obtain ⟨m, hm⟩ := dirty
  obtain ⟨r, hr⟩ := rels (markDirty s pa)
  obtain ⟨c, hc⟩ := disc (dropRels (markDirty s pa) pa mask)
  exact ⟨m, r, c, by rw [noteBytes, hc, hr, hm]⟩

/-- A write of an atomic's word leaves what an undo record depends on. -/
theorem atomWrite_hub (s : State) (core pa : Nat) (sig : Bool) (w : Word) : (atomWrite s core pa sig w).fresh = s.fresh ∧
    (atomWrite s core pa sig w).pkg = s.pkg ∧ (atomWrite s core pa sig w).hub.ctxs = s.hub.ctxs := by
  let mask := 255 * 2 ^ (pa % 64 / 8 * 8)
  obtain ⟨m, r, c, noted⟩ := noteBytes_form (if partMask pa mask then meetError s pa else s) pa mask
  have met : ∃ p f h, (if partMask pa mask then meetError s pa else s) = { s with poison := p, flaws := f, health := h } := by
    split
    · exact meetError_form s pa
    · exact ⟨s.poison, s.flaws, s.health, rfl⟩
  obtain ⟨p, f, h, met⟩ := met
  rw [met] at noted
  unfold atomWrite writeWord
  dsimp only
  rw [met, noted]
  split <;> exact ⟨rfl, rfl, rfl⟩

/-- What an atomic leaves of memory: its word, and at most an undo record. -/
theorem performAtom_mem (s : State) (core : Nat) (r : Req) (opc : BitVec 8) :
    let y := atomVal opc.toNat (decide (fld r.pa 2 1 = 1)) (wordAt s r.pa) (r.data.setWidth 64) r.cmp
    let m := writeN s.mem (canon (r.pa / 8 * 8)) y.toNat 255 8
    (performAtom s core r opc).mem = m ∨ (Undone s r ∧ ∃ v, (performAtom s core r opc).mem = writeN m (undoAt s r) v (2 ^ 16 - 1) 16) := by
  intro y m
  obtain ⟨fresh, pkg, ctxs⟩ := atomWrite_hub s core r.pa r.sig y
  have ctx : ctxOf (atomWrite s core r.pa r.sig y) r.ctx = ctxOf s r.ctx := by rw [ctxOf, ctxs, ctxOf]
  have place : undoAt (atomWrite s core r.pa r.sig y) r = undoAt s r := by rw [undoAt, ctx, fresh, undoAt]
  have node : Undone (atomWrite s core r.pa r.sig y) r → Undone s r := by
    rintro ⟨z, found, restart, owns⟩
    refine ⟨z, ?_, restart, ?_⟩
    · rw [← found, nodeOf, nodeOf, ctx]
    · rw [← owns, nodeOwns, nodeOwns, pkg]
  obtain ⟨-, mem⟩ := noteUndo_cases (atomWrite s core r.pa r.sig y) r opc (wordAt s r.pa) y
  have same : (performAtom s core r opc).mem = (noteUndo (atomWrite s core r.pa r.sig y) r opc (wordAt s r.pa) y).mem := by
    simp only [performAtom, modArch_mem, dropReq, returnData]; rfl
  rw [same]
  rw [atomWrite_mem, place] at mem
  exact mem.imp_right (And.imp_left node)

/-- An atomic that is performed gives the old word to the landing that awaits it. -/
theorem performAtom_lands {s : State} {core : Nat} {r : Req} (opc : BitVec 8) {sd : Bool} {n : Nat} {z : Flight}
    (at_ : (strmOf s ⟨core, sd⟩).pipe.ops[n]? = some z) (landing : z.landing = true) (req : z.req = r.id) (shape : z.shape = .word) :
    ∃ y, (strmOf (performAtom s core r opc) ⟨core, sd⟩).pipe.ops[n]? = some y ∧ y.got = true ∧ y.val = (wordAt s r.pa).setWidth 512 := by
  let w := atomVal opc.toNat (decide (fld r.pa 2 1 = 1)) (wordAt s r.pa) (r.data.setWidth 64) r.cmp
  let u := noteUndo (atomWrite s core r.pa r.sig w) r opc (wordAt s r.pa) w
  have before : (strmOf u ⟨core, sd⟩).pipe.ops[n]? = some z := by
    rw [strmOf_congr (noteUndo_cases ..).1, strmOf_atomWrite]; exact at_
  refine ⟨_, by simp only [performAtom, strmOf_takeIds, strmOf_dropReq]; exact returnData_op before, ?_⟩
  rw [fillFlight_awaits landing req, shape, shapeData_word]
  exact ⟨rfl, rfl⟩

theorem performAtom_reqs {s : State} {core : Nat} {r : Req} (opc : BitVec 8) :
    ∀ q ∈ (archOf (performAtom s core r opc) core).reqs, q.id ≠ r.id := by
  simp only [performAtom, reqs_takeIds]
  exact dropReq_reqs

/-- What an atomic that is performed does, as the statement about one says it (R146, R147). -/
def AtomDone (s : State) (core : Nat) (r : Req) (c : BitVec 8) (t : State) : Prop :=
  (∀ q ∈ (archOf t core).reqs, q.id ≠ r.id) ∧
  AtomResult c (r.pa.testBit 2) (wordAt s r.pa) (r.data.setWidth 64) r.cmp (wordAt t r.pa) ∧
  (∀ j, j < canon (r.pa / 8 * 8) ∨ canon (r.pa / 8 * 8) + 8 ≤ j → (Undone s r → j < undoAt s r ∨ undoAt s r + 16 ≤ j) →
    cellAt t.mem j = cellAt s.mem j) ∧
  ∀ (sd : Bool) (n : Nat) (z : Flight), (strmOf s ⟨core, sd⟩).pipe.ops[n]? = some z → z.landing = true → z.req = r.id →
    z.shape = .word → ∃ y, (strmOf t ⟨core, sd⟩).pipe.ops[n]? = some y ∧ y.got = true ∧ y.val = (wordAt s r.pa).setWidth 512

theorem performAtom_done {s : State} (wf : Inv s) (core : Nat) (r : Req) (c : BitVec 8)
    (apart : Undone s r → undoAt s r + 16 ≤ canon (r.pa / 8 * 8) ∨ canon (r.pa / 8 * 8) + 8 ≤ undoAt s r) :
    AtomDone s core r c (performAtom s core r c) := by
  let y := atomVal c.toNat (decide (fld r.pa 2 1 = 1)) (wordAt s r.pa) (r.data.setWidth 64) r.cmp
  let m := writeN s.mem (canon (r.pa / 8 * 8)) y.toNat 255 8
  have wfm : memWf m = true := memWf_writeN wf ..
  have cases_ := performAtom_mem s core r c
  have written : readN m (canon (r.pa / 8 * 8)) 8 = y.toNat := by
    have := readN_writeN_same wf (canon (r.pa / 8 * 8)) y.toNat 8
    rw [Nat.mod_eq_of_lt (by have := y.isLt; omega)] at this
    exact this
  have word : wordAt (performAtom s core r c) r.pa = y := by
    have bytes : readN (performAtom s core r c).mem (canon (r.pa / 8 * 8)) 8 = y.toNat := by
      obtain same | ⟨undone, v, same⟩ := cases_
      · rw [same]; exact written
      · rw [same, readN_writeN_apart wfm _ _ (by have := apart undone; omega)]; exact written
    rw [wordAt, bytes, BitVec.ofNat_toNat, BitVec.setWidth_eq]
  refine ⟨performAtom_reqs c, ?result, fun j out far => ?frame, fun sd n z at_ landing req shape => performAtom_lands c at_ landing req shape⟩
  case result =>
    rw [word, ← testBit_of_fld]
    exact atomVal_result ..
  case frame =>
    have outside : cellAt m j = cellAt s.mem j := by rw [cellAt_writeN wf, if_neg (by omega)]
    obtain same | ⟨undone, v, same⟩ := cases_
    · rw [same]; exact outside
    · rw [same, cellAt_writeN wfm, if_neg (by have := far undone; omega)]; exact outside

/-- Two states differ in their contexts alone, and not in what an undo record of a node depends on. -/
structure UndoKept (s t : State) (ctx node : Nat) : Prop where
  ctxs : ∃ l, t = { s with hub := { s.hub with ctxs := l } }
  record : (ctxOf t ctx).record = (ctxOf s ctx).record
  marks : (nodeOf t ctx node).map (fun z => (z.restart, z.stand, z.record)) = (nodeOf s ctx node).map (fun z => (z.restart, z.stand, z.record))

theorem UndoKept.trans {s t u : State} {ctx node : Nat} (a : UndoKept s t ctx node) (b : UndoKept t u ctx node) : UndoKept s u ctx node := by
  obtain ⟨l, rfl⟩ := a.ctxs
  obtain ⟨l', rfl⟩ := b.ctxs
  exact ⟨⟨l', rfl⟩, b.record.trans a.record, b.marks.trans a.marks⟩

theorem undoKept_modCtx (s : State) (ctx node : Nat) {g : Ctx → Ctx} (record : ∀ x, (g x).record = x.record) (nodes : ∀ x, (g x).nodes = x.nodes) :
    UndoKept s (modCtx s ctx g) ctx node where
  ctxs := ⟨_, rfl⟩
  record := by rw [ctxOf_modCtx_same, record]
  marks := by rw [nodeOf_of_nodes (s := s) (by rw [ctxOf_modCtx_same, nodes])]

theorem undoKept_noteUse (s : State) (ctx node pos : Nat) : UndoKept s (noteUse s ctx node pos) ctx node where
  ctxs := by
    obtain ⟨l, same, -⟩ := modNode_spec s ctx node fun n =>
      if n.log1 = 0 then { n with log0 := pos, log1 := pos + 1 } else { n with log0 := min n.log0 pos, log1 := max n.log1 (pos + 1) }
    exact ⟨l, same⟩
  record := by
    unfold noteUse modNode
    split
    · rfl
    · rw [ctxOf_modCtx_same]
  marks := by
    rw [noteUse, nodeOf_modNode, Option.map_map]
    congr 1
    funext z
    simp only [Function.comp_apply]
    split <;> rfl

/-- A choice that is not recorded changes contexts alone (R358). -/
theorem undoKept_choose (s : State) (ctx node kind unit agent core : Nat) (side : Bool) (plain : (ctxOf s ctx).logm ≠ 1) :
    UndoKept s (choose s ctx node kind unit agent core side) ctx node := by
  have held := undoKept_modCtx s ctx node (g := fun x => { x with held := x.held.filter (fun h => !(h.1 == unitKey kind unit && h.2.1 == agent)) })
    (fun _ => by rfl) fun _ => by rfl
  unfold choose
  dsimp only
  split
  · exact held.trans (undoKept_modCtx _ ctx node (fun _ => by rfl) fun _ => by rfl)
  · split
    · exact held.trans ((undoKept_modCtx _ ctx node (fun _ => by rfl) fun _ => by rfl).trans (undoKept_noteUse ..))
    · rw [decide_eq_false plain, Bool.false_and, if_neg Bool.false_ne_true]
      exact held

theorem UndoKept.symm {s t : State} {ctx node : Nat} (h : UndoKept s t ctx node) : UndoKept t s ctx node := by
  obtain ⟨l, same⟩ := h.ctxs
  exact ⟨⟨s.hub.ctxs, by rw [same]⟩, h.record.symm, h.marks.symm⟩

theorem UndoKept.undone {s t : State} {r : Req} (h : UndoKept s t r.ctx r.node) : Undone s r → Undone t r := by
  rintro ⟨z, found, restart, owns⟩
  obtain ⟨l, same⟩ := h.ctxs
  have marks := h.marks
  rw [found] at marks
  obtain ⟨y, at_, marks⟩ := Option.map_eq_some_iff.1 marks
  obtain ⟨r1, r2, r3⟩ : y.restart = z.restart ∧ y.stand = z.stand ∧ y.record = z.record := by simpa using marks
  have pkg : t.pkg = s.pkg := by rw [same]
  exact ⟨y, at_, r1.trans restart, by rw [← owns]; simp only [nodeOwns, pkg, r2, r3]⟩

theorem UndoKept.undoAt_eq {s t : State} {r : Req} (h : UndoKept s t r.ctx r.node) : undoAt t r = undoAt s r := by
  obtain ⟨l, same⟩ := h.ctxs
  have fresh : t.fresh = s.fresh := by rw [same]
  rw [undoAt, h.record, fresh, undoAt]

/-- What an atomic does after a choice was noted is what it does. -/
theorem AtomDone.of_kept {s u t : State} {core : Nat} {r : Req} {c : BitVec 8} (h : UndoKept s u r.ctx r.node) (done : AtomDone u core r c t) :
    AtomDone s core r c t := by
  obtain ⟨l, same⟩ := h.ctxs
  obtain ⟨gone, result, frame, lands⟩ := done
  have mem : u.mem = s.mem := by rw [same]
  have cores : u.cores = s.cores := by rw [same]
  have word : wordAt u r.pa = wordAt s r.pa := by rw [wordAt, mem, wordAt]
  rw [word] at result
  refine ⟨gone, result, fun j out far => ?_, fun sd n z at_ landing req shape => ?_⟩
  · rw [frame j out fun undone => by rw [h.undoAt_eq]; exact far (h.symm.undone undone), mem]
  · rw [← word]
    exact lands sd n z (by rw [strmOf_congr cores]; exact at_) landing req shape

/-- Settles O25: an `afadd` is performed after its choice was noted, the others at once. -/
theorem atomicsAreExecuted : Obligations.AtomicsAreExecuted := by
  intro core i r c s wf at_ op ready pkg storage clean order x b a n undone u apart
  have goes : exec (.atomicAtUnit core i) s = atomAt s core r c := by
    show execAtomicAtUnit core i s = _
    simp [execAtomicAtUnit, at_, op, ready]
  have home : atomAt s core r c = .next (if c ≠ 17 then performAtom s core r c else if !mayArrive s r.ctx r.node 1 (r.pa / 8 * 8)
      (agentBits s.pkg core r.side) then holdArrival s r.ctx r.node 1 (r.pa / 8 * 8) (agentBits s.pkg core r.side)
      else performAtom (choose s r.ctx r.node 1 (r.pa / 8 * 8) (agentBits s.pkg core r.side) core r.side) core r c) := by
    rw [atomAt]
    simp only [pkg, storage, clean]
    simp only [ne_eq, not_true_eq_false, if_false, Bool.not_true, Bool.false_eq_true]
    split
    · rfl
    · split <;> rfl
  by_cases afadd : c = 17
  · obtain ⟨may, plain⟩ := order afadd
    have kept := undoKept_choose s r.ctx r.node 1 (r.pa / 8 * 8) (agentBits s.pkg core r.side) core r.side plain
    have wf' : Inv (choose s r.ctx r.node 1 (r.pa / 8 * 8) (agentBits s.pkg core r.side) core r.side) := by
      obtain ⟨l, same⟩ := kept.ctxs
      rw [same]; exact wf
    rw [home, if_neg (not_not.2 afadd), if_neg (by rw [may]; exact Bool.false_ne_true)] at goes
    refine ⟨_, goes, AtomDone.of_kept kept (performAtom_done wf' core r c fun un => ?_)⟩
    rw [kept.undoAt_eq]
    exact apart (kept.symm.undone un)
  · rw [home, if_pos afadd] at goes
    exact ⟨_, goes, performAtom_done wf core r c apart⟩

end Sys2Proof.MemoryProofs

/-!
Commands that enter an engine from a slot: the stack product and the transposer (R163, R164, R179, R195, R196).
-/
namespace Sys2Proof.MemoryProofs
open Sys2Proof.Machine Sys2Proof.Laws Sys2Proof.VectorProofs

/-- A field as the spec writes it and as the model reads it. -/
theorem extract_toNat {n : Nat} (x : BitVec n) (lo w : Nat) : (x.extractLsb' lo w).toNat = wf x lo w := by
  rw [BitVec.extractLsb'_toNat, Nat.shiftRight_eq_div_pow]
  rfl

theorem wf_eq_zero_of_extract {n lo w : Nat} {x : BitVec n} (h : x.extractLsb' lo w = 0) : wf x lo w = 0 := by
  rw [← extract_toNat, h]
  rfl

/-! ### What the acceptance of a command counts (R22, R201, R299) -/

/-- Counting translations changes the core's table alone. -/
theorem countHots_keeps {P : State → State → Prop} (refl : ∀ s, P s s) (trans : ∀ s t u, P s t → P t u → P s u) {c : Nat}
    (one : ∀ s i, P s (countHot s c i)) (s : State) (l : List Nat) : P s (countHots s c l) := by
  unfold countHots
  induction l.eraseDups generalizing s with
  | nil => exact refl s
  | cons i l ih => exact trans _ _ _ (one s i) (ih (countHot s c i))

theorem archField_countHots {α : Type} (f : Arch → α) (keeps : ∀ a l, f { a with tab := l } = f a) (s : State) (c d : Nat)
    (l : List Nat) : f (archOf (countHots s c l) d) = f (archOf s d) :=
  countHots_keeps (P := fun s t => f (archOf t d) = f (archOf s d)) (fun _ => rfl) (fun _ _ _ a b => b.trans a)
    (fun s _ => archField_modArch f (fun a => keeps a _) s c d) s l

theorem sameCores_countHots (s : State) (c : Nat) (l : List Nat) : SameCores s (countHots s c l) c :=
  countHots_keeps (P := fun s t => SameCores s t c) (fun _ _ _ => rfl) (fun _ _ _ => sameCores_trans)
    (fun s _ => sameCores_modArch s c _) s l

theorem sameOutside_trans {s t u : State} (a : SameOutside s t) (b : SameOutside t u) : SameOutside s u := by
  obtain ⟨a1, a2, a3, a4, a5, a6, a7, a8, a9, a10, a11, a12⟩ := a
  obtain ⟨b1, b2, b3, b4, b5, b6, b7, b8, b9, b10, b11, b12⟩ := b
  exact ⟨b1.trans a1, b2.trans a2, b3.trans a3, b4.trans a4, b5.trans a5, b6.trans a6, b7.trans a7, b8.trans a8, b9.trans a9,
    b10.trans a10, b11.trans a11, b12.trans a12⟩

theorem sameOutside_countHots (s : State) (c : Nat) (l : List Nat) : SameOutside s (countHots s c l) :=
  countHots_keeps (P := SameOutside) (fun _ => ⟨rfl, rfl, rfl, rfl, rfl, rfl, rfl, rfl, rfl, rfl, rfl, rfl⟩)
    (fun _ _ _ => sameOutside_trans) (fun s _ => sameOutside_modArch s c _) s l

/-- The state in which an engine takes a command: counted, its current set taken, its translations counted. -/
def taken (s : State) (c eng : Nat) (hots : List Nat) : State := countHots (copySet s (countCmd s c eng) c eng) c hots

section
variable (s : State) (c eng : Nat) (hots : List Nat)

/-- Beside the counts of the core, taking a command changes no part of it. -/
theorem archField_taken {α : Type} (f : Arch → α) (tab : ∀ a l, f { a with tab := l } = f a)
    (cur : ∀ a l, f { a with cur := l } = f a) (nacc : ∀ a l, f { a with nacc := l } = f a) (d : Nat) :
    f (archOf (taken s c eng hots) d) = f (archOf s d) := by
  rw [taken, archField_countHots f tab, copySet, archField_modArch f (fun a => cur a _), countCmd,
    archField_modArch f (fun a => nacc a _)]

theorem sameCores_taken : SameCores s (taken s c eng hots) c :=
  sameCores_trans (sameCores_modArch s c _)
    (sameCores_trans (sameCores_modArch (countCmd s c eng) c _) (sameCores_countHots (copySet s (countCmd s c eng) c eng) c hots))

theorem sameOutside_taken : SameOutside s (taken s c eng hots) :=
  sameOutside_trans (sameOutside_modArch s c _)
    (sameOutside_trans (sameOutside_modArch (countCmd s c eng) c _) (sameOutside_countHots (copySet s (countCmd s c eng) c eng) c hots))

/-- The engine's current set is the shadow as it stood. -/
theorem taken_cur : tget [] (archOf (taken s c eng hots) c).cur eng = tget [] (archOf s c).shd eng := by
  rw [taken, archField_countHots Arch.cur (fun _ _ => rfl), copySet, archOf_modArch_same]
  exact tget_tput_same ..

/-- One more command has been accepted. -/
theorem taken_nacc : tget 0 (archOf (taken s c eng hots) c).nacc eng = tget 0 (archOf s c).nacc eng + 1 := by
  rw [taken, archField_countHots Arch.nacc (fun _ _ => rfl), copySet, archField_modArch Arch.nacc (fun _ => by rfl), countCmd,
    archOf_modArch_same]
  exact tget_tput_same ..

end

/-- The rows for which a command waits are those in banks that the core does not own. -/
theorem mem_notOwned {s : State} {c r : Nat} {l : List Nat} :
    r ∈ notOwned s c l ↔ ∃ n ∈ l, r = sliceRow s.pkg c n ∧ ownsBank s c r = false := by
  simp only [notOwned, List.mem_filter, List.mem_map, Bool.not_eq_true']
  exact ⟨fun ⟨⟨n, mem, eq⟩, owns⟩ => ⟨n, mem, eq.symm, owns⟩, fun ⟨n, mem, eq, owns⟩ => ⟨⟨n, mem, eq.symm⟩, owns⟩⟩

/-! ### The stack product (R179) -/

/-- The rows of an `smv`'s vector, of `k` elements from an address. -/
def smvRows (s : State) (c va k : Nat) : List Nat :=
  (List.range (k / 32)).map fun i => paRow ((lookPa s c (askSrc true) va).getD 0) + i

/-- The command that an `smv` makes, before its vector is taken. -/
def smvCmd (o : EnF) (s : State) : SmvCmd :=
  let c := s.focus.core
  let w := shWord s c 0
  let n := wf (w 6) 16 16 + 1
  let k := wf (w 6) 0 16 + 1
  let fmt := wf o.prm 15 2
  let hd := wf o.prm 17 4
  let va := (w 0 + rs s o.sa).toNat % 2 ^ 48
  let rows := smvRows s c va k
  { num := nextNum s c 0, pc := s.iss.pc, cf := o.cf, ce := o.ce == 1, hd := BitVec.ofNat 4 hd, fmt := BitVec.ofNat 2 fmt
    gs := BitVec.ofNat 2 (wf o.prm 13 2), n := n, k := k, a := paRow ((lookPa s c (askSrc true) va).getD 0)
    b := (lookPa s c (askSrc false) (wf (w 5) 0 48)).getD 0
    h := if fmt = 0 then 0 else (lookPa s c (askSrc false) (wf (w 7) 0 48)).getD 0, made := 0, fz := s.iss.fz, bad := none
    ferr := rows.any (fun r => rFmt (regOf s c r) = 8) || handleEcw s c hd (n / 16)
    nsat := 0, ninv := 0, ninx := 0, vec := [], bank := notOwned s c rows, mark := s.ids, tab := (archOf s c).tab
    wait := allReqs s c, stg := stageMark s c }

/-- What an `smv` asks of its operands. -/
def smvOwnAsks (o : EnF) (s : State) : List (Ask × Nat × Nat) :=
  let c := s.focus.core
  let w := shWord s c 0
  smvAsks s c ((w 0 + rs s o.sa).toNat % 2 ^ 48) w (wf o.prm 15 2) (32 * 2 ^ wf o.prm 13 2) (wf (w 6) 16 16 + 1)
    (wf (w 6) 0 16 + 1) (wf o.prm 17 4)

/-- The `smv` that nothing holds or refuses is accepted. -/
theorem issueSmv_accepts {h : Slot} {o : EnF} {s : State} (nest : (archOf s s.focus.core).main.pipe.nest = none)
    (room : (archOf s s.focus.core).smv.length < 4) (ma : badAddr (shWord s s.focus.core 0 0) = false)
    (mb : badAddr (shWord s s.focus.core 0 5) = false) (mh : wf o.prm 15 2 ≠ 0 → badAddr (shWord s s.focus.core 0 7) = false)
    (high : wf (shWord s s.focus.core 0 6) 32 32 = 0) (n16 : (wf (shWord s s.focus.core 0 6) 16 16 + 1) % 16 = 0)
    (k128 : (wf (shWord s s.focus.core 0 6) 0 16 + 1) % 128 = 0) (ranges : rangesFault s s.focus.core (smvOwnAsks o s) = none)
    (stack : stackFault s s.focus.core (wf (shWord s s.focus.core 0 5) 0 48)
      ((wf (shWord s s.focus.core 0 6) 16 16 + 1) * (wf (shWord s s.focus.core 0 6) 0 16 + 1) * smvBits (wf o.prm 15 2) / 8) = none)
    (shut : handleShut s s.focus.core (wf o.prm 17 4) = false) :
    issueSmv h o s s = .ok (modArch (taken s s.focus.core 0 (rangeHots s s.focus.core (smvOwnAsks o s))) s.focus.core
      fun a => { a with smv := a.smv ++ [captureOne s s.focus.core (smvCmd o s)] }) := by
  have header : (wf o.prm 15 2 != 0 && badAddr (shWord s s.focus.core 0 7)) = false := by
    by_cases plain : wf o.prm 15 2 = 0
    · simp [plain]
    · rw [mh plain, Bool.and_false]
  unfold smvOwnAsks at ranges
  have few : decide (4 ≤ (archOf s s.focus.core).smv.length) = false := decide_eq_false (by omega)
  unfold issueSmv
  simp only [nest, few, ma, mb, header, high, n16, k128, ranges, stack, shut, Option.isSome_none, Bool.and_false, Bool.or_self,
    ne_eq, not_true_eq_false, decide_false, Bool.false_eq_true, if_false, firstFault, Option.or_none]
  rfl

/-- A vector whose banks the core owns. -/
def captured (s : State) (c : Nat) (x : SmvCmd) : SmvCmd :=
  { x with
    bank := []
    vec := (List.range (x.k / 32)).map fun i => arrRow s c x.mark (sliceRow s.pkg c (x.a + i))
    bad := arrBad s c x.mark x.a (x.k / 32) }

theorem captureOne_owned {s : State} {c : Nat} {x : SmvCmd} (owned : x.bank = []) : captureOne s c x = captured s c x := by
  rw [captureOne, owned]
  rfl

theorem captureOne_waits {s : State} {c r : Nat} {x : SmvCmd} (mem : r ∈ x.bank) (away : ownsBank s c r = false) :
    captureOne s c x = x :=
  if_pos (List.any_eq_true.mpr ⟨r, mem, by rw [away]; rfl⟩)

/-- Taking the vector changes nothing else of a command. -/
theorem captureOne_keeps {α : Type} (f : SmvCmd → α) (keeps : ∀ x v b m, f { x with bank := b, vec := v, bad := m } = f x) (s : State)
    (c : Nat) (x : SmvCmd) : f (captureOne s c x) = f x := by
  unfold captureOne
  split
  · rfl
  · exact keeps ..

/-- Settles O41: the command that `issueSmv` makes goes to the end of the outstanding ones, with its vector taken or not. -/
theorem stackProductIsAccepted : Obligations.StackProductIsAccepted := by
  unfold Obligations.StackProductIsAccepted
  intro h o s on
  simp only [extract_toNat]
  intro nest room ma mb mh high n16 k128 ranges stack shut
  have accepted := issueSmv_accepts (h := h) nest room ma mb mh (wf_eq_zero_of_extract high) n16 k128 ranges stack shut
  have bank : (smvCmd o s).bank = notOwned s s.focus.core (smvRows s s.focus.core ((shWord s s.focus.core 0 0 + rs s o.sa).toNat % 2 ^ 48)
      (wf (shWord s s.focus.core 0 6) 0 16 + 1)) := rfl
  refine ⟨_, captureOne s s.focus.core (smvCmd o s), slotStep_ok on accepted, ?_, captureOne_keeps SmvCmd.n (fun _ _ _ _ => rfl) ..,
    captureOne_keeps SmvCmd.k (fun _ _ _ _ => rfl) ..,
    captureOne_keeps SmvCmd.a (fun _ _ _ _ => rfl) .., captureOne_keeps SmvCmd.cf (fun _ _ _ _ => rfl) ..,
    captureOne_keeps SmvCmd.b (fun _ _ _ _ => rfl) .., fun grouped => ?_, ?_, captureOne_keeps SmvCmd.made (fun _ _ _ _ => rfl) ..,
    captureOne_keeps SmvCmd.fz (fun _ _ _ _ => rfl) .., ?_, fun owned => ?_, fun r mem away => ?_,
    sameOutside_trans (sameOutside_taken ..) (sameOutside_modArch _ _ _), sameCores_trans (sameCores_taken _ _ _ _) (sameCores_modArch _ _ _), ?_⟩
  · rw [archOf_modArch_same, archField_taken s _ _ _ Arch.smv (fun _ _ => rfl) (fun _ _ => rfl) (fun _ _ => rfl)]
  · rw [captureOne_keeps SmvCmd.h (fun _ _ _ _ => rfl)]
    exact if_neg grouped
  · rw [captureOne_keeps SmvCmd.hd (fun _ _ _ _ => rfl)]
    show (BitVec.ofNat 4 (wf o.prm 17 4)).toNat = _
    rw [BitVec.toNat_ofNat, Nat.mod_eq_of_lt (show wf o.prm 17 4 < 2 ^ 4 from Nat.mod_lt _ (Nat.two_pow_pos 4))]
  · rw [captureOne_keeps SmvCmd.ferr (fun _ _ _ _ => rfl)]
    simp only [smvCmd, smvRows, Bool.or_eq_true, List.any_eq_true, decide_eq_true_eq]
  · have none : (smvCmd o s).bank = [] := List.eq_nil_iff_forall_not_mem.mpr fun r mem => by
      obtain ⟨n, row, rfl, away⟩ := mem_notOwned.mp (bank ▸ mem)
      exact Bool.false_ne_true (away.symm.trans (owned n row))
    rw [captureOne_owned none]
    refine ⟨rfl, ?_⟩
    simp only [captured, smvCmd, List.map_map, Function.comp_def]
  · have away := Bool.eq_false_iff.mpr away
    have waits := bank ▸ mem_notOwned.mpr ⟨r, mem, rfl, away⟩
    rw [captureOne_waits waits away]
    exact ⟨waits, rfl⟩
  · rw [strmOf_modArch (fun _ b => by cases b <;> rfl)]
    exact archField_taken s _ _ _ (fun a => a.stream s.focus.side) (fun _ _ => by cases s.focus.side <;> rfl)
      (fun _ _ => by cases s.focus.side <;> rfl) (fun _ _ => by cases s.focus.side <;> rfl) _

end Sys2Proof.MemoryProofs

/-!
The transposer (R195, R196): the acceptance of its commands, the row of each counted cycle, and what stands in the last.
-/
namespace Sys2Proof.MemoryProofs
open Sys2Proof.Machine Sys2Proof.Laws Sys2Proof.VectorProofs

/-- A part of a core that no stream belongs to stands when a stream changes. -/
theorem archField_modStrm {α : Type} (f : Arch → α) (keeps : ∀ a b x, f (a.withStream b x) = f a) (s : State) (k : Sid)
    (g : Stream → Stream) (d : Nat) : f (archOf (modStrm s k g) d) = f (archOf s d) :=
  archField_modArch f (fun a => keeps a k.side _) s k.core d

/-! ### Acceptance -/

/-- The state after a transpose command has been accepted, with the rows that it reaches. -/
theorem txAccept_spec (s : State) (x : TxCmd) (own hots : List Nat) :
    let c := s.focus.core
    let t := txAccept s s x own hots
    let a := archOf s c
    (archOf t c).main.pipe.tx = a.main.pipe.tx ++ [{ x with bank := notOwned s c own }] ∧
      SameOutside s t ∧ SameCores s t c ∧ (archOf t c).w = a.w ∧ tget [] (archOf t c).cur 2 = tget [] a.shd 2 ∧
      tget 0 (archOf t c).nacc 2 = tget 0 a.nacc 2 + 1 := by
  intro c t a
  have eq : t = modStrm (taken s c 2 hots) ⟨c, false⟩ fun y =>
      { y with pipe := { y.pipe with tx := y.pipe.tx ++ [{ x with bank := notOwned s c own }] } } := rfl
  rw [eq]
  refine ⟨?_, sameOutside_trans (sameOutside_taken s c 2 hots) (sameOutside_modArch _ _ _),
    sameCores_trans (sameCores_taken s c 2 hots) (sameCores_modArch _ _ _), ?_, ?_, ?_⟩
  · have pipe := archField_taken s c 2 hots (fun a => a.main.pipe.tx) (fun _ _ => rfl) (fun _ _ => rfl) (fun _ _ => rfl) c
    rw [← pipe]
    exact congrArg (fun y : Stream => y.pipe.tx) (strmOf_modStrm_same (taken s c 2 hots) ⟨c, false⟩ _)
  · rw [archField_modStrm Arch.w fun a b _ => by cases b <;> rfl]
    exact archField_taken s c 2 hots Arch.w (fun _ _ => rfl) (fun _ _ => rfl) (fun _ _ => rfl) c
  · rw [archField_modStrm Arch.cur fun a b _ => by cases b <;> rfl]
    exact taken_cur s c 2 hots
  · rw [archField_modStrm Arch.nacc fun a b _ => by cases b <;> rfl]
    exact taken_nacc s c 2 hots

/-- The rows of a block of `n` times `m` rows at a pitch. -/
def pitchRows (r n p m : Nat) : List Nat := (List.range n).flatMap fun i => (List.range m).map fun j => r + i * p + j

theorem mem_pitchRows {r n p m x : Nat} : x ∈ pitchRows r n p m ↔ ∃ i < n, ∃ j < m, x = r + i * p + j := by
  simp only [pitchRows, List.mem_flatMap, List.mem_map, List.mem_range, @eq_comm Nat x]

/-- Bytes of an element as a slot names them. -/
def txpBytes (o : EnF) : Nat := 2 ^ wf o.prm 5 2

section
variable {h : Slot} {o : EnF} {s : State}

/-- What the pitches of a transpose command have to be (R195). -/
structure Pitches (s : State) : Prop where
  free : txBusy (archOf s s.focus.core).main.pipe = false
  high : wf (txWord s 2) 29 35 = 0
  gap : wf (txWord s 2) 13 3 = 0
  src : badAddr (txWord s 0) = false
  step : wf (txWord s 2) 0 13 ≠ 0

/-- The command that `txp` makes of ranges from two slice rows. -/
def txpCmd (o : EnF) (s : State) (a b : Nat) : TxCmd :=
  let nr := wf o.prm 14 7 + 1
  let nc := wf o.prm 7 7 + 1
  { txBase s o with
    nr := nr, nc := nc, ew := 8 * txpBytes o, busy := nr
    done := nr + (if mergedPt (ptNow s s.focus.core) then 6 else 12), src := a, dst := b
    ferr := (pitchRows a nr (wf (txWord s 2) 0 13) (cdiv (nc * txpBytes o) 64) ++
      pitchRows b nc (wf (txWord s 2) 16 13) (cdiv (nr * txpBytes o) 64)).any fun r => rFmt (regOf s s.focus.core r) == 8 }

theorem issueTxp_accepts (ok : Pitches s) (dst : badAddr (txWord s 1) = false) (dp : wf (txWord s 2) 16 13 ≠ 0)
    (srcCovers : (wf o.prm 7 7 + 1) * txpBytes o ≤ wf (txWord s 2) 0 13 * 64)
    (dstCovers : (wf o.prm 14 7 + 1) * txpBytes o ≤ wf (txWord s 2) 16 13 * 64) {ra rb : Nat} {la lb : List Nat}
    (read : mxRange s h s.focus.core (askSrc true) (wf (txWord s 0) 0 48)
      ((wf o.prm 14 7 + 1 - 1) * wf (txWord s 2) 0 13 * 64 + (wf o.prm 7 7 + 1) * txpBytes o) = .ok (ra, la))
    (write : mxRange s h s.focus.core (askDst true) (wf (txWord s 1 + rs s o.sa) 0 48)
      ((wf o.prm 7 7 + 1 - 1) * wf (txWord s 2) 16 13 * 64 + (wf o.prm 14 7 + 1) * txpBytes o) = .ok (rb, lb)) :
    issueTxp h o s s = .ok (txAccept s s (txpCmd o s ra rb)
      (pitchRows ra (wf o.prm 14 7 + 1) (wf (txWord s 2) 0 13) (cdiv ((wf o.prm 7 7 + 1) * txpBytes o) 64) ++
        pitchRows rb (wf o.prm 7 7 + 1) (wf (txWord s 2) 16 13) (cdiv ((wf o.prm 14 7 + 1) * txpBytes o) 64)) (la ++ lb)) := by
  have clean : (badAddr (txWord s 0) || badAddr (txWord s 1) || decide (wf (txWord s 2) 29 35 ≠ 0) ||
      decide (wf (txWord s 2) 13 3 ≠ 0) || decide (wf (txWord s 2) 0 13 = 0) || decide (wf (txWord s 2) 16 13 = 0) ||
      decide (wf (txWord s 2) 0 13 * 64 < (wf o.prm 7 7 + 1) * txpBytes o) ||
      decide (wf (txWord s 2) 16 13 * 64 < (wf o.prm 14 7 + 1) * txpBytes o)) = false := by
    rw [ok.src, dst, ok.high, ok.gap, decide_eq_false ok.step, decide_eq_false dp, decide_eq_false (Nat.not_lt.mpr srcCovers),
      decide_eq_false (Nat.not_lt.mpr dstCovers)]
    rfl
  refine (if_neg ?_).trans ((if_neg (Bool.eq_false_iff.mp clean)).trans ?_)
  · rw [ok.free, Bool.and_false]
    exact Bool.false_ne_true
  · split
    · rename_i _ fault
      cases read.symm.trans fault
    · rename_i a la' read'
      cases Except.ok.inj (read.symm.trans read')
      split
      · rename_i _ fault
        cases write.symm.trans fault
      · rename_i b lb' write'
        cases Except.ok.inj (write.symm.trans write')
        rfl

/-- The command that `txw` makes of a range from a slice row, `n` bytes a row. -/
def txwCmd (o : EnF) (s : State) (f : Option (Nat × Nat)) (n a : Nat) : TxCmd :=
  { txBase s o with
    txw := true, busy := 128, done := if mergedPt (ptNow s s.focus.core) then 134 else 140, src := a, ew := n / 16
    ferr := f.isNone || (pitchRows a 128 (wf (txWord s 2) 0 13) (n / 64)).any fun r => rFmt (regOf s s.focus.core r) == 8 }

theorem issueTxw_accepts (ok : Pitches s) (written : latchWr (archOf s s.focus.core).main.pipe o.wl.toNat = false)
    (readers : latchRd (archOf s s.focus.core).main.pipe o.wl.toNat = false)
    (nest : nestLatch (archOf s s.focus.core).main.pipe o.wl.toNat = false) {r : Nat} {l : List Nat} {f : Option (Nat × Nat)} {n : Nat}
    (form : f = txwForm (rFmt (regOf s s.focus.core
      (paRow ((lookPa s s.focus.core (askSrc true) (wf (txWord s 0 + rs s o.sa) 0 48)).getD 0)))))
    (bytes : n = (f.getD (0, 64)).2)
    (read : mxRange s h s.focus.core (askSrc true) (wf (txWord s 0 + rs s o.sa) 0 48) (127 * wf (txWord s 2) 0 13 * 64 + n) =
      .ok (r, l)) :
    issueTxw h o s s = .ok (txAccept s s (txwCmd o s f n r) (pitchRows r 128 (wf (txWord s 2) 0 13) (n / 64)) l) := by
  have clean : (badAddr (txWord s 0) || decide (wf (txWord s 2) 29 35 ≠ 0) || decide (wf (txWord s 2) 13 3 ≠ 0) ||
      decide (wf (txWord s 2) 0 13 = 0)) = false := by
    rw [ok.src, ok.high, ok.gap, decide_eq_false ok.step]
    rfl
  refine (if_neg ?_).trans ((if_neg (Bool.eq_false_iff.mp clean)).trans ?_)
  · show ¬(!passed s 5 && (txBusy (archOf s s.focus.core).main.pipe || latchWr _ o.wl.toNat || latchRd _ o.wl.toNat ||
      nestLatch _ o.wl.toNat)) = true
    rw [ok.free, written, readers, nest, Bool.or_self, Bool.or_self, Bool.or_self, Bool.and_false]
    exact Bool.false_ne_true
  · rw [← form]
    subst bytes
    let accept : Except Trap (Nat × List Nat) → SlotRes := fun
      | .error t => .trap t
      | .ok (a, l) => .ok (txAccept s s (txwCmd o s f (f.getD (0, 64)).2 a)
          (pitchRows a 128 (wf (txWord s 2) 0 13) ((f.getD (0, 64)).2 / 64)) l)
    refine Eq.trans ?_ (congrArg accept read)
    cases f <;> rfl

end

end Sys2Proof.MemoryProofs

namespace Sys2Proof.MemoryProofs
open Sys2Proof.Machine Sys2Proof.Laws Sys2Proof.VectorProofs

/-! ### Rows that an engine writes (R169, R195) -/

/-- What a write of rows by an engine leaves alone, where no row has an error that nothing has met: of a core all but the marks of
zeroed banks. -/
structure Written (s t : State) : Prop where
  pkg : t.pkg = s.pkg
  clean : t.flaws = []
  arch : ∀ {α : Type} (f : Arch → α), (∀ a d, f { a with disc := d } = f a) → ∀ c, f (archOf t c) = f (archOf s c)

theorem Written.trans {s t u : State} (a : Written s t) (b : Written t u) : Written s u where
  pkg := b.pkg.trans a.pkg
  clean := b.clean
  arch f keeps c := (b.arch f keeps c).trans (a.arch f keeps c)

theorem written_refl {s : State} (clean : s.flaws = []) : Written s s := ⟨rfl, clean, fun _ _ _ => rfl⟩

theorem written_of_cores {s t : State} (pkg : t.pkg = s.pkg) (clean : t.flaws = []) (cores : t.cores = s.cores) : Written s t :=
  ⟨pkg, clean, fun _ _ c => by rw [archOf_congr cores]⟩

theorem noteBytes_flaws (s : State) (pa mask : Nat) : (noteBytes s pa mask).flaws = s.flaws := by
  obtain ⟨m, r, c, eq⟩ := noteBytes_form s pa mask
  rw [eq]

theorem noteBytes_pkg (s : State) (pa mask : Nat) : (noteBytes s pa mask).pkg = s.pkg := by
  obtain ⟨m, r, c, eq⟩ := noteBytes_form s pa mask
  rw [eq]

theorem meetError_keeps {s : State} (clean : s.flaws = []) (pa : Nat) :
    (meetError s pa).pkg = s.pkg ∧ (meetError s pa).flaws = [] := by
  unfold meetError poisonRow countStack
  simp only [clean, List.contains_nil, Bool.false_eq_true, if_false]
  split
  · split
    · exact ⟨rfl, clean⟩
    · exact ⟨rfl, rfl⟩
  · exact ⟨rfl, clean⟩

theorem written_writeRow {s : State} (clean : s.flaws = []) (pa : Nat) (r : Row) : Written s (writeRow s pa r) where
  pkg := by simp only [writeRow, noteBytes_pkg]
  clean := by
    simp only [writeRow, noteBytes_flaws, clean, List.filter_nil]
  arch f keeps c := by
    show f (coreOf _ c).arch = f (coreOf s c).arch
    rw [coreOf_congr (writeRow_cores s pa r)]
    exact coreField_noteBytes (fun x => f x.arch) (fun x d => keeps x.arch d) s pa _ c

theorem written_writePart {s : State} (clean : s.flaws = []) (pa : Nat) (r : Row) (m : BitVec 64) : Written s (writePart s pa r m) := by
  have met : Written s (if partMask pa m.toNat then meetError s pa else s) := by
    split
    · obtain ⟨pkg, flaws⟩ := meetError_keeps clean pa
      exact written_of_cores pkg flaws (meetError_cores s pa)
    · exact written_refl clean
  refine met.trans ⟨?_, ?_, fun f keeps c => ?_⟩
  · simp only [writePart, noteBytes_pkg]
  · simp only [writePart, noteBytes_flaws]
    exact met.clean
  · show f (coreOf _ c).arch = f (coreOf _ c).arch
    rw [coreOf_congr (writePart_cores s pa r m)]
    exact coreField_noteBytes (fun x => f x.arch) (fun x d => keeps x.arch d) _ pa _ c

theorem dropTag_form (s : State) (pa : Nat) : ∃ l, dropTag s pa = { s with tags := l } := by
  unfold dropTag
  split
  · exact ⟨_, rfl⟩
  · exact ⟨s.tags, rfl⟩

/-- What an engine's write notes beside its bytes: a race tag, and the node whose bytes they are. -/
theorem noteEngine_dropTag_form (s : State) (c pa : Nat) : ∃ l n, noteEngine (dropTag s pa) c pa =
    { s with tags := l, hub := { s.hub with ctxs := n } } := by
  obtain ⟨l, eq⟩ := dropTag_form s pa
  rw [eq]
  unfold noteEngine noteWrite
  split
  · exact ⟨l, s.hub.ctxs, rfl⟩
  · split
    · exact ⟨l, s.hub.ctxs, rfl⟩
    · rename_i t _
      obtain ⟨n, same, -⟩ := modNode_spec { s with tags := l } t.ctx t.node fun n => if nodeOwns { s with tags := l } n pa then n else
        { n with restart := false }
      rw [noteNodeWrite]
      exact ⟨l, n, same⟩

/-- The low bytes of a row, as a mask. -/
theorem getLsbD_lowBytes {n i : Nat} (hi : i < 64) : (BitVec.ofNat 64 (2 ^ n - 1)).getLsbD i = decide (i < n) := by
  rw [BitVec.getLsbD_ofNat, Nat.testBit_two_pow_sub_one, decide_eq_true hi, Bool.true_and]

/-- An engine's write of the low bytes of a row, behind no store of its core. -/
theorem arrWrite_writes {s : State} (wf : Inv s) (clean : s.flaws = []) {c : Nat} (idle : (archOf s c).reqs = []) (mark pa : Nat)
    (at_ : canon (rowBase pa) = pa) (v : Row) (n : Nat) :
    Written s (arrWrite s c mark pa v n) ∧ Inv (arrWrite s c mark pa v n) ∧ ∀ x, cellAt (arrWrite s c mark pa v n).mem x =
      if pa ≤ x ∧ x < pa + min n 64 then v.extractLsb' (8 * (x - pa)) 8 else cellAt s.mem x := by
  obtain ⟨l, m, noted⟩ := noteEngine_dropTag_form s c pa
  let u : State := { s with tags := l, hub := { s.hub with ctxs := m } }
  have su : Written s u := written_of_cores rfl clean rfl
  have found : ∀ k, noteFound u pa k = u := fun k => if_neg (by rw [show u.flaws = [] from clean]; simp)
  have form : arrWrite s c mark pa v n = if 64 ≤ n then writeRow u pa v else writePart u pa v (BitVec.ofNat 64 (2 ^ n - 1)) := by
    unfold arrWrite
    simp only [noted, idle, List.filter_nil, List.map_nil, List.isEmpty_nil, Bool.not_true, Bool.false_eq_true, if_false]
    by_cases whole : 64 ≤ n
    · rw [if_pos whole, if_pos whole]
    · rw [if_neg whole, if_neg whole, if_neg whole]
      exact congrArg (fun z => writePart z pa v _) (found _)
  rw [form]
  have wu : Inv u := wf
  have cu : u.flaws = [] := clean
  by_cases whole : 64 ≤ n
  · rw [if_pos whole]
    refine ⟨su.trans (written_writeRow cu pa v), memWf_writeRow wu pa v, fun x => ?_⟩
    rw [cellAt_writeRow_all wu, at_, Nat.min_eq_right whole]
  · rw [if_neg whole]
    refine ⟨su.trans (written_writePart cu pa v _), memWf_writePart wu pa v _, fun x => ?_⟩
    rw [cellAt_writePart wu, at_, Nat.min_eq_left (by omega)]
    by_cases within : pa ≤ x ∧ x < pa + n
    · rw [if_pos within, if_pos ⟨within.1, by omega, by rw [getLsbD_lowBytes (by omega)]; exact decide_eq_true (by omega)⟩]
    · rw [if_neg within, if_neg]
      rintro ⟨low, high, bit⟩
      rw [getLsbD_lowBytes (by omega), decide_eq_true_eq] at bit
      exact within ⟨low, by omega⟩

/-- A row of a slice stands at its own address. -/
theorem canon_sliceRow (pkg : BitVec 8) {c r : Nat} (hc : c < 1024) (hr : r < 65536) :
    canon (rowBase (sliceRow pkg c r)) = sliceRow pkg c r := by
  have base : rowBase (sliceRow pkg c r) = sliceRow pkg c r := by
    simp only [rowBase, sliceRow, Nat.reducePow]
    omega
  rw [base, canon, if_neg]
  simp only [paSpace, fld, sliceRow, Nat.reducePow]
  omega

/-- The bytes of a number that an engine writes over rows of a slice. -/
theorem arrWriteN_writes {c : Nat} (hc : c < 1024) (mark : Nat) : ∀ (k n r v : Nat) {s : State}, Inv s → s.flaws = [] →
    (archOf s c).reqs = [] → r + k ≤ 65536 → n ≤ 64 * k →
    let t := arrWriteN s c mark r v k n
    let z := sliceRow s.pkg c r
    Written s t ∧ Inv t ∧ ∀ x, cellAt t.mem x =
      if z ≤ x ∧ x < z + n then BitVec.ofNat 8 (v / 256 ^ (x - z)) else cellAt s.mem x
  | 0, n, r, v, s, wf, clean, _, _, few => by
    have none : n = 0 := by omega
    subst none
    exact ⟨written_refl clean, wf, fun x => (if_neg (by omega)).symm⟩
  | k + 1, n, r, v, s, wf, clean, idle, fits, few => by
    intro t z
    by_cases none : n = 0
    · subst none
      exact ⟨written_refl clean, wf, fun x => (if_neg (by omega)).symm⟩
    · let u := arrWrite s c mark z (BitVec.ofNat 512 v) n
      obtain ⟨su, wu, first⟩ := arrWrite_writes wf clean idle mark z (canon_sliceRow s.pkg hc (by omega)) (BitVec.ofNat 512 v) n
      obtain ⟨ut, wt, rest⟩ := arrWriteN_writes hc mark k (n - 64) (r + 1) (v / 2 ^ 512) (s := u) wu su.clean
        ((su.arch Arch.reqs (fun _ _ => rfl) c).trans idle) (by omega) (by omega)
      have eq : t = arrWriteN u c mark (r + 1) (v / 2 ^ 512) k (n - 64) := if_neg none
      have next : sliceRow u.pkg c (r + 1) = z + 64 := by
        rw [su.pkg]
        simp only [z, sliceRow]
        omega
      rw [eq]
      refine ⟨su.trans ut, wt, fun x => ?_⟩
      rw [rest x, next, first x]
      by_cases late : z + 64 ≤ x ∧ x < z + 64 + (n - 64)
      · rw [if_pos late, if_pos (by omega), Nat.div_div_eq_div_mul,
          show (2 : Nat) ^ 512 = 256 ^ 64 from by rw [show (256 : Nat) = 2 ^ 8 from rfl, ← Nat.pow_mul], ← Nat.pow_add]
        congr 3
        omega
      · rw [if_neg late]
        by_cases within : z ≤ x ∧ x < z + min n 64
        · rw [if_pos within, if_pos (by omega)]
          apply BitVec.eq_of_getLsbD_eq
          intro i hi
          rw [BitVec.getLsbD_extractLsb', BitVec.getLsbD_ofNat, BitVec.getLsbD_ofNat, show (256 : Nat) = 2 ^ 8 from rfl, ← Nat.pow_mul,
            Nat.testBit_div_two_pow, Nat.add_comm i, decide_eq_true (by omega : 8 * (x - z) + i < 512), Bool.true_and]
        · rw [if_neg within, if_neg (by omega)]

end Sys2Proof.MemoryProofs

namespace Sys2Proof.MemoryProofs
open Sys2Proof.Machine Sys2Proof.Laws Sys2Proof.VectorProofs

/-! ### The destination rows of `txp` (R195) -/

/-- Rows `j` of a pitch take numbers of `n` bytes one after the other. -/
def writeColumns (s : State) (c mark dst dp : Nat) (v : Nat → Nat) (k n m : Nat) : State :=
  (List.range m).foldl (fun s j => arrWriteN s c mark (dst + j * dp) (v j) k n) s

theorem writeColumns_writes {s : State} (wf : Inv s) (clean : s.flaws = []) {c : Nat} (hc : c < 1024) (idle : (archOf s c).reqs = [])
    (mark : Nat) {dst dp k n nc : Nat} (v : Nat → Nat) (fits : dst + (nc - 1) * dp + k ≤ 65536) (rows : n ≤ 64 * k) (pitch : n ≤ dp * 64)
    {m : Nat} (hm : m ≤ nc) :
    let t := writeColumns s c mark dst dp v k n m
    let z := fun j => sliceRow s.pkg c (dst + j * dp)
    Written s t ∧ Inv t ∧ (∀ j < m, ∀ i < n, cellAt t.mem (z j + i) = BitVec.ofNat 8 (v j / 256 ^ i)) ∧
      ∀ b, (∀ j < m, ¬(z j ≤ b ∧ b < z j + n)) → cellAt t.mem b = cellAt s.mem b := by
  induction m with
  | zero => exact ⟨written_refl clean, wf, fun j hj => absurd hj (Nat.not_lt_zero j), fun _ _ => rfl⟩
  | succ m ih =>
    intro t z
    obtain ⟨su, wu, cells, frame⟩ := ih (by omega)
    let u := writeColumns s c mark dst dp v k n m
    have last : m * dp ≤ (nc - 1) * dp := Nat.mul_le_mul_right dp (by omega)
    obtain ⟨ut, wt, row⟩ := arrWriteN_writes hc mark k n (dst + m * dp) (v m) (s := u) wu su.clean
      ((su.arch Arch.reqs (fun _ _ => rfl) c).trans idle) (by omega) rows
    have eq : t = arrWriteN u c mark (dst + m * dp) (v m) k n := by
      show writeColumns s c mark dst dp v k n (m + 1) = _
      rw [writeColumns, List.range_succ, List.foldl_append]
      rfl
    rw [su.pkg] at row
    rw [eq]
    refine ⟨su.trans ut, wt, fun j hj i hi => ?_, fun b hb => ?_⟩
    · rw [row]
      by_cases new : j = m
      · subst new
        rw [if_pos (by simp only [z]; omega), Nat.add_sub_cancel_left]
      · have before : (j + 1) * dp ≤ m * dp := Nat.mul_le_mul_right dp (by omega)
        rw [Nat.add_mul, Nat.one_mul] at before
        rw [if_neg (by simp only [z, sliceRow]; omega)]
        exact cells j (by omega) i hi
    · rw [row, if_neg (hb m (by omega))]
      exact frame b fun j hj => hb j (by omega)

/-- The bits of bytes read together. -/
theorem testBit_readN (m : List Host.Cell) (a n p : Nat) :
    (readN m a n).testBit p = (decide (p < 8 * n) && (cellAt m (a + p / 8)).getLsbD (p % 8)) := by
  induction n generalizing a p with
  | zero => simp [readN]
  | succ n ih =>
    rw [readN, Nat.add_comm, show (256 : Nat) = 2 ^ 8 from rfl, Nat.testBit_two_pow_mul_add _ (cellAt m a).isLt]
    by_cases low : p < 8
    · rw [if_pos low, Nat.div_eq_of_lt low, Nat.mod_eq_of_lt low, decide_eq_true (by omega), Bool.true_and]
      rfl
    · rw [if_neg low, ih, show a + 1 + (p - 8) / 8 = a + p / 8 by omega, show (p - 8) % 8 = p % 8 by omega]
      exact congrArg (· && _) (decide_eq_decide.mpr (by omega))

/-- An element of a row whose bytes are those of a number from byte `o` on. -/
theorem elem_rowAt {s : State} {pa w e o v : Nat} (base : canon (rowBase pa) = pa) (within : e * w + w ≤ 512)
    (bytes : ∀ q, e * w < 8 * q + 8 → 8 * q < e * w + w → cellAt s.mem (pa + q) = BitVec.ofNat 8 (v / 256 ^ (o + q))) :
    elem w (rowAt s pa) e = fld v (8 * o + e * w) w := by
  apply Nat.eq_of_testBit_eq
  intro i
  rw [testBit_elem, testBit_fld]
  by_cases hi : i < w
  · rw [rowAt, BitVec.getLsbD_ofNat, base, testBit_readN, bytes ((e * w + i) / 8) (by omega) (by omega), BitVec.getLsbD_ofNat,
      show (256 : Nat) = 2 ^ 8 from rfl, ← Nat.pow_mul, Nat.testBit_div_two_pow,
      decide_eq_true (by omega : e * w + i < 512),
      decide_eq_true (by omega : (e * w + i) % 8 < 8),
      show (e * w + i) % 8 + 8 * (o + (e * w + i) / 8) = 8 * o + e * w + i by omega]
    simp
  · rw [decide_eq_false hi, Bool.false_and, Bool.false_and]

/-- An element of the number that a column makes. -/
theorem fld_column (x : TxCmd) (j : Nat) {i : Nat} (hi : i < x.nr) :
    fld (joinN x.ew ((List.range x.nr).map fun i => x.el i j)) (i * x.ew) x.ew = x.el i j := by
  rw [fld_joinN, List.getD_eq_getElem _ _ (by simpa using hi), List.getElem_map, List.getElem_range]
  exact fld_mod ..

/-- What the last effect of a `txp` leaves: its columns as rows, and every other byte. -/
theorem txWrite_columns {s : State} (wf : Inv s) (clean : s.flaws = []) {c : Nat} (hc : c < 1024) (idle : (archOf s c).reqs = [])
    (mark : Nat) {x : TxCmd} (ok : x.ferr = false) (txp : x.txw = false) (width : x.ew ∈ [8, 16, 32])
    (pitch : x.nr * x.ew ≤ x.dp * 512) (fits : x.dst + (x.nc - 1) * x.dp + cdiv (x.nr * x.ew) 512 ≤ 65536) :
    let t := txWrite s c mark x
    Written s t ∧ (∀ j < x.nc, ∀ i < x.nr,
        elem x.ew (rowAt t (sliceRow s.pkg c (x.dst + j * x.dp + i * x.ew / 512))) (i % (512 / x.ew)) = x.el i j) ∧
      ∀ b, (∀ j < x.nc, let z := sliceRow s.pkg c (x.dst + j * x.dp); ¬(z ≤ b ∧ b < z + x.nr * x.ew / 8)) →
        cellAt t.mem b = cellAt s.mem b := by
  intro t
  let v := fun j => joinN x.ew ((List.range x.nr).map fun i => x.el i j)
  have rows : x.nr * x.ew / 8 ≤ 64 * cdiv (x.nr * x.ew) 512 := by
    rw [cdiv, if_neg (by decide)]
    omega
  obtain ⟨st, wt, cells, frame⟩ := writeColumns_writes wf clean hc idle mark v fits rows (by omega) (Nat.le_refl x.nc)
  have eq : t = writeColumns s c mark x.dst x.dp v (cdiv (x.nr * x.ew) 512) (x.nr * x.ew / 8) x.nc := by
    show txWrite s c mark x = _
    rw [txWrite, ok, txp]
    rfl
  rw [eq]
  refine ⟨st, fun j hj i hi => ?_, frame⟩
  have column : j * x.dp ≤ (x.nc - 1) * x.dp := Nat.mul_le_mul_right x.dp (by omega)
  have row : x.dst + j * x.dp + i * x.ew / 512 < 65536 := by
    have : (i + 1) * x.ew ≤ x.nr * x.ew := Nat.mul_le_mul_right x.ew hi
    rw [Nat.add_mul, Nat.one_mul] at this
    rw [cdiv, if_neg (by decide)] at fits
    have pos : 0 < x.ew := by
      simp only [List.mem_cons, List.not_mem_nil, or_false] at width
      omega
    omega
  have inRow : i % (512 / x.ew) * x.ew + x.ew ≤ 512 ∧ 8 * (64 * (i * x.ew / 512)) + i % (512 / x.ew) * x.ew = i * x.ew ∧
      x.nr * x.ew % 8 = 0 := by
    simp only [List.mem_cons, List.not_mem_nil, or_false] at width
    obtain e | e | e := width <;> rw [e] <;> omega
  obtain ⟨within, place, whole⟩ := inRow
  have ends : i * x.ew + x.ew ≤ x.nr * x.ew := by
    rw [← Nat.succ_mul]
    exact Nat.mul_le_mul_right x.ew hi
  rw [elem_rowAt (v := v j) (o := 64 * (i * x.ew / 512)) (canon_sliceRow s.pkg hc row) within fun q low high => ?_, place]
  · exact fld_column x j hi
  · rw [← cells j hj _ (by omega : 64 * (i * x.ew / 512) + q < x.nr * x.ew / 8)]
    congr 1
    simp only [sliceRow]
    omega

end Sys2Proof.MemoryProofs

namespace Sys2Proof.MemoryProofs
open Sys2Proof.Machine Sys2Proof.Laws Sys2Proof.VectorProofs

/-! ### The latch of `txw` (R196) -/

/-- A field of a number cut to a width that holds it. -/
theorem fld_ofNat {b lo w : Nat} (n : Nat) (fits : lo + w ≤ b) : fld (BitVec.ofNat b n).toNat lo w = fld n lo w := by
  apply Nat.eq_of_testBit_eq
  intro i
  rw [testBit_fld, testBit_fld, BitVec.toNat_ofNat, Nat.testBit_mod_two_pow]
  by_cases hi : i < w
  · rw [decide_eq_true (by omega : lo + i < b), Bool.true_and]
  · rw [decide_eq_false hi, Bool.false_and, Bool.false_and]

/-- A field below a place stands when something is added above it. -/
theorem fld_add_above {n m w : Nat} (hn : n < m) (a j : Nat) : fld (a * 2 ^ (m * w) + j) (n * w) w = fld j (n * w) w := by
  obtain ⟨d, rfl⟩ : ∃ d, m = n + 1 + d := ⟨m - (n + 1), by omega⟩
  have split : a * 2 ^ ((n + 1 + d) * w) = 2 ^ (n * w) * (2 ^ w * (a * 2 ^ (d * w))) := by
    rw [Nat.add_mul, Nat.add_mul, Nat.one_mul, Nat.pow_add, Nat.pow_add]
    ac_rfl
  rw [fld, split, Nat.add_comm, Nat.add_mul_div_left _ _ (Nat.two_pow_pos _), Nat.add_mul_mod_self_left]
  rfl

/-- A row of the latch after the elements of column `k`. -/
def latchPut (x : TxCmd) (w : WLatch) (k : Nat) : WLatch :=
  { w with rows := tput w.rows k (BitVec.ofNat 2048 ((tget 0 w.rows k).toNat / 2 ^ (128 * x.ew) * 2 ^ (128 * x.ew) +
      joinN x.ew ((List.range 128).map fun n => x.el n k))) }

/-- The elements of the columns that have been put in. -/
theorem foldl_latchPut (x : TxCmd) (width : x.ew ≤ 16) (w : WLatch) (m : Nat) :
    let v := (List.range m).foldl (latchPut x) w
    v.fmt = w.fmt ∧ ∀ r < m, ∀ n < 128, fld (tget 0 v.rows r).toNat (n * x.ew) x.ew = x.el n r := by
  induction m with
  | zero => exact ⟨rfl, fun r hr => absurd hr (Nat.not_lt_zero r)⟩
  | succ m ih =>
    obtain ⟨fmt, rows⟩ := ih
    rw [List.range_succ, List.foldl_append]
    refine ⟨fmt, fun r hr n hn => ?_⟩
    show fld (tget 0 (tput ((List.range m).foldl (latchPut x) w).rows m _) r).toNat (n * x.ew) x.ew = _
    rw [tget_tput]
    by_cases last : r = m
    · have fits : (n + 1) * x.ew ≤ 128 * 16 := Nat.mul_le_mul (by omega) width
      rw [Nat.add_mul, Nat.one_mul] at fits
      rw [if_pos last, fld_ofNat _ fits, fld_add_above hn, fld_joinN, List.getD_eq_getElem _ _ (by simpa using hn), List.getElem_map,
        List.getElem_range, last]
      exact fld_mod ..
    · rw [if_neg last]
      exact rows r (by omega) n hn

/-- What the last effect of a `txw` leaves: its latch, and nothing else. -/
theorem txWrite_latch (s : State) (c mark : Nat) {x : TxCmd} (ok : x.ferr = false) (txw : x.txw = true) (width : x.ew ≤ 16) :
    ∃ g : WLatch → WLatch, txWrite s c mark x = modArch s c (fun a => { a with w := tmod WLatch.idle a.w x.wl g }) ∧
      ∀ w, (g w).fmt = (if x.ew = 16 then 2 else if x.ew = 8 then 4 else 5) ∧
        ∀ r < 128, ∀ n < 128, fld (tget 0 (g w).rows r).toNat (n * x.ew) x.ew = x.el n r := by
  let tag := if x.ew = 16 then 2 else if x.ew = 8 then 4 else 5
  refine ⟨fun w => (List.range 128).foldl (latchPut x) { w with fmt := BitVec.ofNat 4 tag }, ?_, fun w => ?_⟩
  · rw [txWrite, ok, txw]
    rfl
  · obtain ⟨fmt, rows⟩ := foldl_latchPut x width { w with fmt := BitVec.ofNat 4 tag } 128
    refine ⟨fmt.trans ?_, rows⟩
    simp only [tag]
    split
    · rfl
    · split <;> rfl

/-! ### Completion (R165) -/

theorem pushEvent_keeps {α : Type} (f : Arch → α) (keeps : ∀ a q d l, f { a with evq := q, evdrop := d, lost := l } = f a) (a : Arch)
    (r : EvRec) : f (pushEvent a r) = f a := by
  unfold pushEvent
  split
  · exact keeps a _ a.evdrop false
  · exact keeps a a.evq _ true

/-- A flag that has been set reads one (R10). -/
theorem flag_setFlag (x : Stream) (n : BitVec 4) : (x.setFlag n.toNat true).flag n = true := by
  by_cases zero : n = 0
  · simp [Stream.flag, zero]
  · have pos : n.toNat ≠ 0 := fun h => zero (BitVec.eq_of_toNat_eq h)
    rw [Stream.setFlag, if_neg pos, Stream.flag, getLsbD_setFld _ _ _ _ n.isLt, if_pos (by omega), Nat.sub_self]
    simp

/-- Setting a flag changes nothing else of a stream. -/
theorem setFlag_keeps {α : Type} (f : Stream → α) (keeps : ∀ x b, f { x with f := b } = f x) (x : Stream) (n : Nat) (b : Bool) :
    f (x.setFlag n b) = f x := by
  unfold Stream.setFlag
  split
  · rfl
  · exact keeps ..

/-- What stands when a command completes: memory, the open counted cycle, the transposer and the array; its flag is set. -/
structure Completed (s t : State) (c : Nat) (cf : BitVec 4) : Prop where
  mem : t.mem = s.mem
  cyc : (strmOf t ⟨c, false⟩).cyc = (strmOf s ⟨c, false⟩).cyc
  tx : (strmOf t ⟨c, false⟩).pipe.tx = (strmOf s ⟨c, false⟩).pipe.tx
  flag : (strmOf t ⟨c, false⟩).flag cf = true
  w : (archOf t c).w = (archOf s c).w
  acc : (archOf t c).acc = (archOf s c).acc

theorem complete_completed (s : State) (c eng opc : Nat) (cf : BitVec 4) (ce : Bool) (num sts : Nat) (n : Cnt) :
    Completed s (complete s c eng opc cf ce num sts n) c cf := by
  let k : Sid := ⟨c, false⟩
  let g : Stream → Stream := fun x =>
    { x.setFlag cf.toNat true with pipe := { x.pipe with ops := x.pipe.ops.map (keepSet cf.toNat) } }
  have flagged : Completed s (modStrm s k g) c cf := by
    refine ⟨rfl, ?_, ?_, ?_, archField_modStrm Arch.w (fun a b _ => by cases b <;> rfl) s k g c,
      archField_modStrm Arch.acc (fun a b _ => by cases b <;> rfl) s k g c⟩ <;> rw [strmOf_modStrm_same s k g]
    · exact setFlag_keeps Stream.cyc (fun _ _ => rfl) ..
    · exact flag_setFlag (strmOf s k) cf
  unfold complete
  dsimp only
  split
  · rename_i posts
    obtain ⟨mem, cyc, tx, flag, w, acc⟩ := flagged
    have strm : ∀ r, strmOf (postOwn (modStrm s k g) c r) k = strmOf (modStrm s k g) k := fun r =>
      strmOf_modArch (fun a b => pushEvent_stream a r b) _ c k
    have arch : ∀ {α : Type} (f : Arch → α) r, (∀ a q d l, f { a with evq := q, evdrop := d, lost := l } = f a) →
        f (archOf (postOwn (modStrm s k g) c r) c) = f (archOf (modStrm s k g) c) := fun f r keeps =>
      archField_modArch f (fun a => pushEvent_keeps f keeps a r) _ c c
    exact ⟨mem, by rw [strm]; exact cyc, by rw [strm]; exact tx, by rw [strm]; exact flag,
      (arch Arch.w _ fun _ _ _ _ => rfl).trans w, (arch Arch.acc _ fun _ _ _ _ => rfl).trans acc⟩
  · exact flagged

/-! ### The counted cycles of a command (R195, R196) -/

/-- A part of the cycle at which the main stream's open cycle stands is that stream's. -/
theorem atPart_main {s : State} {c : Nat} {part : CycPart} (at_ : (strmOf s ⟨c, false⟩).cyc.head? = some part) :
    atPart s c part = some ⟨c, false⟩ := if_pos at_

/-- Leaving a part of the cycle. -/
theorem nextPart_spec (s : State) (k : Sid) : (strmOf (nextPart s k) k) = { strmOf s k with cyc := (strmOf s k).cyc.drop 1 } ∧
    (nextPart s k).mem = s.mem ∧ (archOf (nextPart s k) k.core).w = (archOf s k.core).w ∧
    (archOf (nextPart s k) k.core).acc = (archOf s k.core).acc :=
  ⟨strmOf_modStrm_same s k _, rfl, archField_modStrm Arch.w (fun a b _ => by cases b <;> rfl) s k _ _,
    archField_modStrm Arch.acc (fun a b _ => by cases b <;> rfl) s k _ _⟩

/-- The state in which the last effect of the only command is taken: it is no longer in the engine. -/
def txGone (s : State) (c : Nat) : State :=
  modStrm s ⟨c, false⟩ fun y => { y with pipe := { y.pipe with tx := [] } }

theorem engineCompletion_tx {s : State} {c : Nat} {x : TxCmd} (only : (strmOf s ⟨c, false⟩).pipe.tx = [x])
    (part : (strmOf s ⟨c, false⟩).cyc.head? = some .txEnds) (last : x.age = x.done) :
    exec (.engineCompletion c 2) s = .next (nextPart (complete (txWrite (txGone s c) c (strmOf s ⟨c, false⟩).mark x) c 2
      (if x.txw then 2 else 1) x.cf x.ce x.num (mxSts x.ferr) Cnt.zero) ⟨c, false⟩) := by
  have cmds : (archOf s c).main.pipe.tx = [x] := only
  show execEngineCompletion c 2 s = _
  unfold execEngineCompletion
  show Host.Outcome.next (match atPart s c .txEnds with
    | some k => nextPart (txCompletions s c (strmOf s k).mark) k
    | none => s) = _
  rw [atPart_main part]
  have ends : txCompletions s c (strmOf s ⟨c, false⟩).mark = complete (txWrite (txGone s c) c (strmOf s ⟨c, false⟩).mark x) c 2
      (if x.txw then 2 else 1) x.cf x.ce x.num (mxSts x.ferr) Cnt.zero := by
    unfold txCompletions
    simp only [cmds, last, List.filter_cons, List.filter_nil, bne_self_eq_false, beq_self_eq_true, if_true, Bool.false_eq_true,
      if_false, List.map_nil, List.foldl_cons, List.foldl_nil]
    rfl
  exact congrArg (fun u => Host.Outcome.next (nextPart u ⟨c, false⟩)) ends

/-- What the last cycle of a command leaves, when its last effect leaves the streams and the accumulators. -/
theorem completed_ends {s u : State} {c : Nat} {x : TxCmd} (strm : strmOf u ⟨c, false⟩ = strmOf (txGone s c) ⟨c, false⟩)
    (acc : (archOf u c).acc = (archOf s c).acc) (opc : Nat) :
    let t := nextPart (complete u c 2 opc x.cf x.ce x.num (mxSts x.ferr) Cnt.zero) ⟨c, false⟩
    (strmOf t ⟨c, false⟩).cyc = (strmOf s ⟨c, false⟩).cyc.drop 1 ∧ (strmOf t ⟨c, false⟩).pipe.tx = [] ∧
      (strmOf t ⟨c, false⟩).flag x.cf = true ∧ (archOf t c).acc = (archOf s c).acc ∧ (archOf t c).w = (archOf u c).w ∧ t.mem = u.mem := by
  intro t
  have done := complete_completed u c 2 opc x.cf x.ce x.num (mxSts x.ferr) Cnt.zero
  obtain ⟨stream, mem, w, acc'⟩ := nextPart_spec (complete u c 2 opc x.cf x.ce x.num (mxSts x.ferr) Cnt.zero) ⟨c, false⟩
  refine ⟨?_, ?_, ?_, acc'.trans (done.acc.trans acc), w.trans done.w, mem.trans done.mem⟩ <;> rw [stream]
  · show List.drop 1 _ = _
    rw [done.cyc, strm, txGone, strmOf_modStrm_same]
  · show (strmOf _ _).pipe.tx = _
    rw [done.tx, strm, txGone, strmOf_modStrm_same]
  · exact done.flag

/-- The row that a command reads in an open counted cycle (R195). -/
theorem txRead_reads {s : State} {c : Nat} {x : TxCmd} (only : (strmOf s ⟨c, false⟩).pipe.tx = [x]) (ok : x.ferr = false)
    (idle : (strmOf s ⟨c, false⟩).pipe.mx = []) (first : 0 < x.age) (last : x.age ≤ x.nr) (mark : Nat)
    (sound : arrBad s c mark (x.src + (x.age - 1) * x.sp) (cdiv (x.nc * x.ew) 512) = none) :
    txReads (mxStages s c mark) c mark = modTx s c 0 fun y =>
      { y with buf := y.buf ++ [BitVec.ofNat 4096 (arrRows s c mark (x.src + (x.age - 1) * x.sp) (cdiv (x.nc * x.ew) 512))] } := by
  have cmds : (archOf s c).main.pipe.tx = [x] := only
  have none : (archOf s c).main.pipe.mx = [] := idle
  have stages : mxStages s c mark = s := by
    rw [mxStages, none]
    rfl
  rw [stages, txReads, cmds]
  show txRead c mark s 0 = _
  have due : (x.ferr || decide (x.age = 0) || decide (x.nr < x.age)) = false := by
    rw [ok, decide_eq_false (by omega), decide_eq_false (by omega)]
    rfl
  simp only [txRead, cmds, List.getElem?_cons_zero, due, Bool.false_eq_true, if_false, sound]

theorem rowStage_reads {s : State} {c : Nat} {x : TxCmd} (only : (strmOf s ⟨c, false⟩).pipe.tx = [x]) (ok : x.ferr = false)
    (part : (strmOf s ⟨c, false⟩).cyc.head? = some .rows) (idle : (strmOf s ⟨c, false⟩).pipe.mx = []) (first : 0 < x.age)
    (last : x.age ≤ x.nr)
    (sound : arrBad s c (strmOf s ⟨c, false⟩).mark (x.src + (x.age - 1) * x.sp) (cdiv (x.nc * x.ew) 512) = none) :
    ∃ t, exec (.rowStage c) s = .next t ∧ (strmOf t ⟨c, false⟩).cyc = (strmOf s ⟨c, false⟩).cyc.drop 1 ∧ t.mem = s.mem ∧
      (strmOf t ⟨c, false⟩).pipe.tx = [{ x with buf := x.buf ++ [BitVec.ofNat 4096
        (arrRows s c (strmOf s ⟨c, false⟩).mark (x.src + (x.age - 1) * x.sp) (cdiv (x.nc * x.ew) 512))] }] ∧
      (archOf t c).w = (archOf s c).w ∧ (archOf t c).acc = (archOf s c).acc := by
  let m := (strmOf s ⟨c, false⟩).mark
  let g : TxCmd → TxCmd := fun y =>
    { y with buf := y.buf ++ [BitVec.ofNat 4096 (arrRows s c m (x.src + (x.age - 1) * x.sp) (cdiv (x.nc * x.ew) 512))] }
  obtain ⟨stream, mem, w, acc⟩ := nextPart_spec (modTx s c 0 g) ⟨c, false⟩
  have read : strmOf (modTx s c 0 g) ⟨c, false⟩ = { strmOf s ⟨c, false⟩ with pipe := { (strmOf s ⟨c, false⟩).pipe with
      tx := (strmOf s ⟨c, false⟩).pipe.tx.modify 0 g } } := strmOf_modStrm_same s ⟨c, false⟩ _
  refine ⟨nextPart (modTx s c 0 g) ⟨c, false⟩, ?_, ?_, mem, ?_,
    w.trans (archField_modStrm Arch.w (fun a b _ => by cases b <;> rfl) s _ _ _),
    acc.trans (archField_modStrm Arch.acc (fun a b _ => by cases b <;> rfl) s _ _ _)⟩
  · show Host.Outcome.next (match atPart s c .rows with
      | none => s
      | some k => nextPart (txReads (mxStages s c (strmOf s k).mark) c (strmOf s k).mark) k) = _
    rw [atPart_main part]
    exact congrArg (fun u => Host.Outcome.next (nextPart u ⟨c, false⟩)) (txRead_reads only ok idle first last m sound)
  · rw [stream, read]
  · rw [stream, read]
    show List.modify _ _ _ = _
    rw [only]
    rfl

end Sys2Proof.MemoryProofs

namespace Sys2Proof.MemoryProofs
open Sys2Proof.Machine Sys2Proof.Laws Sys2Proof.VectorProofs

/-- The row of an address that a `txw` may read is that of its translation. -/
theorem lookPa_of_access {s : State} {c : Nat} {a : Ask} {va : Word} {i pa : Nat} {e : TEntry} (h : access s c a va = .ok (i, e, pa)) :
    lookPa s c a (wf va 0 48) = some pa := by
  obtain ⟨entry, rfl, -, -, -⟩ := access_ok h
  rw [lookPa, entry]
  rfl

theorem wf_ofNat_wf {n : Nat} (x : BitVec n) : wf (BitVec.ofNat 64 (wf x 0 48)) 0 48 = wf x 0 48 := by
  have small : wf x 0 48 < 2 ^ 48 := Nat.mod_lt _ (Nat.two_pow_pos 48)
  rw [wf, fld, Nat.pow_zero, Nat.div_one, BitVec.toNat_ofNat]
  omega

/-- Settles O42: acceptance by `issueTxp_accepts` and `issueTxw_accepts`, the row of a cycle by `rowStage_reads`, and the last
cycle by what `txWrite` leaves. -/
theorem transposeCommandsAreAccepted : Obligations.TransposeCommandsAreAccepted := by
  unfold Obligations.TransposeCommandsAreAccepted
  refine ⟨fun h o s on => ?_, fun c x s => ?_⟩
  · simp only [extract_toNat]
    intro high gap src step free
    have ok : Pitches s := ⟨free, wf_eq_zero_of_extract high, wf_eq_zero_of_extract gap, src, step⟩
    refine ⟨fun ra la rb lb dst dp srcCovers dstCovers read write => ?_, fun i e pa r z written readers nest reach read => ?_⟩
    · have accepted := issueTxp_accepts ok dst dp srcCovers dstCovers read write
      obtain ⟨entered, outside, cores, w, cur, nacc⟩ := txAccept_spec s (txpCmd o s ra rb)
        (pitchRows ra (wf o.prm 14 7 + 1) (wf (txWord s 2) 0 13) (cdiv ((wf o.prm 7 7 + 1) * txpBytes o) 64) ++
          pitchRows rb (wf o.prm 7 7 + 1) (wf (txWord s 2) 16 13) (cdiv ((wf o.prm 14 7 + 1) * txpBytes o) 64)) (la ++ lb)
      refine ⟨_, _, slotStep_ok on accepted, entered, rfl, rfl, rfl, rfl, rfl, rfl, rfl, rfl, rfl, rfl, rfl,
        ⟨outside, cores, w, cur, nacc⟩, fun r => ?_⟩
      simp only [mem_notOwned, List.mem_append, mem_pitchRows]
      rfl
    · have form : txwForm (rFmt (regOf s s.focus.core (paRow pa))) = txwForm (rFmt (regOf s s.focus.core
          (paRow ((lookPa s s.focus.core (askSrc true) (wf (txWord s 0 + rs s o.sa) 0 48)).getD 0)))) := by
        have look := lookPa_of_access reach
        rw [wf_ofNat_wf] at look
        exact congrArg (fun p => txwForm (rFmt (regOf s s.focus.core (paRow (p.getD 0))))) look.symm
      have accepted := issueTxw_accepts (h := h) ok written readers nest form rfl read
      obtain ⟨entered, outside, cores, w, cur, nacc⟩ := txAccept_spec s
        (txwCmd o s (txwForm (rFmt (regOf s s.focus.core (paRow pa)))) ((txwForm (rFmt (regOf s s.focus.core (paRow pa)))).getD (0, 64)).2 r)
        (pitchRows r 128 (wf (txWord s 2) 0 13) (((txwForm (rFmt (regOf s s.focus.core (paRow pa)))).getD (0, 64)).2 / 64)) z
      refine ⟨_, _, slotStep_ok on accepted, entered, rfl, rfl, rfl, rfl, rfl, rfl, ?_, ⟨outside, cores, w, cur, nacc⟩, fun r => ?_⟩
      · show (if mergedPt (ptNow s s.focus.core) = true then 134 else 140) = 128 + if mergedPt (ptNow s s.focus.core) = true then 6 else 12
        split <;> rfl
      · simp only [mem_notOwned, mem_pitchRows]
        rfl
  · intro k a m ends el only ok
    refine ⟨fun part idle first last sound => rowStage_reads only ok part idle first last sound, fun part last =>
      ⟨fun txp wf clean reqs hc width dp pitch fits => ?_, fun txw width => ?_⟩⟩
    · have gone : (archOf (txGone s c) c).reqs = [] :=
        (archField_modStrm Arch.reqs (fun a b _ => by cases b <;> rfl) s ⟨c, false⟩ _ c).trans reqs
      have rows : nRows c ≤ 65536 := by
        unfold nRows
        split <;> decide
      obtain ⟨written, els, frame⟩ := txWrite_columns (s := txGone s c) wf clean hc gone m ok txp width pitch (by omega)
      obtain ⟨cyc, tx, flag, acc, w, mem⟩ := completed_ends (s := s) (c := c) (x := x)
        (written.arch (fun a => a.stream false) (fun _ _ => rfl) c) ((written.arch Arch.acc (fun _ _ => rfl) c).trans
          (archField_modStrm Arch.acc (fun a b _ => by cases b <;> rfl) s ⟨c, false⟩ _ c)) (if x.txw then 2 else 1)
      refine ⟨_, ⟨engineCompletion_tx only part last, cyc, tx, flag, acc⟩, w.trans ((written.arch Arch.w (fun _ _ => rfl) c).trans
        (archField_modStrm Arch.w (fun a b _ => by cases b <;> rfl) s ⟨c, false⟩ _ c)), fun j hj i hi => ?_, fun b hb => ?_⟩
      · rw [rowAt, mem]
        exact els j hj i hi
      · rw [mem]
        exact frame b hb
    · have narrow : x.ew ≤ 16 := by
        simp only [List.mem_cons, List.not_mem_nil, or_false] at width
        omega
      obtain ⟨g, eq, latch⟩ := txWrite_latch (txGone s c) c m ok txw narrow
      obtain ⟨cyc, tx, flag, acc, w, mem⟩ := completed_ends (s := s) (c := c) (x := x) (u := txWrite (txGone s c) c m x)
        (by rw [eq]; exact strmOf_modArch (fun a b => by cases b <;> rfl) (txGone s c) c ⟨c, false⟩)
        (by
          rw [eq]
          exact (archField_modArch Arch.acc (fun _ => by rfl) (txGone s c) c c).trans
            (archField_modStrm Arch.acc (fun a b _ => by cases b <;> rfl) s ⟨c, false⟩ _ c))
        (if x.txw then 2 else 1)
      have latches : (archOf (txWrite (txGone s c) c m x) c).w = tmod WLatch.idle a.w x.wl g := by
        rw [eq, archOf_modArch_same]
        exact congrArg (fun z => tmod WLatch.idle z x.wl g) (archField_modStrm Arch.w (fun a b _ => by cases b <;> rfl) s ⟨c, false⟩ _ c)
      rw [latches] at w
      obtain ⟨fmt, rows⟩ := latch (tget WLatch.idle a.w x.wl)
      refine ⟨_, ⟨engineCompletion_tx only part last, cyc, tx, flag, acc⟩, mem.trans (by rw [eq]; rfl), fun l hl => ?_, ?_⟩
      · rw [w, tget_tmod, if_neg hl]
      · rw [w, tget_tmod, if_pos rfl]
        exact ⟨fmt, rows⟩

end Sys2Proof.MemoryProofs

/-!
Messages that arrive, barriers, sweeps, publishes, residency, the end of forcing and of failing copies (R153 to R201, R278, R297,
R317, R322, R358, R410, R411).
-/
namespace Sys2Proof.MemoryProofs
open Sys2Proof.Machine Sys2Proof.Laws Sys2Proof.VectorProofs

/-! ### Arrivals (R153, R159, R201) -/

/-- What the arrival of a message leaves of everything but its core's queues, handles and events. -/
def Delivered (s : State) (i : Nat) (m : NetMsg) (t : State) : Prop :=
  t.net = s.net.eraseIdx i ∧ t.mem = s.mem ∧ SameCores s t m.dst ∧ (archOf t m.dst).main = (archOf s m.dst).main ∧
    (archOf t m.dst).side = (archOf s m.dst).side

/-- A message that changes its core, its streams apart. -/
theorem delivered_modArch (s : State) (i : Nat) (m : NetMsg) {g : Arch → Arch} (main : ∀ a, (g a).main = a.main)
    (side : ∀ a, (g a).side = a.side) : Delivered s i m (modArch (takeMsg s i) m.dst g) := by
  refine ⟨rfl, rfl, sameCores_modArch (takeMsg s i) m.dst g, ?_, ?_⟩ <;> rw [archOf_modArch_same]
  · exact main _
  · exact side _

section
variable {s : State} {i : Nat} {m : NetMsg}

theorem queueArrival_stores {q : Nat} {e : QEnt} (here : s.net[i]? = some m) (ready : msgReady s i m = true) (msg : m.msg = .push q e)
    (core : q = 7 ∨ saveFor s m = none)
    (room : (if m.src = m.dst then queueShut ((archOf s m.dst).queue q) (queueCap q) else queueFull s m.dst q) = false)
    (one : ∀ y ∈ ((archOf s m.dst).queue q).prods, y = m.src ∧ y = e.src) (ring : ((archOf s m.dst).queue q).ring = none) :
    exec (.queueArrival i) s = .next (modArch (takeMsg s i) m.dst fun a => enqueue a q e) := by
  have single : ∀ n, (∀ y ∈ ((archOf s m.dst).queue q).prods, y = n) → ((archOf s m.dst).queue q).manyProds n = false := fun n h => by
    rw [Queue.manyProds, List.any_eq_false]
    intro y hy
    rw [h y hy, bne_self_eq_false]
    exact Bool.false_ne_true
  have bound : (if chanOf m.msg = (0, 7) then none else saveFor s m) = none := by
    obtain rfl | away := core
    · rw [msg]
      rfl
    · rw [away, ite_self]
  have held : queueHeld s (arrivalNode s m.dst q e) ((archOf s m.dst).queue q) m.dst q m.src = false := by
    rw [queueHeld, single m.src fun y hy => (one y hy).1, Bool.false_and]
  have stores : arrive (takeMsg s i) m.dst q e = some (modArch (takeMsg s i) m.dst fun a => enqueue a q e) :=
    arrive_stores (s := takeMsg s i) ring (single e.src fun y hy => (one y hy).2)
  show execQueueArrival i s = _
  unfold execQueueArrival
  simp only [here, msg, chanOf, if_true]
  unfold deliver
  rw [msg] at bound
  simp only [ready, Bool.not_true, Bool.false_eq_true, if_false, msg, bound]
  unfold queueAt
  rw [room, held]
  simp only [Bool.false_eq_true, if_false, stores]

theorem deliver_applies {x : Msg} (ready : msgReady s i m = true) (msg : m.msg = x) (kind : (chanOf x).1 ≠ 0) (core : saveFor s m = none)
    (free : (chanOf x).1 = 1 → (archOf s m.dst).main.cyc = []) :
    deliver s i m = modArch (takeMsg s i) m.dst fun a => applyMsg a x := by
  unfold deliver
  simp only [ready, Bool.not_true, Bool.false_eq_true, if_false, core, ite_self]
  rw [msg]
  have moves : ¬((chanOf x).1 = 1 ∧ (!(archOf s m.dst).main.cyc.isEmpty) = true) := fun ⟨one, busy⟩ => by
    rw [free one] at busy
    exact Bool.false_ne_true busy
  cases x with
  | push q e => exact absurd rfl kind
  | pointer n prd v => exact if_neg moves
  | event r => exact if_neg moves

/-- A pointer waits for the boundary of its core (R157). -/
theorem handlePointerUpdate_waits {n : Nat} {prd : Bool} {v : BitVec 13} (here : s.net[i]? = some m) (ready : msgReady s i m = true)
    (msg : m.msg = .pointer n prd v) (core : saveFor s m = none) (open_ : (archOf s m.dst).main.cyc ≠ []) :
    exec (.handlePointerUpdate i) s = .next s := by
  have busy : (archOf s m.dst).main.cyc.isEmpty = false := by
    rw [List.isEmpty_eq_false_iff]
    exact open_
  have stays : deliver s i m = s := by
    unfold deliver
    simp only [ready, Bool.not_true, Bool.false_eq_true, if_false, core, ite_self, msg]
    exact if_pos ⟨rfl, by rw [busy]; rfl⟩
  show execHandlePointerUpdate i s = _
  unfold execHandlePointerUpdate
  simp only [here, msg, chanOf, if_true, stays]
  simp only [noteMove, msg, Nat.lt_irrefl, decide_false, Bool.false_and, Bool.false_eq_true, if_false]

/-- The handle that a pointer update replaces a pointer of, and the note of its move (R20, R153). -/
def movePointer (n : Nat) (prd : Bool) (v : BitVec 13) (a : Arch) : Arch :=
  { a with h := tput a.h n (setPtr (tget 0 a.h n) prd v.toNat), moved := a.moved ++ [(n, prd)] }

theorem handlePointerUpdate_moves {n : Nat} {prd : Bool} {v : BitVec 13} (here : s.net[i]? = some m) (ready : msgReady s i m = true)
    (msg : m.msg = .pointer n prd v) (core : saveFor s m = none) (idle : (archOf s m.dst).main.cyc = []) :
    ∃ t, exec (.handlePointerUpdate i) s = .next t ∧ t.net = s.net.eraseIdx i ∧ t.mem = s.mem ∧ SameCores s t m.dst ∧
      archOf t m.dst = movePointer n prd v (archOf s m.dst) := by
  have moves := deliver_applies ready msg (by simp [chanOf]) core fun _ => idle
  let u := modArch (takeMsg s i) m.dst fun a => applyMsg a (.pointer n prd v)
  have arch : archOf u m.dst = applyMsg (archOf s m.dst) (.pointer n prd v) := archOf_modArch_same (takeMsg s i) m.dst _
  have inside : i < s.net.length := (List.getElem?_eq_some_iff.mp here).1
  have shorter : u.net.length < s.net.length := by
    show (s.net.eraseIdx i).length < _
    rw [List.length_eraseIdx_of_lt inside]
    omega
  have still : (archOf u m.dst).main.cyc = [] := by
    rw [arch]
    exact idle
  refine ⟨modArch u m.dst fun a => { a with moved := a.moved ++ [(n, prd)] }, ?_, rfl, rfl,
    sameCores_trans (sameCores_modArch (takeMsg s i) m.dst _) (sameCores_modArch u m.dst _), ?_⟩
  · show execHandlePointerUpdate i s = _
    unfold execHandlePointerUpdate
    simp only [here, msg, chanOf, if_true, moves]
    have note : noteMove s u m = modArch u m.dst fun a => { a with moved := a.moved ++ [(n, prd)] } := by
      unfold noteMove
      simp only [msg]
      rw [core, still, decide_eq_true shorter]
      rfl
    rw [← note]
  · rw [archOf_modArch_same, arch]
    rfl

theorem eventRecordArrival_pushes {r : EvRec} (here : s.net[i]? = some m) (ready : msgReady s i m = true) (msg : m.msg = .event r)
    (core : saveFor s m = none) :
    exec (.eventRecordArrival i) s = .next (modArch (takeMsg s i) m.dst fun a => pushEvent a r) := by
  show execEventRecordArrival i s = _
  unfold execEventRecordArrival
  simp only [here]
  rw [deliver_applies ready msg (by simp [chanOf]) core (by simp [chanOf]), msg]
  rfl

end

/-! ### Barriers (R200, R317) -/

/-- One participant after another, while no launch is saved. -/
theorem foldl_endPhase (b : Barrier) (l : List Nat) (once : l.Nodup) (s : State) (saves : s.hub.saves = []) :
    let t := l.foldl (fun s c => modNodeArch s c b.ctx b.node (endPhase b.scp b.id)) s
    t.mem = s.mem ∧ t.hub = s.hub ∧ (∀ c ∈ l, archOf t c = endPhase b.scp b.id (archOf s c)) ∧ ∀ c, c ∉ l → coreOf t c = coreOf s c := by
  induction l generalizing s with
  | nil => exact ⟨rfl, rfl, fun c hc => absurd hc List.not_mem_nil, fun _ _ => rfl⟩
  | cons x l ih =>
    have head : modNodeArch s x b.ctx b.node (endPhase b.scp b.id) = modArch s x (endPhase b.scp b.id) := by
      rw [modNodeArch, saves]
      rfl
    obtain ⟨fresh, once⟩ := List.nodup_cons.mp once
    obtain ⟨mem, hub, done, others⟩ := ih once (modArch s x (endPhase b.scp b.id)) saves
    rw [List.foldl_cons, head]
    refine ⟨mem, hub, fun c hc => ?_, fun c hc => ?_⟩
    · by_cases first : c = x
      · rw [first, archOf, others x fresh, ← archOf, archOf_modArch_same]
      · rw [done c ((List.mem_cons.mp hc).resolve_left first), archOf_modArch_ne s _ first]
    · rw [others c fun h => hc (List.mem_cons_of_mem x h)]
      exact sameCores_modArch s x _ c fun h => hc (h ▸ List.mem_cons_self)

/-- A full barrier of one core's package completes alone (R200). -/
theorem barrierCompletion_ends {s : State} {i : Nat} {b : Barrier} (here : s.hub.bars[i]? = some b) (near : b.scp < 6)
    (full : barFull s b = true) (saves : s.hub.saves = []) (sweep : ∀ c ∈ b.arr, sweepHolds (archOf s c) = false) :
    exec (.barrierCompletion i) s = .next (endBar s b) := by
  obtain ⟨n, node⟩ : ∃ n, nodeOf s b.ctx b.node = some n := by
    unfold barFull at full
    split at full
    · exact absurd full Bool.false_ne_true
    · exact ⟨_, ‹_›⟩
  have group : barGroupOf s b = [b] := by
    unfold barGroupOf
    simp only [node]
    exact if_pos near
  have quiet : groupQuiet s b = true := by
    unfold groupQuiet
    simp only [node]
    rw [decide_eq_true near, Bool.true_or]
  have made : groupMade s b = true := by
    unfold groupMade
    simp only [node]
    rw [decide_eq_true near, Bool.true_or]
  have note : noteGroup s b = s := by
    unfold noteGroup
    simp only [node]
    exact if_pos near
  have running : ∀ c, nodeArch s c b.ctx b.node = archOf s c := fun c => by
    rw [nodeArch, saves]
    rfl
  have free : ([b].any fun y => y.arr.any fun c => sweepHolds (nodeArch s c y.ctx y.node)) = false := by
    rw [List.any_cons, List.any_nil, Bool.or_false, List.any_eq_false]
    intro c hc
    rw [running, sweep c hc]
    exact Bool.false_ne_true
  show execBarrierCompletion i s = _
  unfold execBarrierCompletion
  simp only [here, group, quiet, made, note, free, List.all_cons, List.all_nil, full, Bool.and_true, Bool.not_false, if_true,
    List.foldl_cons, List.foldl_nil]

/-- What the participants of a barrier have when it has completed. -/
theorem endBar_spec (s : State) (b : Barrier) (once : b.arr.Nodup) (saves : s.hub.saves = []) :
    b ∉ (endBar s b).hub.bars ∧ (endBar s b).mem = s.mem ∧
      (∀ c ∈ b.arr, archOf (endBar s b) c = endPhase b.scp b.id (archOf s c)) ∧ ∀ c, c ∉ b.arr → coreOf (endBar s b) c = coreOf s c := by
  obtain ⟨mem, hub, done, others⟩ := foldl_endPhase b b.arr once s saves
  refine ⟨fun h => ?_, mem, done, others⟩
  have apart := (List.mem_filter.mp h).2
  rw [bne_self_eq_false] at apart
  exact Bool.false_ne_true apart

/-- An arrival at the barrier is marked as answered. -/
theorem endPhase_arrv {scp id : Nat} {a : Arch} (h : (scp, id, false) ∈ a.arrv) : (scp, id, true) ∈ (endPhase scp id a).arrv :=
  List.mem_map.mpr ⟨_, h, if_pos ⟨rfl, rfl⟩⟩

/-! ### Sweeps (R319) -/

/-- Entries changed by number each stand changed. -/
theorem tget_map {α : Type} (d : α) (h : Nat → α → α) {g : Nat × α → Nat × α} (form : ∀ x, g x = (x.1, h x.1 x.2)) (idle : ∀ n, h n d = d)
    (t : Tbl α) (n : Nat) : tget d (t.map g) n = h n (tget d t n) := by
  induction t with
  | nil => exact (idle n).symm
  | cons x t ih =>
    obtain ⟨k, v⟩ := x
    rw [List.map_cons, form (k, v)]
    simp only [tget]
    split
    · rename_i same
      rw [same]
    · exact ih

/-- A tag of a core's rows after the sweep. -/
def sweepRow (s : State) (core : Nat) (t : Nat × BitVec 32) : Nat × BitVec 32 :=
  if t.1 * 64 / 2 ^ 22 = s.pkg.toNat * 2 ^ 26 + core then (t.1, sweepTag (archOf s core).phn t.2) else t

/-- The tags after a core's sweep: those of its rows, 64 or more phases behind, no longer count. -/
theorem raceTagSweep_ends {s : State} {core : Nat} (on : (archOf s core).sweep = true) :
    ∃ t, exec (.raceTagSweep core) s = .next t ∧ (archOf t core).sweep = false ∧ t.mem = s.mem ∧ SameCores s t core ∧
      ∀ row, tget 0 t.tags row = if row * 64 / 2 ^ 22 = s.pkg.toNat * 2 ^ 26 + core then
        sweepTag (archOf s core).phn (tget 0 s.tags row) else tget 0 s.tags row := by
  let u : State := { s with tags := s.tags.map (sweepRow s core) }
  refine ⟨modArch u core fun a => { a with sweep := false }, ?_, ?_, rfl, sameCores_modArch u core _, fun row => ?_⟩
  · show execRaceTagSweep core s = _
    unfold execRaceTagSweep
    simp only [on, Bool.not_true, Bool.false_eq_true, if_false]
    rfl
  · rw [archOf_modArch_same]
  · refine tget_map 0 (fun n v => if n * 64 / 2 ^ 22 = s.pkg.toNat * 2 ^ 26 + core then sweepTag (archOf s core).phn v else v)
      (fun x => ?_) (fun n => ?_) s.tags row
    · unfold sweepRow
      split <;> rfl
    · unfold sweepTag
      split
      · split <;> rfl
      · rfl

/-! ### Banks (R163, R278) -/

theorem bankOwnershipPass_passes {s : State} {core bank : Nat} (owner : bankOwner s (32 * core + bank) = some (nodeIds s core))
    (released : (archOf s core).rlsd.getLsbD bank = true) (idle : bankBusy s core bank = false) :
    exec (.bankOwnershipPass core bank) s = .next { s with hub := { s.hub with
      banks := tput s.hub.banks (32 * core + bank) ((tget [] s.hub.banks (32 * core + bank)).erase (nodeIds s core)) } } := by
  show execBankOwnershipPass core bank s = _
  unfold execBankOwnershipPass
  simp only [owner]
  rw [if_pos ⟨trivial, released, by rw [idle]; rfl⟩]

end Sys2Proof.MemoryProofs

namespace Sys2Proof.MemoryProofs
open Sys2Proof.Machine Sys2Proof.Laws Sys2Proof.VectorProofs

/-! ### Sides of regions (R322, R418) -/

theorem setSide_keeps {α : Type} (f : Arch → α) (keeps : ∀ a l, f { a with tab := l } = f a) (reg : Nat) (side : Bool) (a : Arch) :
    f (setSide reg side a) = f a := keeps ..

/-- A table takes sides of regions one after the other. -/
def takeSides (l : List (Nat × Bool)) (a : Arch) : Arch := l.foldl (fun a x => setSide x.1 x.2 a) a

theorem takeSides_keeps {α : Type} (f : Arch → α) (keeps : ∀ a l, f { a with tab := l } = f a) (l : List (Nat × Bool)) (a : Arch) :
    f (takeSides l a) = f a := by
  unfold takeSides
  induction l generalizing a with
  | nil => rfl
  | cons x l ih => exact (ih _).trans (keeps ..)

/-- An entry after its side is set: its region and its pairing stand. -/
theorem setSide_entry (e : TEntry) (side : Bool) :
    let z : TEntry := { e with w3 := setFld e.w3 6 1 side.toNat }
    z.reg = e.reg ∧ z.shp = e.shp ∧ z.w1 = e.w1 ∧ z.side = side := by
  refine ⟨rfl, ?_, rfl, ?_⟩
  · simp [TEntry.shp, getLsbD_setFld, -BitVec.getLsbD_eq_getElem]
  · cases side <;> simp [TEntry.side, getLsbD_setFld, -BitVec.getLsbD_eq_getElem]

/-- An entry that a table has after a side was set, and the one that it was. -/
theorem mem_setSide {reg : Nat} {side : Bool} {a : Arch} {z : Nat × TEntry} (hz : z ∈ (setSide reg side a).tab) :
    ∃ y ∈ a.tab, z.2.reg = y.2.reg ∧ z.2.shp = y.2.shp ∧
      z.2.side = if y.2.reg = reg ∧ y.2.shp = true then side else y.2.side := by
  obtain ⟨y, hy, rfl⟩ := List.mem_map.mp hz
  obtain ⟨same, pair, -, turned⟩ := setSide_entry y.2 side
  refine ⟨y, hy, ?_⟩
  split
  · exact ⟨same, pair, turned⟩
  · exact ⟨rfl, rfl, rfl⟩

/-- Where every region that is set takes one side, an entry of such a region has it. -/
theorem side_takeSides {side : Bool} {l : List (Nat × Bool)} (one : ∀ x ∈ l, x.2 = side) {a : Arch} {z : Nat × TEntry}
    (hz : z ∈ (takeSides l a).tab) :
    ∃ y ∈ a.tab, z.2.reg = y.2.reg ∧ z.2.shp = y.2.shp ∧ ((z.2.shp = true ∧ ∃ x ∈ l, x.1 = z.2.reg) → z.2.side = side) ∧
      ((∀ x ∈ l, x.1 ≠ z.2.reg) → z.2.side = y.2.side) := by
  unfold takeSides at hz
  induction l generalizing a with
  | nil => exact ⟨z, hz, rfl, rfl, fun ⟨_, x, hx, _⟩ => absurd hx List.not_mem_nil, fun _ => rfl⟩
  | cons x l ih =>
    obtain ⟨y, hy, reg, shp, set_, kept⟩ := ih (fun x hx => one x (List.mem_cons_of_mem _ hx)) hz
    obtain ⟨w, hw, reg', shp', side'⟩ := mem_setSide hy
    refine ⟨w, hw, reg.trans reg', shp.trans shp', fun ⟨paired, u, hu, same⟩ => ?_, fun apart => ?_⟩
    · by_cases later : ∃ x ∈ l, x.1 = z.2.reg
      · exact set_ ⟨paired, later⟩
      · have first : x.1 = z.2.reg := by
          obtain rfl | hu := List.mem_cons.mp hu
          · exact same
          · exact absurd ⟨u, hu, same⟩ later
        rw [kept fun x hx h => later ⟨x, hx, h⟩, side', if_pos ⟨by rw [← reg', ← reg, first], by rw [← shp', ← shp, paired]⟩]
        exact one x List.mem_cons_self
    · rw [kept fun x hx => apart x (List.mem_cons_of_mem _ hx), side', if_neg]
      rintro ⟨same, -⟩
      exact apart x List.mem_cons_self (by rw [reg, reg', same])

/-- An entry of no region that is set stands. -/
theorem mem_takeSides_of_apart {l : List (Nat × Bool)} {a : Arch} {z : Nat × TEntry} (hz : z ∈ a.tab)
    (apart : ∀ x ∈ l, z.2.reg ≠ x.1 ∨ z.2.shp = false) : z ∈ (takeSides l a).tab := by
  unfold takeSides
  induction l generalizing a with
  | nil => exact hz
  | cons x l ih =>
    refine ih ?_ fun x hx => apart x (List.mem_cons_of_mem _ hx)
    refine List.mem_map.mpr ⟨z, hz, if_neg ?_⟩
    rintro ⟨same, paired⟩
    obtain other | plain := apart x List.mem_cons_self
    · exact other same
    · exact Bool.false_ne_true (plain.symm.trans paired)

/-- The tables of a context on a core take sides: the state of the other cores stands, and so does all but the saved images. -/
theorem setSides_spec (s : State) (ctx tab : Nat) (l : List (Nat × Bool)) :
    (setSides s ctx tab l).mem = s.mem ∧ (setSides s ctx tab l).hub.ctxs = s.hub.ctxs ∧
      (setSides s ctx tab l).hub.flips = s.hub.flips ∧ SameCores s (setSides s ctx tab l) tab ∧
      archOf (setSides s ctx tab l) tab =
        if ((archOf s tab).task.map (·.ctx)) = some ctx then takeSides l (archOf s tab) else archOf s tab := by
  let u := if ((archOf s tab).task.map (·.ctx)) = some ctx then modArch s tab (takeSides l) else s
  have at_ : u.mem = s.mem ∧ u.hub = s.hub ∧ SameCores s u tab ∧
      archOf u tab = if ((archOf s tab).task.map (·.ctx)) = some ctx then takeSides l (archOf s tab) else archOf s tab := by
    simp only [u]
    split
    · exact ⟨rfl, rfl, sameCores_modArch s tab _, archOf_modArch_same s tab _⟩
    · exact ⟨rfl, rfl, fun _ _ => rfl, rfl⟩
  obtain ⟨mem, hub, cores, arch⟩ := at_
  exact ⟨mem, show u.hub.ctxs = _ by rw [hub], show u.hub.flips = _ by rw [hub], cores, arch⟩

/-! ### Shadow records (R418) -/

/-- The byte of a region's shadow record that holds its residency and side. -/
def recAddr (s : State) (ctx reg : Nat) : Nat := canon ((ctxOf s ctx).shtb.toNat + 32 * reg + 4)

/-- One byte written over a byte of memory. -/
theorem cellAt_byte {m : List Host.Cell} (wf : memWf m = true) (a v b : Nat) :
    cellAt (writeN m a v (2 ^ 1 - 1) 1) b = if b = a then BitVec.ofNat 8 v else cellAt m b := by
  rw [cellAt_writeN wf]
  by_cases here : b = a
  · subst here
    rw [if_pos ⟨Nat.le_refl _, by omega, by rw [Nat.sub_self]; rfl⟩, if_pos rfl, Nat.sub_self, Nat.pow_zero, Nat.div_one]
  · rw [if_neg here, if_neg]
    rintro ⟨low, high, -⟩
    omega

theorem cellAt_writeRec_byte {s : State} (wf : Inv s) (a v b : Nat) :
    cellAt (writeRec s a 1 v).mem b = if b = canon a then BitVec.ofNat 8 v else cellAt s.mem b := by
  simp only [writeRec]
  exact cellAt_byte wf (canon a) v b

theorem readN_byte (m : List Host.Cell) (a : Nat) : readN m a 1 = (cellAt m a).toNat := rfl

theorem cellAt_toNat_lt (m : List Host.Cell) (a : Nat) : (cellAt m a).toNat < 256 := (cellAt m a).isLt

theorem recSide_spec {s : State} (wf : Inv s) (ctx : Nat) (x : Nat × Bool) :
    (recSide ctx s x).cores = s.cores ∧ (recSide ctx s x).hub = s.hub ∧ Inv (recSide ctx s x) ∧
      (x.1 < (ctxOf s ctx).shtn.toNat → fld (readN (recSide ctx s x).mem (recAddr s ctx x.1) 1) 3 1 = x.2.toNat) ∧
      ∀ b, (x.1 < (ctxOf s ctx).shtn.toNat → b ≠ recAddr s ctx x.1) → cellAt (recSide ctx s x).mem b = cellAt s.mem b := by
  unfold recSide
  dsimp only
  split
  · rename_i inside
    refine ⟨rfl, rfl, memWf_writeN wf _ _ _ _, fun _ => ?_, fun b hb => ?_⟩
    · rw [readN_byte, cellAt_writeRec_byte wf, recAddr, if_pos rfl, BitVec.toNat_ofNat, fld]
      have small := cellAt_toNat_lt s.mem (canon ((ctxOf s ctx).shtb.toNat + 32 * x.1 + 4))
      rw [readN_byte]
      cases x.2 <;> simp only [Bool.toNat_false, Bool.toNat_true] <;> omega
    · rw [cellAt_writeRec_byte wf]
      exact if_neg (hb inside)
  · rename_i outside
    exact ⟨rfl, rfl, wf, fun h => absurd h outside, fun _ _ => rfl⟩

/-- The shadow records of one context take sides one after the other. -/
theorem foldl_recSide_cores (ctx : Nat) (l : List (Nat × Bool)) (s : State) :
    (l.foldl (recSide ctx) s).cores = s.cores := by
  induction l generalizing s with
  | nil => rfl
  | cons x l ih =>
    rw [List.foldl_cons, ih]
    unfold recSide
    dsimp only
    split <;> rfl

/-! ### A publish of another package (R322) -/

/-- The regions of a table whose first copy stands at a base, each with the side it takes. -/
def farHits (base : Nat) (side : Bool) (a : Arch) : List (Nat × Bool) :=
  ((a.tab.filter (fun x => x.2.shp && wf x.2.w1 0 56 == base)).map (fun x => (x.2.reg, side))).eraseDups

theorem publishFlip_arrives {s : State} {base tab : Nat} {side : Bool} {tk : Task} (task : (archOf s tab).task = some tk)
    (saves : ∀ v ∈ s.hub.saves, v.core ≠ tab) :
    exec (.publishFlip (.arrive base side tab)) s = .next ((farHits base side (archOf s tab)).foldl (recSide tk.ctx)
      (setSides s tk.ctx tab (farHits base side (archOf s tab)))) := by
  have none : s.hub.saves.filter (fun v => v.core == tab) = [] := List.filter_eq_nil_iff.mpr fun v hv h =>
    saves v hv (of_decide_eq_true h)
  show Host.Outcome.next (flipFar s base side tab) = _
  unfold flipFar
  simp only [task, none, Option.map_some, Option.toList_some, List.map_nil, List.append_nil, List.foldl_cons, List.foldl_nil]
  rfl

/-! ### A publish of a core (R194, R322) -/

/-- A change of a node keeps every part of its context but the nodes. -/
theorem ctxField_modNode {α : Type} (f : Ctx → α) (keeps : ∀ y l, f { y with nodes := l } = f y) (s : State) (c n : Nat) (g : Node → Node)
    (d : Nat) : f (ctxOf (modNode s c n g) d) = f (ctxOf s d) := by
  unfold modNode
  split
  · rfl
  · by_cases hd : d = c
    · rw [hd, ctxOf_modCtx_same, keeps]
    · rw [ctxOf_modCtx_ne _ _ hd]

/-- The broadcast that a core's publish of one region begins. -/
def ownFlip (s : State) (core : Nat) (tk : Task) (x : CpCmd) (e : TEntry) : Flip :=
  { id := s.ids, core := core, ctx := tk.ctx, sides := [(e.reg, !e.side)], todo := flipTabs s core tk.ctx (wf x.prm 16 4)
    scp := wf x.prm 16 4 }

/-- The first command after its publish has begun. -/
def begun (s : State) (x : CpCmd) : CpCmd := { x with pub := some s.ids, flip := false }

theorem publish_begins {s : State} {core : Nat} {x : CpCmd} {l : List CpCmd} {e : TEntry} {tk : Task}
    (head : (archOf s core).cp = x :: l) (ready : x.phase = 2) (still : x.flip = false) (unpublished : x.pub = none)
    (ents : pubEnts s core x = [e]) (task : (archOf s core).task = some tk)
    (reaches : flipTabs s core tk.ctx (wf x.prm 16 4) ≠ []) :
    (publish s core).hub.flips = s.hub.flips ++ [ownFlip s core tk x e] ∧ (publish s core).mem = s.mem ∧
      SameCores s (publish s core) core ∧ archOf (publish s core) core = { archOf s core with cp := begun s x :: l } ∧
      ∀ c, (ctxOf (publish s core) c).shtb = (ctxOf s c).shtb ∧ (ctxOf (publish s core) c).shtn = (ctxOf s c).shtn := by
  have ids : nodeIds s core = (tk.ctx, tk.node) := by
    unfold nodeIds
    simp only [task]
  have more : (ownFlip s core tk x e).todo.isEmpty = false := by
    rw [List.isEmpty_eq_false_iff]
    exact reaches
  let g : Node → Node := fun y => { y with pubs := y.pubs ++ ([(e.reg, !e.side)].map (·.1)).filter (fun r => !y.pubs.contains r) }
  let u := modNode s tk.ctx tk.node g
  let v : State := { u with hub := { u.hub with flips := u.hub.flips ++ [ownFlip s core tk x e] }, ids := s.ids + 1 }
  have form : publish s core = modHead v core fun x => { x with pub := some s.ids, flip := false } := by
    unfold publish
    simp only [head]
    rw [ents, ids]
    have goes : x.phase = 2 ∧ (!x.flip) = true ∧ x.pub.isNone = true ∧ (!([e].map fun e => (e.reg, !e.side)).isEmpty) = true :=
      ⟨ready, by rw [still]; rfl, by rw [unpublished]; rfl, rfl⟩
    refine (if_pos goes).trans ?_
    simp only [List.map_cons, List.map_nil, show (flipTabs s core tk.ctx (wf x.prm 16 4)).isEmpty = false from more, Bool.false_eq_true,
      if_false]
    rfl
  obtain ⟨ctxs, same, -⟩ := modNode_spec s tk.ctx tk.node g
  have same : u = { s with hub := { s.hub with ctxs := ctxs } } := same
  have arch : archOf v core = archOf s core := archOf_congr (show u.cores = s.cores by rw [same]) core
  rw [form]
  refine ⟨show u.hub.flips ++ _ = _ by rw [same], show u.mem = _ by rw [same], sameCores_trans (fun c _ => ?_) (sameCores_modArch v core _),
    ?_, fun c => ⟨?_, ?_⟩⟩
  · exact coreOf_congr (show u.cores = s.cores by rw [same]) c
  · rw [modHead, archOf_modArch_same, arch, head]
    rfl
  · exact ctxField_modNode Ctx.shtb (fun _ _ => rfl) s tk.ctx tk.node g c
  · exact ctxField_modNode Ctx.shtn (fun _ _ => rfl) s tk.ctx tk.node g c

/-- A publish that has reached its last table has completed in the commands of its core (R322). -/
def markFlipped (id : Nat) (a : Arch) : Arch :=
  { a with cp := a.cp.map (fun x => if x.pub = some id then { x with flip := true } else x) }

/-- What the last table of a broadcast brings beside its sides, and any other does not (R322, R418). -/
def closeFlip (s : State) (f : Flip) (left : List Nat) : State :=
  let s2 := { s with hub := { s.hub with flips :=
    (s.hub.flips.map (fun g => if g.id = f.id then { g with todo := left } else g)).filter (fun g => !g.todo.isEmpty) } }
  if left.isEmpty then modArch (f.sides.foldl (recSide f.ctx) s2) f.core (markFlipped f.id) else s2

theorem flipTable_eq {s : State} {core tab : Nat} {f : Flip} (only : (publish s core).hub.flips = [f]) (own : f.core = core)
    (mem : tab ∈ f.todo) (small : tab < 1024) :
    flipTable s core tab = closeFlip (setSides (publish s core) f.ctx tab f.sides) f (f.todo.filter (· != tab)) := by
  have found : (publish s core).hub.flips.find? (fun f => f.core == core && f.todo.contains tab) = some f := by
    rw [only]
    refine List.find?_cons_of_pos ?_
    rw [own, beq_self_eq_true, Bool.true_and]
    exact List.contains_iff_mem.mpr mem
  unfold flipTable
  simp only [found, small, if_true, closeFlip, own]
  rfl

/-- A broadcast of one region's side that closes or goes on. -/
theorem closeFlip_spec {s : State} (wf_ : Inv s) {f : Flip} {reg : Nat} {side : Bool} (only : s.hub.flips = [f])
    (sides : f.sides = [(reg, side)]) {y : CpCmd} {l : List CpCmd} (head : (archOf s f.core).cp = y :: l) (pub : y.pub = some f.id)
    (open_ : y.flip = false) (others : ∀ z ∈ l, z.pub = none) (left : List Nat) :
    let t := closeFlip s f left
    (archOf t f.core).cp = { y with flip := left.isEmpty } :: l ∧
      t.hub.flips = (if left.isEmpty then [] else [{ f with todo := left }]) ∧ SameCores s t f.core ∧
      (∀ c, (archOf t c).tab = (archOf s c).tab ∧ (archOf t c).main = (archOf s c).main) ∧
      (left = [] → reg < (ctxOf s f.ctx).shtn.toNat → fld (readN t.mem (recAddr s f.ctx reg) 1) 3 1 = side.toNat) ∧
      ∀ a, (left = [] → reg < (ctxOf s f.ctx).shtn.toNat → a ≠ recAddr s f.ctx reg) → cellAt t.mem a = cellAt s.mem a := by
  intro t
  let s2 : State := { s with hub := { s.hub with flips :=
    (s.hub.flips.map (fun g => if g.id = f.id then { g with todo := left } else g)).filter (fun g => !g.todo.isEmpty) } }
  have flips : s2.hub.flips = if left.isEmpty then [] else [{ f with todo := left }] := by
    show (s.hub.flips.map _).filter _ = _
    rw [only, List.map_cons, List.map_nil, if_pos rfl]
    cases left <;> rfl
  have eq : t = if left.isEmpty then modArch (f.sides.foldl (recSide f.ctx) s2) f.core (markFlipped f.id) else s2 := rfl
  by_cases last : left = []
  · obtain ⟨cores, hub, -, record, frame⟩ := recSide_spec (s := s2) wf_ f.ctx (reg, side)
    have empty : left.isEmpty = true := List.isEmpty_iff.mpr last
    rw [if_pos empty, sides] at eq
    rw [eq]
    have arch : ∀ c, archOf (recSide f.ctx s2 (reg, side)) c = archOf s c := archOf_congr cores
    refine ⟨?_, ?_, sameCores_trans (fun c _ => coreOf_congr cores c) (sameCores_modArch (recSide f.ctx s2 (reg, side)) f.core _),
      fun c => ⟨?_, ?_⟩, fun _ => record, fun a ha => frame a (ha last)⟩
    · show (archOf (modArch (recSide f.ctx s2 (reg, side)) f.core (markFlipped f.id)) f.core).cp = _
      rw [archOf_modArch_same, arch, markFlipped, head, List.map_cons, if_pos pub, empty]
      refine congrArg (List.cons _) ((List.map_congr_left (g := id) fun z hz => ?_).trans (List.map_id l))
      rw [others z hz]
      rfl
    · exact (congrArg (fun h : Hub => h.flips) hub).trans flips
    · exact (archField_modArch Arch.tab (fun _ => by rfl) (recSide f.ctx s2 (reg, side)) f.core c).trans (congrArg Arch.tab (arch c))
    · exact (archField_modArch Arch.main (fun _ => by rfl) (recSide f.ctx s2 (reg, side)) f.core c).trans (congrArg Arch.main (arch c))
  · have more : left.isEmpty = false := List.isEmpty_eq_false_iff.mpr last
    rw [more, if_neg Bool.false_ne_true] at eq
    rw [eq]
    refine ⟨head.trans ?_, flips, fun _ _ => rfl, fun _ => ⟨rfl, rfl⟩, fun h => absurd h last, fun _ _ => rfl⟩
    rw [more, ← open_]

/-- What the broadcast of a publish of one region leaves when it has reached a table (R322). -/
theorem flipTable_reaches {s : State} (wf_ : Inv s) {core tab : Nat} {x : CpCmd} {l : List CpCmd} {e : TEntry} {tk : Task}
    (head : (archOf s core).cp = x :: l) (ready : x.phase = 2) (still : x.flip = false) (unpublished : x.pub = none)
    (ents : pubEnts s core x = [e]) (task : (archOf s core).task = some tk) (none_ : s.hub.flips = []) (others : ∀ z ∈ l, z.pub = none)
    (small : tab < 1024) (mem : tab ∈ flipTabs s core tk.ctx (wf x.prm 16 4)) :
    let left := (flipTabs s core tk.ctx (wf x.prm 16 4)).filter (· != tab)
    let t := flipTable s core tab
    let sides : List (Nat × Bool) := [(e.reg, !e.side)]
    (archOf t core).cp = { x with pub := some s.ids, flip := left.isEmpty } :: l ∧
      t.hub.flips = (if left.isEmpty then [] else [{ ownFlip s core tk x e with todo := left }]) ∧
      (archOf t tab).tab = (if ((archOf s tab).task.map (·.ctx)) = some tk.ctx then takeSides sides (archOf s tab) else archOf s tab).tab ∧
      (∀ c, c ≠ tab → c ≠ core → coreOf t c = coreOf s c) ∧ (tab ≠ core → (archOf t core).tab = (archOf s core).tab) ∧
      (∀ c, (archOf t c).main = (archOf s c).main) ∧
      (left = [] → e.reg < (ctxOf s tk.ctx).shtn.toNat → fld (readN t.mem (recAddr s tk.ctx e.reg) 1) 3 1 = (!e.side).toNat) ∧
      ∀ a, (left = [] → e.reg < (ctxOf s tk.ctx).shtn.toNat → a ≠ recAddr s tk.ctx e.reg) → cellAt t.mem a = cellAt s.mem a := by
  intro left t sides
  let f := ownFlip s core tk x e
  let p := publish s core
  let u := setSides p tk.ctx tab sides
  obtain ⟨flips, mem1, cores1, arch1, ctx1⟩ := publish_begins head ready still unpublished ents task (List.ne_nil_of_mem mem)
  obtain ⟨mem2, ctxs2, flips2, cores2, arch2⟩ := setSides_spec p tk.ctx tab sides
  rw [none_, List.nil_append] at flips
  have eq : t = closeFlip u f left := flipTable_eq (f := f) flips rfl mem small
  have table : ∀ {α : Type} (g : Arch → α), (∀ a l, g { a with tab := l } = g a) → ∀ c, g (archOf u c) = g (archOf p c) := fun g keeps c => by
    by_cases same : c = tab
    · rw [same, arch2]
      split
      · exact takeSides_keeps g keeps sides _
      · rfl
    · rw [archOf, cores2 c same, ← archOf]
  have before : ∀ {α : Type} (g : Arch → α), (∀ a l, g { a with cp := l } = g a) → ∀ c, g (archOf p c) = g (archOf s c) := fun g keeps c => by
    by_cases same : c = core
    · rw [same, arch1]
      exact keeps ..
    · rw [archOf, cores1 c same, ← archOf]
  have cmds : (archOf u core).cp = begun s x :: l := by
    rw [table Arch.cp fun _ _ => rfl, arch1]
  obtain ⟨cp, flips3, cores3, kept, record, frame⟩ := closeFlip_spec (s := u) (f := f)
    (show memWf u.mem = true by rw [mem2, mem1]; exact wf_) (flips2.trans flips) rfl cmds rfl rfl others left
  have here : ∀ c, (ctxOf u c).shtb = (ctxOf s c).shtb ∧ (ctxOf u c).shtn = (ctxOf s c).shtn := fun c => by
    have same : ctxOf u c = ctxOf p c := by rw [ctxOf, ctxs2, ← ctxOf]
    rw [same]
    exact ctx1 c
  have addr : recAddr u tk.ctx e.reg = recAddr s tk.ctx e.reg := by rw [recAddr, (here tk.ctx).1, ← recAddr]
  rw [show (ctxOf u f.ctx).shtn = (ctxOf s tk.ctx).shtn from (here tk.ctx).2, show recAddr u f.ctx e.reg = _ from addr] at record frame
  rw [eq]
  refine ⟨cp, flips3, ?_, fun c other away => ?_, fun away => ?_, fun c => ?_, record, fun a ha => ?_⟩
  · rw [(kept tab).1, arch2, before Arch.task fun _ _ => rfl]
    split
    · show List.map _ (archOf p tab).tab = List.map _ (archOf s tab).tab
      rw [before Arch.tab fun _ _ => rfl]
    · exact before Arch.tab (fun _ _ => rfl) tab
  · rw [cores3 c away, cores2 c other, cores1 c away]
  · rw [(kept core).1, archOf, cores2 core (Ne.symm away), ← archOf, before Arch.tab fun _ _ => rfl]
  · rw [(kept c).2, table Arch.main fun _ _ => rfl, before Arch.main fun _ _ => rfl]
  · rw [frame a ha, mem2, mem1]

end Sys2Proof.MemoryProofs

namespace Sys2Proof.MemoryProofs
open Sys2Proof.Machine Sys2Proof.Laws Sys2Proof.VectorProofs

/-! ### Residency (R297, R418) -/

/-- What a change of a region's residency leaves. -/
structure Resided (s t : State) (ctx reg res : Nat) : Prop where
  tabs : ∀ c, (archOf s c).task.map (·.ctx) = some ctx → ∀ z ∈ (archOf t c).tab, z.2.reg = reg → z.2.res = res
  cores : ∀ c, (archOf t c).main = (archOf s c).main ∧ (archOf t c).task = (archOf s c).task
  record : reg < (ctxOf s ctx).shtn.toNat → fld (readN t.mem (recAddr s ctx reg) 1) 1 2 = res
  frame : ∀ a, (reg < (ctxOf s ctx).shtn.toNat → a ≠ recAddr s ctx reg) → cellAt t.mem a = cellAt s.mem a

/-- A table in which a region has a residency. -/
def putRes (reg res : Nat) (a : Arch) : Arch :=
  { a with tab := a.tab.map fun x => if x.2.reg = reg then (x.1, { x.2 with w3 := setFld x.2.w3 8 2 res }) else x }

theorem res_putRes {reg res : Nat} (small : res < 4) {a : Arch} {z : Nat × TEntry} (hz : z ∈ (putRes reg res a).tab) (at_ : z.2.reg = reg) :
    z.2.res = res := by
  obtain ⟨y, -, rfl⟩ := List.mem_map.mp hz
  split at at_
  · rename_i same
    rw [if_pos same]
    exact (wf_setFld_same y.2.w3 res (by decide)).trans (Nat.mod_eq_of_lt small)
  · rename_i apart
    exact absurd at_ apart

/-- An update of the cores whose task is of a context. -/
def ctxCores (s : State) (ctx : Nat) (g : Arch → Arch) : Tbl Core :=
  s.cores.map fun c => if (c.2.arch.task.map (·.ctx)) = some ctx then (c.1, { c.2 with arch := g c.2.arch }) else c

theorem archOf_ctxCores {s t : State} {ctx : Nat} {g : Arch → Arch} (cores : t.cores = ctxCores s ctx g) (c : Nat) :
    archOf t c = if ((archOf s c).task.map (·.ctx)) = some ctx then g (archOf s c) else archOf s c := by
  have core : coreOf t c = (fun (_ : Nat) (v : Core) => if (v.arch.task.map (·.ctx)) = some ctx then { v with arch := g v.arch } else v) c
      (coreOf s c) := by
    rw [coreOf, cores]
    refine tget_map Core.idle (fun _ v => if (v.arch.task.map (·.ctx)) = some ctx then { v with arch := g v.arch } else v) (fun x => ?_)
      (fun _ => if_neg fun h => Option.some_ne_none _ h.symm) s.cores c
    split <;> rfl
  rw [archOf, core]
  exact apply_ite Core.arch ..

/-- The byte of a shadow record with a residency put in. -/
def resByte (b res : Nat) : Nat := fld b 0 8 / 8 * 8 + res * 2 + fld b 0 1

/-- A change of residency: the tables of the context's cores and of its saved images, and then its shadow record. -/
theorem setRes_form (s : State) (ctx reg res : Nat) : ∃ u : State, u.mem = s.mem ∧ u.cores = ctxCores s ctx (putRes reg res) ∧
    u.hub.ctxs = s.hub.ctxs ∧ setRes s ctx reg res = if reg < (ctxOf s ctx).shtn.toNat then
      writeRec u ((ctxOf s ctx).shtb.toNat + 32 * reg + 4) 1 (resByte (readN s.mem (recAddr s ctx reg) 1) res) else u :=
  let saves := s.hub.saves.map fun v => if v.ctx = ctx then { v with arch := putRes reg res v.arch } else v
  ⟨{ s with cores := ctxCores s ctx (putRes reg res), hub := { s.hub with saves := saves } }, rfl, rfl, rfl, rfl⟩

theorem setRes_ctxs (s : State) (ctx reg res : Nat) : (setRes s ctx reg res).hub.ctxs = s.hub.ctxs := by
  obtain ⟨u, -, -, ctxs, form⟩ := setRes_form s ctx reg res
  rw [form]
  split <;> exact ctxs

theorem setRes_resided {s : State} (wf_ : Inv s) (ctx reg : Nat) {res : Nat} (small : res < 4) : Resided s (setRes s ctx reg res) ctx reg res := by
  obtain ⟨u, mem, cores, -, form⟩ := setRes_form s ctx reg res
  have wfu : Inv u := by
    show memWf u.mem = true
    rw [mem]
    exact wf_
  have after : (setRes s ctx reg res).cores = ctxCores s ctx (putRes reg res) := by
    rw [form]
    split <;> exact cores
  have arch := archOf_ctxCores after
  have cell : ∀ b, cellAt (setRes s ctx reg res).mem b = if reg < (ctxOf s ctx).shtn.toNat ∧ b = recAddr s ctx reg then
      BitVec.ofNat 8 (resByte (readN s.mem (recAddr s ctx reg) 1) res) else cellAt s.mem b := fun b => by
    rw [form]
    by_cases inside : reg < (ctxOf s ctx).shtn.toNat
    · rw [if_pos inside, cellAt_writeRec_byte wfu, mem, ← recAddr]
      simp only [inside, true_and]
    · rw [if_neg inside, if_neg fun h => inside h.1, mem]
  refine ⟨fun c task z hz at_ => ?_, fun c => ?_, fun inside => ?_, fun a apart => ?_⟩
  · rw [arch, if_pos task] at hz
    exact res_putRes small hz at_
  · rw [arch]
    split <;> exact ⟨rfl, rfl⟩
  · rw [readN_byte, cell, if_pos ⟨inside, rfl⟩, BitVec.toNat_ofNat, readN_byte]
    have old := cellAt_toNat_lt s.mem (recAddr s ctx reg)
    simp only [resByte, fld]
    omega
  · rw [cell, if_neg fun ⟨inside, same⟩ => apart inside same]

/-- A region that is resident again holds up no task (R296, R297). -/
theorem resident_resided {s : State} (wf_ : Inv s) (ctx reg : Nat) : Resided s (resident s ctx reg) ctx reg 0 ∧
    (∀ v ∈ (resident s ctx reg).hub.saves, v.ctx = ctx → SaveCause.page reg ∉ v.causes) ∧
    (resident s ctx reg).hub.ctxs = s.hub.ctxs := by
  obtain ⟨tabs, cores, record, frame⟩ := setRes_resided wf_ ctx reg (res := 0) (by decide)
  have arch := archOf_ctxCores (s := setRes s ctx reg 0) (t := resident s ctx reg) (ctx := ctx)
    (g := fun a => { a with preq := a.preq.filter (· != .page reg) }) rfl
  refine ⟨⟨fun c task z hz at_ => tabs c task z ?_ at_, fun c => ?_, record, frame⟩, fun v hv mine held => ?_, setRes_ctxs s ctx reg 0⟩
  · rw [arch] at hz
    split at hz <;> exact hz
  · rw [arch]
    split <;> exact cores c
  · obtain ⟨w, -, rfl⟩ := List.mem_map.mp hv
    split at mine
    · rename_i same
      rw [if_pos same] at held
      have apart := (List.mem_filter.mp held).2
      rw [bne_self_eq_false] at apart
      exact Bool.false_ne_true apart
    · rename_i other
      exact other mine

/-! ### The end of forcing (R358) -/

/-- The record of an error changes of its context where its ring stands and how many were lost. -/
theorem ctxField_logCtx {α : Type} (f : Ctx → α) (keeps : ∀ y h l v, f { y with erhead := h, erlost := l, vector := v } = f y) (s : State)
    (c : Nat) (e : ErrRec) : f (ctxOf (logCtx s c e) c) = f (ctxOf s c) := by
  unfold logCtx
  dsimp only
  split
  · rw [ctxOf_putCtx_same]
    exact keeps (ctxOf s c) (ctxOf s c).erhead _ (ctxOf s c).vector
  · rw [ctxOf_putCtx_same]
    exact keeps ..

theorem logCtx_tick (s : State) (c : Nat) (e : ErrRec) : (logCtx s c e).hub.htck = s.hub.htck := by
  unfold logCtx
  dsimp only
  split <;> rfl

/-- Nothing that forces a choice stands in a context in which no node has a range and no log is replayed. -/
theorem nextRec_none {s : State} {ctx : Nat} (own : ∀ n, ownRange s ctx n = none) (common : (ctxOf s ctx).logm ≠ 2) (n key : Nat) :
    nextRec s ctx n key = none := by
  have first : nextOwn s ctx n key = none := by
    unfold nextOwn
    simp only [own n]
  have second : nextCommon s ctx n key = none := by
    unfold nextCommon
    refine if_pos ?_
    rw [decide_eq_true common, Bool.true_or]
  rw [nextRec, first, second]
  rfl

/-- The context after a divergence: no log is replayed, what is held times out no more, every forced node has ended. -/
def forcingEnds (s : State) (ctx : Nat) : Ctx :=
  let x := ctxOf s ctx
  { x with
    logm := if x.logm = 2 then 0 else x.logm
    held := x.held.map (fun g => (g.1, g.2.1, 2 ^ 64, g.2.2.2))
    replay := x.replay ++ ((x.nodes.map (·.1)).filter (fun n => (ownRange s ctx n).isSome)).map (fun n => (n, 0, 1)) }

theorem divergence_form (s : State) (ctx : Nat) (h : Nat × Nat × Nat × Nat) :
    ∃ e, divergence s ctx h = logCtx (putCtx s ctx (forcingEnds s ctx)) ctx e := ⟨_, rfl⟩

/-- A node whose range forces it is one of its context. -/
theorem mem_nodes_of_ownRange {s : State} {ctx n : Nat} (h : (ownRange s ctx n).isSome = true) : n ∈ (ctxOf s ctx).nodes.map (·.1) := by
  cases found : (ctxOf s ctx).nodes.find? (fun e => e.1 == n) with
  | none =>
    have no : nodeOf s ctx n = none := by rw [nodeOf, found]; rfl
    unfold ownRange at h
    simp [no] at h
  | some e => exact List.mem_map.mpr ⟨e, List.mem_of_find?_eq_some found, of_decide_eq_true (List.find?_some found :)⟩

/-- After a divergence no node has a range that forces it. -/
theorem ownRange_forcingEnds {s t : State} {ctx : Nat} (nodes : (ctxOf t ctx).nodes = (ctxOf s ctx).nodes)
    (ranges : (ctxOf t ctx).ranges = (ctxOf s ctx).ranges) (logm : (ctxOf t ctx).logm = (forcingEnds s ctx).logm)
    (replay : (ctxOf t ctx).replay = (forcingEnds s ctx).replay) (n : Nat) : ownRange t ctx n = none := by
  have node : nodeOf t ctx n = nodeOf s ctx n := by rw [nodeOf, nodes, ← nodeOf]
  by_cases ended : (ctxOf t ctx).ended n = true
  · unfold ownRange
    exact if_pos ended
  · have open_ : ∀ r ∈ (forcingEnds s ctx).replay, ¬(r.1 == n && r.2.1 == 0) = true := by
      rw [← replay]
      exact fun r hr h => ended (List.any_eq_true.mpr ⟨r, hr, h⟩)
    have before : ¬(ctxOf s ctx).ended n = true := fun h => by
      obtain ⟨r, hr, at_⟩ := List.any_eq_true.mp h
      exact open_ r (List.mem_append_left _ hr) at_
    have free : ownRange s ctx n = none := Option.not_isSome_iff_eq_none.mp fun h =>
      open_ (n, 0, 1) (List.mem_append_right _ (List.mem_map.mpr ⟨n, List.mem_filter.mpr ⟨mem_nodes_of_ownRange h, h⟩, rfl⟩)) (by simp)
    have logged : (ctxOf t ctx).logm ≠ 0 → (ctxOf s ctx).logm ≠ 0 := by
      rw [logm]
      simp only [forcingEnds]
      split
      · exact fun h => absurd rfl h
      · exact id
    unfold ownRange at free ⊢
    rw [if_neg before] at free
    rw [if_neg ended, node, ranges]
    cases own : nodeOf s ctx n with
    | none => rfl
    | some k =>
      simp only [own] at free ⊢
      cases src : k.src with
      | producer reg =>
        simp only [src] at free ⊢
        exact free
      | _ =>
        simp only [src] at free ⊢
        exact if_neg fun h => Option.some_ne_none _ ((if_pos ⟨logged h.1, h.2⟩).symm.trans free)

theorem replayTimeout_ends {s : State} {ctx unit : Nat} {h : Nat × Nat × Nat × Nat}
    (late : (ctxOf s ctx).held.find? (fun g => g.1 == unit && decide (g.2.2.1 + replayLimit (ctxOf s ctx) ≤ s.hub.htck.toNat)) = some h) :
    ∃ t, exec (.replayTimeout ctx unit) s = .next t ∧ (∀ n key, nextRec t ctx n key = none) ∧ t.cores = s.cores ∧
      (ctxOf t ctx).held.map (fun g => (g.1, g.2.1, g.2.2.2)) = (ctxOf s ctx).held.map (fun g => (g.1, g.2.1, g.2.2.2)) ∧
      ∀ g ∈ (ctxOf t ctx).held, s.hub.htck.toNat < g.2.2.1 := by
  obtain ⟨e, form⟩ := divergence_form s ctx h
  have same : ∀ {α : Type} (f : Ctx → α), (∀ y a b v, f { y with erhead := a, erlost := b, vector := v } = f y) →
      f (ctxOf (divergence s ctx h) ctx) = f (forcingEnds s ctx) := fun f keeps => by
    rw [form, ctxField_logCtx f keeps, ctxOf_putCtx_same]
  have held := same Ctx.held fun _ _ _ _ => rfl
  refine ⟨divergence s ctx h, ?_, nextRec_none (ownRange_forcingEnds (same Ctx.nodes fun _ _ _ _ => rfl) (same Ctx.ranges fun _ _ _ _ => rfl)
    (same Ctx.logm fun _ _ _ _ => rfl) (same Ctx.replay fun _ _ _ _ => rfl)) ?_, ?_, ?_, fun g hg => ?_⟩
  · show execReplayTimeout ctx unit s = _
    unfold execReplayTimeout
    simp only [late]
  · rw [same Ctx.logm fun _ _ _ _ => rfl]
    simp only [forcingEnds]
    split
    · decide
    · assumption
  · rw [form]
    exact (logCtx_spec _ ctx e).2.1
  · rw [held]
    simp only [forcingEnds, List.map_map]
    rfl
  · rw [held] at hg
    obtain ⟨y, -, rfl⟩ := List.mem_map.mp hg
    exact s.hub.htck.isLt

/-! ### Copies that fail (R192, R410, R411) -/

theorem sendOut_keeps {P : State → State → Prop} (trans : ∀ {s t u}, P s t → P t u → P s u)
    (send : ∀ s p hdr data, P s (transmit s p hdr data)) (rest : ∀ (s : State) l, P s { s with fab := { s.fab with out := l } })
    (l kept : List Pkt) (s : State) : P s (sendOut kept l s) := by
  induction l generalizing kept s with
  | nil => exact rest s kept
  | cons x l ih =>
    unfold sendOut
    split
    · exact ih ..
    · exact trans (send ..) (ih ..)

theorem sendAll_keeps {P : State → State → Prop} (trans : ∀ {s t u}, P s t → P t u → P s u)
    (send : ∀ s p hdr data, P s (transmit s p hdr data)) (rest : ∀ (s : State) l, P s { s with fab := { s.fab with retry := l } })
    (l ahead : List Pkt) (s : State) : P s (sendAll ahead l s) := by
  induction l generalizing ahead s with
  | nil => exact rest s ahead
  | cons x l ih =>
    unfold sendAll
    split
    · exact ih ..
    · split
      · exact ih ..
      · exact trans (send ..) (ih ..)

/-- Sending packets changes the fabric alone. -/
theorem pump_keeps {α : Type} (f : State → α) (fabric : ∀ s fab, f { s with fab := fab } = f s) (s : State) : f (pump s) = f s := by
  have trans : ∀ {s t u : State}, f t = f s → f u = f t → f u = f s := fun a b => b.trans a
  have send : ∀ (s : State) p hdr data, f (transmit s p hdr data) = f s := fun s _ _ _ => fabric s _
  have first : f (if s.fab.out.isEmpty then s else sendOut [] s.fab.out s) = f s := by
    split
    · rfl
    · exact sendOut_keeps (P := fun s t => f t = f s) trans send (fun s _ => fabric s _) _ _ s
  unfold pump
  dsimp only
  generalize (if s.fab.out.isEmpty then s else sendOut [] s.fab.out s) = u at first ⊢
  split
  · exact first
  · exact trans first (sendAll_keeps (P := fun s t => f t = f s) trans send (fun s _ => fabric s _) _ _ _)

/-- The first command of a copy engine, changed. -/
theorem modHead_cp {s : State} {core : Nat} {x : CpCmd} {l : List CpCmd} (head : (archOf s core).cp = x :: l) (g : CpCmd → CpCmd) :
    (archOf (modHead s core g) core).cp = g x :: l := by
  rw [modHead, archOf_modArch_same, head]
  rfl

theorem collStepFailure_fails {s : State} {core : Nat} {x : CpCmd} {l : List CpCmd} (head : (archOf s core).cp = x :: l)
    (coll : x.opc = 6) (step : x.phase = 1) (failed : stepFailed s core x = true) :
    ∃ t, exec (.collStepFailure core) s = .next t ∧ t.mem = s.mem ∧ (archOf t core).cp =
      (if x.tries < wf (x.word 8) 32 4 then { x with tries := x.tries + 1 } else { x with phase := 2, sts := 5 }) :: l := by
  have due : ¬(x.opc ≠ 6 ∨ x.phase ≠ 1 ∨ (!stepFailed s core x) = true) := by
    rw [failed]
    rintro (h | h | h)
    · exact h coll
    · exact h step
    · exact Bool.false_ne_true h
  have run : ∀ t, (if x.tries < wf (x.word 8) 32 4 then
        pump (modCmdPkts (modHead s core (fun x => { x with tries := x.tries + 1 })) core x.num
          (fun y => { y with sent := false, tick := s.hub.htck.toNat }))
      else modCmdPkts (modHead s core (fun x => { x with phase := 2, sts := 5 })) core x.num (fun y => { y with cmd := none })) = t →
      exec (.collStepFailure core) s = .next t := fun t ht => by
    show execCollStepFailure core s = _
    unfold execCollStepFailure
    simp only [head]
    rw [if_neg due, ht]
  by_cases again : x.tries < wf (x.word 8) 32 4
  · rw [if_pos again] at run ⊢
    refine ⟨_, run _ rfl, pump_keeps State.mem (fun _ _ => rfl) _, ?_⟩
    rw [archOf_congr (pump_keeps State.cores (fun _ _ => rfl) _)]
    exact modHead_cp head _
  · rw [if_neg again] at run ⊢
    exact ⟨_, run _ rfl, rfl, modHead_cp head _⟩

theorem collStepFailure_holds {s : State} {core : Nat} {x : CpCmd} {l : List CpCmd} (head : (archOf s core).cp = x :: l)
    (sound : stepFailed s core x = false) : exec (.collStepFailure core) s = .next s := by
  show execCollStepFailure core s = _
  unfold execCollStepFailure
  simp only [head]
  rw [if_pos (Or.inr (Or.inr (by rw [sound]; rfl)))]

/-- A command that publishes nothing has no entries to publish. -/
theorem pubEnts_nil {s : State} {core : Nat} {x : CpCmd} (silent : x.prm.getLsbD 20 = false) (cpt : x.opc ≠ 4) (pub : x.opc ≠ 7) :
    pubEnts s core x = [] := by
  unfold pubEnts
  split
  · rw [silent]
    rfl
  · rename_i alone
    have none : pubSpan s core x = none := by
      unfold pubSpan
      dsimp only
      rw [silent, beq_eq_false_iff_ne.mpr cpt, beq_eq_false_iff_ne.mpr pub, Bool.eq_false_iff.mpr alone]
      rfl
    rw [none]

/-- The status of a completion record (R201). -/
theorem status_of_record {eng opc sts sat inv inx : Nat} :
    (BitVec.ofNat 64 (eng * 2 ^ 62 + opc * 2 ^ 54 + sts * 2 ^ 50 + hold16 sat * 2 ^ 34 + hold16 inv * 2 ^ 18 + hold16 inx * 4)).extractLsb' 50 4
      = BitVec.ofNat 4 sts := by
  have held : ∀ n, hold16 n ≤ 65535 := fun n => by
    unfold hold16
    split <;> omega
  have h1 := held sat
  have h2 := held inv
  have h3 := held inx
  apply BitVec.eq_of_toNat_eq
  rw [BitVec.extractLsb'_toNat, BitVec.toNat_ofNat, BitVec.toNat_ofNat, Nat.shiftRight_eq_div_pow]
  omega

/-- A completion changes of a core its main stream and its events. -/
theorem archField_complete {α : Type} (f : Arch → α) (strm : ∀ a b x, f (a.withStream b x) = f a)
    (events : ∀ a q d l, f { a with evq := q, evdrop := d, lost := l } = f a) (s : State) (core eng opc : Nat) (cf : BitVec 4) (ce : Bool)
    (num sts : Nat) (n : Cnt) : f (archOf (complete s core eng opc cf ce num sts n) core) = f (archOf s core) := by
  unfold complete
  dsimp only
  split
  · exact (archField_modArch f (fun a => pushEvent_keeps f events a _) _ core core).trans (archField_modStrm f strm s ⟨core, false⟩ _ core)
  · exact archField_modStrm f strm s ⟨core, false⟩ _ core

/-- A completed command whose status asks for a record posts it (R165, R201). -/
theorem complete_posts (s : State) (core eng opc : Nat) (cf : BitVec 4) (ce : Bool) (num : Nat) {sts : Nat} (n : Cnt) (asks : sts ≠ 0)
    (room : (archOf s core).evq.length < 32) :
    ∃ r, (archOf (complete s core eng opc cf ce num sts n) core).evq = (archOf s core).evq ++ [r] ∧
      r.pay.extractLsb' 50 4 = BitVec.ofNat 4 sts := by
  let k : Sid := ⟨core, false⟩
  let u := modStrm s k fun x =>
    { x.setFlag cf.toNat true with pipe := { x.pipe with ops := x.pipe.ops.map (keepSet cf.toNat) } }
  let r : EvRec := { hdr := evHdr 1 (eng * 2 ^ 14) num
                     pay := BitVec.ofNat 64 (eng * 2 ^ 62 + opc * 2 ^ 54 + sts * 2 ^ 50 + hold16 n.sat * 2 ^ 34 + hold16 n.inv * 2 ^ 18 +
                       hold16 n.inx * 4) }
  have evq : (archOf u core).evq = (archOf s core).evq := archField_modStrm Arch.evq (fun a b _ => by cases b <;> rfl) s k _ core
  have posts : complete s core eng opc cf ce num sts n = postOwn u core r :=
    if_pos (by rw [bne_iff_ne.mpr asks, Bool.or_true])
  refine ⟨{ r with hdr := if (archOf u core).lost then r.hdr ||| 0x4000000000000000 else r.hdr }, ?_, status_of_record⟩
  rw [posts, postOwn, archOf_modArch_same, pushEvent, if_pos (by rw [evq]; exact room)]
  exact congrArg (· ++ _) evq

theorem secondTierNoRoute_ends {s : State} {core : Nat} {x : CpCmd} {l : List CpCmd} (head : (archOf s core).cp = x :: l)
    (waits : x.phase = 0) (lost : cpTierLost s core x = true) (cpt : x.opc ≠ 4) (pub : x.opc ≠ 7)
    (silent : x.flip = true ∨ x.pub = none ∧ x.prm.getLsbD 20 = false) (room : (archOf s core).evq.length < 32) :
    ∃ t r, exec (.secondTierNoRoute core) s = .next t ∧ (archOf t core).cp = l ∧ t.mem = s.mem ∧
      (archOf t core).evq = (archOf s core).evq ++ [r] ∧ r.pay.extractLsb' 50 4 = 7 := by
  let y : CpCmd := { x with phase := 2, sts := 7 }
  let u := modHead s core fun x => { x with phase := 2, sts := 7 }
  let v := modArch u core fun a => { a with cp := l }
  have first : (archOf u core).cp = y :: l := modHead_cp head _
  have ends : ¬(y.phase ≠ 2 ∨ ((!y.flip) = true ∧ (y.pub.isSome = true ∨ (!(pubEnts u core y).isEmpty) = true))) := by
    rintro (h | ⟨flip, h⟩)
    · exact h rfl
    · obtain done | ⟨alone, bit⟩ := silent
      · rw [show y.flip = true from done] at flip
        exact Bool.false_ne_true flip
      · obtain h | h := h
        · rw [show y.pub = none from alone] at h
          exact Bool.false_ne_true h
        · rw [pubEnts_nil (x := y) bit cpt pub] at h
          exact Bool.false_ne_true h
  have evq : (archOf v core).evq = (archOf s core).evq :=
    (archField_modArch Arch.evq (fun _ => by rfl) u core core).trans (archField_modArch Arch.evq (fun _ => by rfl) s core core)
  let n : Cnt := { sat := y.nsat, inv := y.ninv, inx := y.ninx }
  obtain ⟨r, posted, status⟩ := complete_posts v core 1 y.opc.toNat y.cf y.ce y.num (sts := 7) n (by decide) (by rw [evq]; exact room)
  have done : exec (.secondTierNoRoute core) s = .next (complete v core 1 y.opc.toNat y.cf y.ce y.num 7 n) := by
    show execSecondTierNoRoute core s = _
    unfold execSecondTierNoRoute
    simp only [head]
    rw [if_pos ⟨waits, lost⟩]
    refine congrArg Host.Outcome.next ?_
    show cpFinish u core = _
    unfold cpFinish
    simp only [first]
    rw [if_neg ends, if_neg cpt]
    rfl
  refine ⟨_, r, done, ?_, (complete_completed v core 1 y.opc.toNat y.cf y.ce y.num 7 n).mem, by rw [posted, evq], status⟩
  rw [archField_complete Arch.cp (fun a b _ => by cases b <;> rfl) (fun _ _ _ _ => rfl), archOf_modArch_same]

end Sys2Proof.MemoryProofs

namespace Sys2Proof.MemoryProofs
open Sys2Proof.Machine Sys2Proof.Laws Sys2Proof.VectorProofs

/-- The handle that a pointer update leaves. -/
theorem handleOf_movePointer (n : Nat) (prd : Bool) (v : BitVec 13) (a : Arch) :
    handleOf (tget 0 (movePointer n prd v a).h n) =
      if prd then { handleOf (tget 0 a.h n) with prd := v.toNat } else { handleOf (tget 0 a.h n) with cns := v.toNat } := by
  show handleOf (tget 0 (tput a.h n (setPtr (tget 0 a.h n) prd v.toNat)) n) = _
  rw [tget_tput_same, handleOf_setPtr, Nat.mod_eq_of_lt v.isLt]

/-- Whether a record is taken or counted as dropped (R201). -/
theorem pushEvent_cases (a : Arch) (r : EvRec) :
    (a.evq.length < 32 → (pushEvent a r).evdrop = a.evdrop ∧
      (pushEvent a r).evq = a.evq ++ [{ r with hdr := if a.lost then r.hdr ||| 0x4000000000000000 else r.hdr }]) ∧
    (32 ≤ a.evq.length → (pushEvent a r).evq = a.evq ∧ (pushEvent a r).evdrop = Min.min (Max.max a.evdrop 65535) (a.evdrop + 1) ∧
      (pushEvent a r).lost = true) := by
  unfold pushEvent
  refine ⟨fun room => ?_, fun full => ?_⟩
  · rw [if_pos room]
    exact ⟨rfl, rfl⟩
  · rw [if_neg (by omega)]
    refine ⟨rfl, ?_, rfl⟩
    dsimp only
    split <;> omega

/-- An address of a row's tag and its place among the tags. -/
theorem tagRow (row : Nat) : row * 64 / 2 ^ 22 = row / 2 ^ 16 := by omega

/-- A region's table entries after a publish of another package. -/
theorem arrive_sides {s : State} {base tab : Nat} {side : Bool} {tk : Task} (task : (archOf s tab).task = some tk)
    (saves : ∀ v ∈ s.hub.saves, v.core ≠ tab) :
    ∃ t, exec (.publishFlip (.arrive base side tab)) s = .next t ∧ SameCores s t tab ∧ (archOf t tab).main = (archOf s tab).main ∧
      ∀ z ∈ (archOf s tab).tab, z.2.shp = true → z.2.w1.toNat % 2 ^ 56 = base →
        ∀ y ∈ (archOf t tab).tab, y.2.reg = z.2.reg → y.2.shp = true → y.2.side = side := by
  let hits := farHits base side (archOf s tab)
  obtain ⟨-, -, -, others, arch⟩ := setSides_spec s tk.ctx tab hits
  rw [if_pos (by rw [task]; rfl)] at arch
  have cores := foldl_recSide_cores tk.ctx hits (setSides s tk.ctx tab hits)
  refine ⟨_, publishFlip_arrives task saves, fun c hc => (coreOf_congr cores c).trans (others c hc), ?_, fun z hz paired at_ y hy same pair => ?_⟩
  · rw [archOf_congr cores, arch]
    exact takeSides_keeps Arch.main (fun _ _ => rfl) hits _
  · rw [archOf_congr cores, arch] at hy
    have hit : (z.2.reg, side) ∈ hits := List.mem_eraseDups.mpr (List.mem_map.mpr ⟨z, List.mem_filter.mpr ⟨hz, by
      rw [paired, Bool.true_and, beq_iff_eq, wf, fld, Nat.pow_zero, Nat.div_one]
      exact at_⟩, rfl⟩)
    have one : ∀ x ∈ hits, x.2 = side := fun x hx => by
      obtain ⟨w, -, rfl⟩ := List.mem_map.mp (List.mem_eraseDups.mp hx)
      rfl
    obtain ⟨-, -, -, -, turned, -⟩ := side_takeSides one hy
    exact turned ⟨pair, _, hit, same.symm⟩

/-- Settles O47: each event by what it leaves, above. -/
theorem messagesAndOrder : Obligations.MessagesAndOrder := by
  unfold Obligations.MessagesAndOrder
  intro s comes left
  refine ⟨fun i m q e ⟨here, ready⟩ msg core room one ring => ?_, fun i m n prd v ⟨here, ready⟩ msg core => ⟨fun open_ => ?_, fun idle => ?_⟩,
    fun i m r ⟨here, ready⟩ msg core => ?_, fun i b here near full saves once sweep => ?_, fun core bank small owner released idle => ?_,
    fun core on => ?_, fun core tab x l e tk wf_ head ready still unpublished ents task none_ others small => ?_,
    fun base side tab tk task saves => arrive_sides task saves, fun ctx reg res wf_ => ⟨fun zero down => ?_, fun up => ?_⟩,
    fun ctx unit h late => replayTimeout_ends late, fun core x l head coll step failed => ?_,
    fun core x l head sound => collStepFailure_holds head sound, fun core x l head waits lost cpt pub silent room => ?_⟩
  · refine ⟨_, queueArrival_stores here ready msg core room one ring, delivered_modArch s i m (fun a => enqueue_stream a q e false)
      (fun a => enqueue_stream a q e true), ?_, fun n apart => ?_⟩ <;> rw [archOf_modArch_same, enqueue_queue]
    · rw [if_pos rfl]
      rfl
    · rw [if_neg apart]
      rfl
  · exact handlePointerUpdate_waits here ready msg core open_
  · obtain ⟨t, run, net, mem, cores, arch⟩ := handlePointerUpdate_moves here ready msg core idle
    refine ⟨t, run, ⟨net, mem, cores, by rw [arch]; rfl, by rw [arch]; rfl⟩, ?_, by rw [arch]; rfl, fun k apart => ?_⟩
    · rw [arch]
      exact handleOf_movePointer n prd v _
    · rw [arch]
      exact tget_tput_ne _ _ _ apart
  · refine ⟨_, eventRecordArrival_pushes here ready msg core, delivered_modArch s i m (fun a => pushEvent_stream a r false)
      (fun a => pushEvent_stream a r true), ?_⟩
    rw [archOf_modArch_same]
    exact pushEvent_cases (archOf s m.dst) r
  · obtain ⟨gone, mem, done, rest⟩ := endBar_spec s b once saves
    refine ⟨_, barrierCompletion_ends here near full saves sweep, gone, mem, fun c hc => ?_, rest⟩
    rw [done c hc]
    exact ⟨rfl, rfl, endPhase_arrv, rfl⟩
  · exact ⟨_, bankOwnershipPass_passes owner released idle, rfl, rfl, tget_tput_same .., fun k apart => tget_tput_ne _ _ _ apart⟩
  · obtain ⟨t, run, ended, mem, cores, tags⟩ := raceTagSweep_ends on
    refine ⟨t, run, ended, mem, cores, fun row => ?_⟩
    intro v
    rw [tags, tagRow, sweepTag]
    by_cases here : row / 2 ^ 16 = s.pkg.toNat * 2 ^ 26 + core
    · rw [if_pos here]
      simp only [here, true_and, v]
    · rw [if_neg here, if_neg fun h => here h.1]
  · simp only [extract_toNat]
    intro mem
    obtain ⟨cp, flips, tabs, away, apart, main, record, frame⟩ :=
      flipTable_reaches wf_ head ready still unpublished ents task none_ others small mem
    refine ⟨_, _, rfl, cp, rfl, flips, fun mine z hz same pair => ?_, fun z hz other => ?_, away, apart, main, record, frame⟩
    · rw [tabs, if_pos mine] at hz
      obtain ⟨-, -, -, -, turned, -⟩ := side_takeSides (side := !e.side) (by simp) hz
      exact turned ⟨pair, (e.reg, !e.side), List.mem_singleton_self _, same.symm⟩
    · rw [tabs]
      split
      · refine mem_takeSides_of_apart hz fun y hy => ?_
        rw [List.mem_singleton.mp hy]
        exact other
      · exact hz
  · show Host.Outcome.next _ = _
    rw [if_pos ⟨zero, by rw [down]; rfl⟩]
  · by_cases zero : res = 0
    · obtain ⟨⟨tabs, cores, record, frame⟩, causes, ctxs⟩ := resident_resided wf_ ctx reg
      have value : res.toNat = 0 := by rw [zero]; rfl
      refine ⟨modCtx (resident s ctx reg) ctx fun x => { x with pages := x.pages.filter (· != reg) }, ?_, ?_, cores, fun _ => ⟨fun h => ?_, causes⟩,
        ?_, frame⟩
      · show Host.Outcome.next _ = _
        rw [if_neg (by rw [up zero]; simp), if_pos zero]
      · rw [value]
        exact tabs
      · rw [ctxOf_modCtx_same] at h
        have apart := (List.mem_filter.mp h).2
        rw [bne_self_eq_false] at apart
        exact Bool.false_ne_true apart
      · rw [value]
        exact record
    · obtain ⟨tabs, cores, record, frame⟩ := setRes_resided wf_ ctx reg res.isLt
      refine ⟨setRes s ctx reg res.toNat, ?_, tabs, cores, fun h => absurd h zero, record, frame⟩
      show Host.Outcome.next _ = _
      rw [if_neg fun h => zero h.1, if_neg zero]
  · obtain ⟨t, run, mem, cp⟩ := collStepFailure_fails head coll step failed
    refine ⟨t, _, run, cp, mem, fun again => ?_, fun spent => ?_⟩
    · rw [extract_toNat] at again
      exact if_pos again
    · rw [extract_toNat] at spent
      exact if_neg (Nat.not_lt.mpr spent)
  · obtain ⟨pa, mem, n, down, late⟩ := lost
    refine secondTierNoRoute_ends head waits (List.any_eq_true.mpr ⟨pa, mem, ?_⟩) cpt pub silent room
    rw [down]
    refine decide_eq_true ?_
    rw [fsto, ← extract_toNat]
    exact late

end Sys2Proof.MemoryProofs

/-!
Majority cells (R150 to R152, R422 to R425): the acceptance rule of a copy, and what operations, repairs and walks leave on the
members of a set.
-/
namespace Sys2Proof.MemoryProofs
open Sys2Proof.Machine Sys2Proof.Laws Sys2Proof.VectorProofs

/-! ### Rows of memory -/

/-- Rows begin at multiples of 64 in either view. -/
theorem canon_rowBase_mod (pa : Nat) : canon (rowBase pa) % 64 = 0 := by
  unfold canon
  split <;> simp only [rowBase, fld, Nat.reducePow] <;> omega

/-- A row that was written reads the row; any other row reads as before. -/
theorem rowAt_writeRow {s : State} (wf : Inv s) (pa pb : Nat) (r : Row) :
    rowAt (writeRow s pa r) pb = if canon (rowBase pb) = canon (rowBase pa) then r else rowAt s pb := by
  have mem : (writeRow s pa r).mem = writeN s.mem (canon (rowBase pa)) r.toNat (2 ^ 64 - 1) 64 := by
    simp only [writeRow, noteBytes_mem]
  rw [rowAt, mem]
  split
  · rename_i same
    rw [same, readN_writeN_same wf]
    apply BitVec.eq_of_toNat_eq
    have small := r.isLt
    rw [BitVec.toNat_ofNat, show (256 : Nat) ^ 64 = 2 ^ 512 from by rw [show (256 : Nat) = 2 ^ 8 from rfl, ← Nat.pow_mul], Nat.mod_mod,
      Nat.mod_eq_of_lt small]
  · rename_i apart
    have a := canon_rowBase_mod pa
    have b := canon_rowBase_mod pb
    rw [readN_writeN_apart wf _ _ (by omega), ← rowAt]

theorem writeRow_hub (s : State) (pa : Nat) (r : Row) : ∃ m, (writeRow s pa r).hub = { s.hub with migs := m } := by
  obtain ⟨m, rels, c, form⟩ := noteBytes_form s pa (2 ^ 64 - 1)
  refine ⟨m, ?_⟩
  simp only [writeRow, form]

theorem writeRow_pkg (s : State) (pa : Nat) (r : Row) : (writeRow s pa r).pkg = s.pkg := by
  simp only [writeRow, noteBytes_pkg]

/-- No row is poisoned that was not before a row was written. -/
theorem poisoned_writeRow {s : State} {pa pb : Nat} {r : Row} (h : poisoned (writeRow s pa r) pb = true) : poisoned s pb = true := by
  obtain ⟨m, rels, c, form⟩ := noteBytes_form s pa (2 ^ 64 - 1)
  simp only [poisoned, marked, writeRow, form, Bool.or_eq_true, List.contains_iff_mem, List.mem_filter] at h ⊢
  exact h.imp And.left And.left

/-! ### Copies (R150) -/

/-- What writes of copies leave, of a set, of every core, and of the age of every row. -/
structure Copied (s t : State) : Prop where
  wf : Inv t
  pkg : t.pkg = s.pkg
  mjs : t.hub.mjs = s.hub.mjs
  arch : ∀ {α : Type} (f : Arch → α), (∀ a d, f { a with disc := d } = f a) → ∀ c, f (archOf t c) = f (archOf s c)
  older : ∀ p, tagKey (rowAt s p) ≤ tagKey (rowAt t p)
  sound : ∀ p, poisoned t p = true → poisoned s p = true

theorem copied_refl {s : State} (wf : Inv s) : Copied s s := ⟨wf, rfl, rfl, fun _ _ _ => rfl, fun _ => Nat.le_refl _, fun _ => id⟩

theorem Copied.trans {s t u : State} (a : Copied s t) (b : Copied t u) : Copied s u where
  wf := b.wf
  pkg := b.pkg.trans a.pkg
  mjs := b.mjs.trans a.mjs
  arch f keeps c := (b.arch f keeps c).trans (a.arch f keeps c)
  older p := Nat.le_trans (a.older p) (b.older p)
  sound p h := a.sound p (b.sound p h)

theorem Copied.mjsOf_eq {s t : State} (h : Copied s t) (m : Nat) : mjsOf t m = mjsOf s m := by rw [mjsOf, h.mjs, ← mjsOf]

/-- One copy under the acceptance rule: it is at least as new as the row, and no row is older than before. -/
theorem acceptCopy_copied {s : State} (wf : Inv s) (pa : Nat) (r : Row) :
    Copied s (acceptCopy s pa r) ∧ tagKey r ≤ tagKey (rowAt (acceptCopy s pa r) pa) := by
  unfold acceptCopy
  split
  · rename_i newer
    obtain ⟨m, hub⟩ := writeRow_hub s pa r
    refine ⟨⟨memWf_writeRow wf pa r, writeRow_pkg s pa r, by rw [hub], fun f keeps c => ?_, fun p => ?_, fun p => poisoned_writeRow⟩, ?_⟩
    · show f (coreOf _ c).arch = f (coreOf s c).arch
      rw [coreOf_congr (writeRow_cores s pa r)]
      exact coreField_noteBytes (fun x => f x.arch) (fun x d => keeps x.arch d) s pa _ c
    · rw [rowAt_writeRow wf]
      split
      · rename_i same
        rw [rowAt, same, ← rowAt]
        exact Nat.le_of_lt newer
      · exact Nat.le_refl _
    · rw [rowAt_writeRow wf, if_pos rfl]
  · rename_i older
    exact ⟨copied_refl wf, Nat.not_lt.mp older⟩

/-- The copies of a cell on members of a set, each under the acceptance rule. -/
theorem writeCopies_copied {s : State} (wf : Inv s) (m : MjSet) (cell : Nat) (l : List Nat) (r : Row) :
    Copied s (writeCopies s m cell l r) ∧ ∀ i ∈ l, tagKey r ≤ tagKey (rowAt (writeCopies s m cell l r) (copyPa s m cell i)) := by
  unfold writeCopies
  induction l generalizing s with
  | nil => exact ⟨copied_refl wf, fun i hi => absurd hi List.not_mem_nil⟩
  | cons x l ih =>
    obtain ⟨first, new⟩ := acceptCopy_copied wf (copyPa s m cell x) r
    obtain ⟨rest, others⟩ := ih first.wf
    rw [List.foldl_cons]
    refine ⟨first.trans rest, fun i hi => ?_⟩
    have at_ : ∀ i, copyPa (acceptCopy s (copyPa s m cell x) r) m cell i = copyPa s m cell i := fun i => by
      rw [copyPa, first.pkg, ← copyPa]
    obtain rfl | hi := List.mem_cons.mp hi
    · exact Nat.le_trans new (rest.older _)
    · have later := others i hi
      rw [at_] at later
      exact later

/-! ### The newest copy (R151) -/

theorem tagKey_le_newest {l : List Row} {r : Row} (h : r ∈ l) : tagKey r ≤ tagKey (newest l) := by
  induction l using newest.induct with
  | case1 => exact absurd h List.not_mem_nil
  | case2 x => rw [List.mem_singleton.mp h]; exact Nat.le_refl _
  | case3 x y l n newer ih =>
    rw [newest, if_pos newer]
    obtain rfl | h := List.mem_cons.mp h
    · exact Nat.le_refl _
    · exact Nat.le_trans (ih h) (Nat.le_of_lt newer)
  | case4 x y l n older ih =>
    rw [newest, if_neg older]
    obtain rfl | h := List.mem_cons.mp h
    · exact Nat.not_lt.mp older
    · exact ih h

theorem newest_mem {l : List Row} (h : l ≠ []) : newest l ∈ l := by
  induction l using newest.induct with
  | case1 => exact absurd rfl h
  | case2 x => exact List.mem_singleton_self x
  | case3 x y l n newer ih =>
    rw [newest, if_pos newer]
    exact List.mem_cons_self
  | case4 x y l n older ih =>
    rw [newest, if_neg older]
    exact List.mem_cons_of_mem _ (ih (List.cons_ne_nil _ _))

theorem pickMembers_mem {fresh n : Nat} {l : List Nat} {i : Nat} (h : i ∈ pickMembers fresh n l) : i ∈ l := by
  induction n generalizing l with
  | zero => exact absurd h List.not_mem_nil
  | succ n ih =>
    unfold pickMembers at h
    split at h
    · exact absurd h List.not_mem_nil
    · rename_i x found
      obtain rfl | h := List.mem_cons.mp h
      · exact List.mem_of_getElem? found
      · exact List.mem_of_mem_erase (ih h)

theorem pickMembers_ne_nil {fresh n : Nat} {l : List Nat} (some : 0 < n) (many : l ≠ []) : pickMembers fresh n l ≠ [] := by
  obtain ⟨k, rfl⟩ : ∃ k, n = k + 1 := ⟨n - 1, by omega⟩
  unfold pickMembers
  have inside : Config.mjFirst (8 * fresh + k) % l.length < l.length := Nat.mod_lt _ (List.length_pos_of_ne_nil many)
  rw [List.getElem?_eq_getElem inside]
  exact List.cons_ne_nil _ _

/-- Some members answer first where the majority can. -/
theorem firstAnswers_ne_nil {s : State} {m : MjSet} {cell : Nat} (can : m.need ≤ (m.answers s cell).length) :
    firstAnswers s m cell ≠ [] := by
  have some : 0 < m.need := Nat.succ_pos _
  exact pickMembers_ne_nil some (List.ne_nil_of_length_pos (by omega))

/-! ### The operations (R151, R152) -/

/-- Noting a cell that lags changes its set alone. -/
theorem noteLag_form (s : State) (set cell : Nat) (r : Row) : ∃ l, noteLag s set cell r = { s with hub := { s.hub with mjs := l } } := by
  unfold noteLag
  dsimp only
  split
  · exact ⟨s.hub.mjs, rfl⟩
  · split <;> exact ⟨_, rfl⟩

theorem noteWrite_form (s : State) (c pa : Nat) : ∃ l, noteWrite s c pa = { s with hub := { s.hub with ctxs := l } } := by
  unfold noteWrite
  split
  · exact ⟨s.hub.ctxs, rfl⟩
  · rename_i t _
    obtain ⟨l, same, -⟩ := modNode_spec s t.ctx t.node fun n => if nodeOwns s n pa then n else { n with restart := false }
    exact ⟨l, same⟩

/-- The row that an `mjst` writes carries the payload of the own row. -/
theorem newRow_payload (s : State) (k : Sid) (own old : Row) : (newRow s k own old).extractLsb' 0 384 = own.extractLsb' 0 384 := by
  apply BitVec.eq_of_toNat_eq
  rw [BitVec.extractLsb'_toNat, BitVec.extractLsb'_toNat, newRow, BitVec.toNat_ofNat]
  simp only [Nat.shiftRight_zero]
  rw [Nat.mod_mod_of_dvd _ (Nat.pow_dvd_pow 2 (by decide))]
  have high : ∀ a b c : Nat, a * 2 ^ 384 + b * 2 ^ 432 + 2 ^ 456 = 2 ^ 384 * (a + b * 2 ^ 48 + 2 ^ 72) := fun a b _ => by
    rw [Nat.mul_add, Nat.mul_add, Nat.mul_comm (2 ^ 384) a, ← Nat.mul_assoc, Nat.mul_comm (2 ^ 384) b, Nat.mul_assoc, ← Nat.pow_add,
      ← Nat.pow_add]
  rw [Nat.add_assoc, Nat.add_assoc, ← Nat.add_assoc (_ * 2 ^ 384), high _ _ 0, Nat.add_mul_mod_self_left, Nat.mod_mod]

/-- What a majority operation that goes leaves of its stream, and of the copies: `r` is the row it hands back. -/
theorem performMajority_goes {s : State} {k : Sid} {load : Bool} {o : SmF} {pa own : Nat} {i j : Nat × TEntry}
    (first : access s k.core { askLoad with wr := true, timed := false, coreWr := true, major := true } ((strmOf s k).reg o.sa) =
      .ok (i.1, i.2, pa))
    (second : access s k.core (if load then { askStore with own := true } else { askLoad with timed := false, own := true })
      ((strmOf s k).reg o.sb) = .ok (j.1, j.2, own))
    (can : (mjsOf s (mjSet pa)).need ≤ ((mjsOf s (mjSet pa)).answers s (cellOf pa)).length) :
    let r := if load then mjLoad s (mjSet pa) (cellOf pa) else mjStore s k (mjSet pa) (cellOf pa) own
    (strmOf (performMajority s k load o) k).mjok = some r.2 ∧ (strmOf (performMajority s k load o) k).s = (strmOf r.1 k).s ∧
      (performMajority s k load o).mem = r.1.mem := by
  intro r
  have up : ¬(mjsOf s (mjSet pa)).up.length < (mjsOf s (mjSet pa)).need := fun h => by
    have few : ((mjsOf s (mjSet pa)).answers s (cellOf pa)).length ≤ (mjsOf s (mjSet pa)).up.length := List.length_filter_le _ _
    omega
  let s1 := if load then r.1 else noteWrite r.1 k.core pa
  have same : s1.cores = r.1.cores ∧ s1.mem = r.1.mem := by
    obtain ⟨l, form⟩ := noteWrite_form r.1 k.core pa
    simp only [s1]
    split
    · exact ⟨rfl, rfl⟩
    · rw [form]
      exact ⟨rfl, rfl⟩
  have eq : performMajority s k load o = modStrm { s1 with fresh := s1.fresh + 1 } k fun x => { x with mjok := some r.2 } := by
    unfold performMajority
    simp only [first, second]
    rw [if_neg up, if_neg (Nat.not_lt.mpr can)]
  rw [eq, strmOf_modStrm_same]
  refine ⟨rfl, ?_, same.2⟩
  show (strmOf { s1 with fresh := s1.fresh + 1 } k).s = _
  exact congrArg Stream.s (strmOf_congr (s := r.1) (t := { s1 with fresh := s1.fresh + 1 }) same.1 k)

end Sys2Proof.MemoryProofs

namespace Sys2Proof.MemoryProofs
open Sys2Proof.Machine Sys2Proof.Laws Sys2Proof.VectorProofs

/-- A row is read of memory alone. -/
theorem rowAt_congr {s t : State} (h : t.mem = s.mem) (p : Nat) : rowAt t p = rowAt s p := by rw [rowAt, h, ← rowAt]

/-- The row of an `mjld` is that of a member that can answer (R151). -/
theorem mjLoad_spec {s : State} (wf : Inv s) (set cell : Nat)
    (can : (mjsOf s set).need ≤ ((mjsOf s set).answers s cell).length) (k : Sid) :
    (strmOf (mjLoad s set cell).1 k).s = (strmOf s k).s ∧
      ∃ n ∈ (mjsOf s set).answers s cell, (mjLoad s set cell).2 = rowAt s (copyPa s (mjsOf s set) cell n) := by
  let l := firstAnswers s (mjsOf s set) cell
  let r := newest (l.map fun i => rowAt s (copyPa s (mjsOf s set) cell i))
  obtain ⟨copied, -⟩ := writeCopies_copied wf (mjsOf s set) cell l r
  obtain ⟨m, form⟩ := noteLag_form (writeCopies s (mjsOf s set) cell l r) set cell r
  refine ⟨?_, ?_⟩
  · show (strmOf (noteLag (writeCopies s (mjsOf s set) cell l r) set cell r) k).s = _
    rw [form]
    exact copied.arch (fun a => (a.stream k.side).s) (fun a _ => by cases k.side <;> rfl) k.core
  · have some : l.map (fun i => rowAt s (copyPa s (mjsOf s set) cell i)) ≠ [] := fun h =>
      firstAnswers_ne_nil can (List.map_eq_nil_iff.mp h)
    obtain ⟨n, first, row⟩ := List.mem_map.mp (newest_mem some)
    exact ⟨n, pickMembers_mem first, row.symm⟩

/-- The row of an `mjst` carries the payload, and no member that takes writes has an older copy (R151). -/
theorem mjStore_spec {s : State} (wf : Inv s) (set cell own : Nat) (k : Sid) :
    (strmOf (mjStore s k set cell own).1 k).s = (strmOf s k).s ∧
      (mjStore s k set cell own).2.extractLsb' 0 384 = (rowAt s own).extractLsb' 0 384 ∧
      ∀ n ∈ (mjsOf s set).takes, tagKey (mjStore s k set cell own).2 ≤
        tagKey (rowAt (mjStore s k set cell own).1 (copyPa s (mjsOf s set) cell n)) := by
  let old := newest ((firstAnswers s (mjsOf s set) cell).map fun i => rowAt s (copyPa s (mjsOf s set) cell i))
  let r := newRow s k (rowAt s own) old
  obtain ⟨copied, new⟩ := writeCopies_copied wf (mjsOf s set) cell (mjsOf s set).takes r
  obtain ⟨m, form⟩ := noteLag_form (writeCopies s (mjsOf s set) cell (mjsOf s set).takes r) set cell r
  have state : (mjStore s k set cell own).1 = noteLag (writeCopies s (mjsOf s set) cell (mjsOf s set).takes r) set cell r := rfl
  rw [state, form]
  exact ⟨copied.arch (fun a => (a.stream k.side).s) (fun a _ => by cases k.side <;> rfl) k.core, newRow_payload s k _ old, new⟩

theorem majorityCompletion_ends {s : State} (wf : Inv s) {k : Sid} {load : Bool} {o : SmF} {pa own : Nat} {i j : Nat × TEntry}
    (stage : (strmOf s k).stage = 8) (fresh : (strmOf s k).mjok = none) (act : mayAct s k = true) (roll : (coreOf s k.core).roll = [])
    (done : allDone s k = true) (slot : majoritySlot s k = some (load, o))
    (first : access s k.core { askLoad with wr := true, timed := false, coreWr := true, major := true } ((strmOf s k).reg o.sa) =
      .ok (i.1, i.2, pa))
    (second : access s k.core (if load then { askStore with own := true } else { askLoad with timed := false, own := true })
      ((strmOf s k).reg o.sb) = .ok (j.1, j.2, own))
    (can : (mjsOf s (mjSet pa)).need ≤ ((mjsOf s (mjSet pa)).answers s (cellOf pa)).length) :
    ∃ t r, exec (.majorityCompletion k) s = .next t ∧ (strmOf t k).mjok = some r ∧ (strmOf t k).s = (strmOf s k).s ∧
      (load = true → ∃ n ∈ (mjsOf s (mjSet pa)).answers s (cellOf pa), r = rowAt s (copyPa s (mjsOf s (mjSet pa)) (cellOf pa) n)) ∧
      (load = false → r.extractLsb' 0 384 = (rowAt s own).extractLsb' 0 384 ∧
        ∀ n ∈ (mjsOf s (mjSet pa)).takes, tagKey r ≤ tagKey (rowAt t (copyPa s (mjsOf s (mjSet pa)) (cellOf pa) n))) := by
  obtain ⟨ok, regs, mem⟩ := performMajority_goes first second can
  refine ⟨performMajority s k load o, _, ?_, ok, ?_, fun loads => ?_, fun stores => ?_⟩
  · show execMajorityCompletion k s = _
    unfold execMajorityCompletion
    have goes : ((decide ((strmOf s k).stage ≠ 8)) || (strmOf s k).mjok.isSome || !mayAct s k || !(coreOf s k.core).roll.isEmpty ||
        !allDone s k) = false := by
      rw [fresh, act, roll, done, decide_eq_false fun h => h stage]
      rfl
    rw [if_neg (Bool.eq_false_iff.mp goes)]
    simp only [slot]
  · rw [regs]
    split
    · exact (mjLoad_spec wf (mjSet pa) (cellOf pa) can k).1
    · exact (mjStore_spec wf (mjSet pa) (cellOf pa) own k).1
  · rw [if_pos loads]
    exact (mjLoad_spec wf (mjSet pa) (cellOf pa) can k).2
  · rw [if_neg (by rw [stores]; exact Bool.false_ne_true)] at mem ⊢
    obtain ⟨-, payload, new⟩ := mjStore_spec wf (mjSet pa) (cellOf pa) own k
    refine ⟨payload, fun n hn => ?_⟩
    rw [rowAt_congr mem]
    exact new n hn

/-! ### Repairs (R425) -/

/-- A repair makes no copy older, and every copy that takes writes at least as new as those that answered. -/
theorem repairCell_copied {s : State} (wf : Inv s) (set cell : Nat) : Copied s (repairCell set s cell) ∧
    (canRepair s set cell = true → ∀ i ∈ (mjsOf s set).takes, ∀ j ∈ (mjsOf s set).answers s cell,
      tagKey (rowAt s (copyPa s (mjsOf s set) cell j)) ≤ tagKey (rowAt (repairCell set s cell) (copyPa s (mjsOf s set) cell i))) := by
  let l := ((mjsOf s set).answers s cell).map fun i => rowAt s (copyPa s (mjsOf s set) cell i)
  have form : repairCell set s cell = if ((mjsOf s set).answers s cell).length < (mjsOf s set).need then s else
      writeCopies s (mjsOf s set) cell (mjsOf s set).takes (newest l) := rfl
  rw [form]
  split
  · rename_i few
    exact ⟨copied_refl wf, fun can => absurd few (Nat.not_lt.mpr (of_decide_eq_true can))⟩
  · obtain ⟨copied, new⟩ := writeCopies_copied wf (mjsOf s set) cell (mjsOf s set).takes (newest l)
    refine ⟨copied, fun _ i hi j hj => ?_⟩
    have oldest : tagKey (rowAt s (copyPa s (mjsOf s set) cell j)) ≤ tagKey (newest l) := tagKey_le_newest (List.mem_map.mpr ⟨j, hj, rfl⟩)
    exact Nat.le_trans oldest (new i hi)

/-- Once copies have been written, as many members answer as before. -/
theorem answers_subset {s t : State} (h : Copied s t) (m : MjSet) (cell : Nat) : m.answers s cell ⊆ m.answers t cell := by
  intro i hi
  obtain ⟨up, sound⟩ := List.mem_filter.mp hi
  refine List.mem_filter.mpr ⟨up, ?_⟩
  cases bad : poisoned t (copyPa t m cell i) with
  | false => rfl
  | true =>
    have before := h.sound _ bad
    rw [copyPa, h.pkg, ← copyPa] at before
    rw [before] at sound
    exact absurd sound Bool.false_ne_true

theorem answers_length {s t : State} (h : Copied s t) (m : MjSet) (cell : Nat) :
    (m.answers s cell).length ≤ (m.answers t cell).length := by
  have nodup : (m.answers s cell).Nodup := (List.nodup_range.filter _).filter _
  exact (nodup.subperm (answers_subset h m cell)).length_le

/-- Cells repaired one after another: what `repairCell` does for one it does for each. -/
theorem foldl_repairCell {s : State} (wf : Inv s) (set : Nat) (l : List Nat) : Copied s (l.foldl (repairCell set) s) ∧
    ∀ c ∈ l, canRepair s set c = true → ∀ i ∈ (mjsOf s set).takes, ∀ j ∈ (mjsOf s set).answers s c,
      tagKey (rowAt s (copyPa s (mjsOf s set) c j)) ≤ tagKey (rowAt (l.foldl (repairCell set) s) (copyPa s (mjsOf s set) c i)) := by
  induction l generalizing s with
  | nil => exact ⟨copied_refl wf, fun c hc => absurd hc List.not_mem_nil⟩
  | cons x l ih =>
    obtain ⟨first, new⟩ := repairCell_copied wf set x
    obtain ⟨rest, others⟩ := ih first.wf
    rw [List.foldl_cons]
    refine ⟨first.trans rest, fun c hc can i hi j hj => ?_⟩
    obtain rfl | hc := List.mem_cons.mp hc
    · exact Nat.le_trans (new can i hi j hj) (rest.older _)
    · have same := first.mjsOf_eq set
      have at_ : ∀ n, copyPa (repairCell set s x) (mjsOf s set) c n = copyPa s (mjsOf s set) c n := fun n => by
        rw [copyPa, first.pkg, ← copyPa]
      have later := others c hc
      rw [canRepair, same] at later
      have result := later (decide_eq_true (Nat.le_trans (of_decide_eq_true can) (answers_length first (mjsOf s set) c))) i hi j
        (answers_subset first (mjsOf s set) c hj)
      rw [at_, at_] at result
      exact Nat.le_trans (first.older _) result

/-! ### Members (R424) -/

/-- The set after the state of a member was set. -/
theorem mjsOf_modMjs_same (s : State) (set : Nat) (g : MjSet → MjSet) : mjsOf (modMjs s set g) set = g (mjsOf s set) :=
  tget_tput_same ..

theorem mjsOf_modMjs_ne (s : State) {set n : Nat} (g : MjSet → MjSet) (h : n ≠ set) : mjsOf (modMjs s set g) n = mjsOf s n :=
  tget_tput_ne _ _ _ h

/-- A set with the state of a member replaced. -/
def putMem (i st : Nat) (m : MjSet) : MjSet := { m with reg := setFld m.reg (40 + 2 * i) 2 st }

theorem putMem_n (i st : Nat) (m : MjSet) : (putMem i st m).n = m.n := wf_setFld_apart m.reg st (by omega)

theorem putMem_mem {i st : Nat} (small : st < 4) {m : MjSet} (member : i < m.n) (j : Nat) :
    (putMem i st m).mem j = if j = i then st else m.mem j := by
  have few : m.n < 8 := Nat.mod_lt _ (by decide)
  split
  · rename_i same
    rw [same]
    exact (wf_setFld_same m.reg st (by omega)).trans (Nat.mod_eq_of_lt small)
  · exact wf_setFld_apart m.reg st (by omega)

/-- Members that rejoin come up together after a walk. -/
theorem foldl_setMem (set : Nat) (l : List Nat) (s : State) (members : ∀ i ∈ l, i < (mjsOf s set).n) :
    let t := l.foldl (fun s i => setMem s set i 0) s
    t.mem = s.mem ∧ (mjsOf t set).lag = (mjsOf s set).lag ∧ (mjsOf t set).walk = (mjsOf s set).walk ∧
      ∀ j, (mjsOf t set).mem j = if j ∈ l then 0 else (mjsOf s set).mem j := by
  induction l generalizing s with
  | nil => exact ⟨rfl, rfl, rfl, fun _ => rfl⟩
  | cons x l ih =>
    have here : mjsOf (setMem s set x 0) set = putMem x 0 (mjsOf s set) := mjsOf_modMjs_same s set _
    obtain ⟨mem, lag, walk, states⟩ := ih (setMem s set x 0) fun i hi => by
      rw [here, putMem_n]
      exact members i (List.mem_cons_of_mem x hi)
    rw [List.foldl_cons]
    refine ⟨mem, lag.trans (by rw [here]; rfl), walk.trans (by rw [here]; rfl), fun j => ?_⟩
    rw [states, here, putMem_mem (by decide) (members x List.mem_cons_self)]
    by_cases later : j ∈ l
    · rw [if_pos later, if_pos (List.mem_cons_of_mem x later)]
    · rw [if_neg later]
      by_cases first : j = x
      · rw [if_pos first, if_pos (first ▸ List.mem_cons_self)]
      · rw [if_neg first, if_neg fun h => (List.mem_cons.mp h).elim first later]

end Sys2Proof.MemoryProofs

namespace Sys2Proof.MemoryProofs
open Sys2Proof.Machine Sys2Proof.Laws Sys2Proof.VectorProofs

/-! ### Repairs, walks and states as events (R424, R425) -/

theorem majorityRepair_idle {s : State} {set : Nat}
    (none_ : (mjsOf s set).lag.find? (fun c => decide ((mjsOf s set).need ≤ ((mjsOf s set).answers s c).length)) = none) :
    exec (.majorityRepair set) s = .next s := by
  have none_ : (mjsOf s set).lag.find? (canRepair s set) = none := none_
  show execMajorityRepair set s = _
  unfold execMajorityRepair
  simp only [none_]

theorem majorityRepair_repairs {s : State} (wf : Inv s) {set cell : Nat}
    (found : (mjsOf s set).lag.find? (fun c => decide ((mjsOf s set).need ≤ ((mjsOf s set).answers s c).length)) = some cell) :
    ∃ t, exec (.majorityRepair set) s = .next t ∧ (mjsOf t set).lag = (mjsOf s set).lag.filter (· != cell) ∧
      ∀ i ∈ (mjsOf s set).takes, ∀ j ∈ (mjsOf s set).answers s cell,
        tagKey (rowAt s (copyPa s (mjsOf s set) cell j)) ≤ tagKey (rowAt t (copyPa s (mjsOf s set) cell i)) := by
  have listed : (mjsOf s set).lag.find? (canRepair s set) = some cell := found
  have can : canRepair s set cell = true := List.find?_some listed
  let g : MjSet → MjSet := fun m => { m with lag := m.lag.filter (· != cell) }
  let u := modMjs s set g
  have here : mjsOf u set = g (mjsOf s set) := mjsOf_modMjs_same s set g
  obtain ⟨copied, new⟩ := repairCell_copied (s := u) wf set cell
  refine ⟨repairCell set u cell, ?_, ?_, ?_⟩
  · show execMajorityRepair set s = _
    unfold execMajorityRepair
    simp only [listed]
    rfl
  · rw [copied.mjsOf_eq, here]
  · have again : canRepair u set cell = true := by
      rw [canRepair, here]
      exact can
    have result := new again
    rw [here] at result
    exact result

/-- The members that a walk brings up: those that rejoin, when it has repaired every cell and a majority is up. -/
def walkBack (m : MjSet) (all : Bool) : List Nat :=
  (List.range m.n).filter fun i => m.mem i == 2 && all && decide (m.need ≤ m.up.length)

theorem mem_walkBack {m : MjSet} {all : Bool} {i : Nat} :
    i ∈ walkBack m all ↔ i < m.n ∧ m.mem i = 2 ∧ all = true ∧ m.need ≤ m.up.length := by
  simp only [walkBack, List.mem_filter, List.mem_range, Bool.and_eq_true, beq_iff_eq, decide_eq_true_eq, and_assoc]

theorem majorityWalk_walks {s : State} (wf : Inv s) {set : Nat} (live : (mjsOf s set).reg.getLsbD 63 = true) :
    let m := mjsOf s set
    let cells := (List.range m.cells).map fun c => m.base + 64 * c
    ∃ t, exec (.majorityWalk set) s = .next t ∧ (mjsOf t set).lag = m.lag.filter (fun c => !canRepair s set c) ∧
      (mjsOf t set).walk = !cells.all (canRepair s set) ∧ (∀ c ∈ cells, canRepair s set c = true → ∀ i ∈ m.takes, ∀ j ∈ m.answers s c,
        tagKey (rowAt s (copyPa s m c j)) ≤ tagKey (rowAt t (copyPa s m c i))) ∧
      ∀ i < m.n, (mjsOf t set).mem i = if m.mem i = 2 ∧ cells.all (canRepair s set) = true ∧ m.need ≤ m.up.length then 0 else m.mem i := by
  intro m cells
  let all := cells.all (canRepair s set)
  let u := cells.foldl (repairCell set) s
  let g : MjSet → MjSet := fun n => { n with walk := !all, lag := m.lag.filter fun c => !canRepair s set c }
  obtain ⟨copied, new⟩ := foldl_repairCell wf set cells
  have here : mjsOf (modMjs u set g) set = g m := by rw [mjsOf_modMjs_same, copied.mjsOf_eq]
  obtain ⟨mem, lag, walk, states⟩ := foldl_setMem set (walkBack m all) (modMjs u set g) fun i hi => by
    rw [here]
    exact (mem_walkBack.mp hi).1
  refine ⟨(walkBack m all).foldl (fun s i => setMem s set i 0) (modMjs u set g), ?_, lag.trans (by rw [here]), walk.trans (by rw [here]),
    fun c hc can i hi j hj => ?_, fun i hi => ?_⟩
  · show execMajorityWalk set s = _
    unfold execMajorityWalk
    refine congrArg Host.Outcome.next ((if_neg (by rw [live]; exact Bool.false_ne_true)).trans ?_)
    have lags : (mjsOf u set).lag = m.lag := by rw [copied.mjsOf_eq]
    show (walkBack m all).foldl (fun s i => setMem s set i 0) (modMjs u set fun n =>
      { n with walk := !all, lag := n.lag.filter fun c => !canRepair s set c }) = _
    have same : (modMjs u set fun n => { n with walk := !all, lag := n.lag.filter fun c => !canRepair s set c }) = modMjs u set g := by
      unfold modMjs
      simp only [g, lags]
    rw [same]
  · rw [rowAt_congr mem]
    exact new c hc can i hi j hj
  · rw [states, here]
    simp only [mem_walkBack, hi, true_and]
    rfl

/-- The states that firmware and a stack's failure give a member. -/
theorem setMem_spec (s : State) {set i st : Nat} (small : st < 4) (member : i < (mjsOf s set).n) :
    (mjsOf (setMem s set i st) set).mem i = st ∧ (setMem s set i st).mem = s.mem ∧
      ∀ j, j ≠ i → (mjsOf (setMem s set i st) set).mem j = (mjsOf s set).mem j := by
  have here : mjsOf (setMem s set i st) set = putMem i st (mjsOf s set) := mjsOf_modMjs_same s set _
  refine ⟨?_, rfl, fun j apart => ?_⟩ <;> rw [here, putMem_mem small member]
  · exact if_pos rfl
  · exact if_neg apart

theorem majorityMemberDown_downs {s : State} {set i : Nat} (member : i < (mjsOf s set).n) :
    exec (.majorityMemberDown set i) s = .next (setMem s set i 1) :=
  congrArg Host.Outcome.next (if_neg (Nat.not_le.mpr member))

theorem mhsWrite_rejoins {s : State} {set i : Nat} (member : i < (mjsOf s set).n) :
    exec (.mhsWrite set i 2) s = .next (modMjs (setMem s set i 2) set fun m => { m with walk := true }) := by
  show execMhsWrite set i 2 s = _
  unfold execMhsWrite
  refine congrArg Host.Outcome.next ((if_neg ?_).trans (if_pos rfl))
  rintro (h | h | ⟨-, h⟩)
  · exact Nat.not_le.mpr member h
  · exact absurd h (by decide)
  · exact h rfl

/-- A state that may not be written is not. -/
theorem mhsWrite_discards {s : State} {set i : Nat} {v : BitVec 2} (h : v = 3 ∨ ((mjsOf s set).mem i = 1 ∧ v ≠ 2)) :
    exec (.mhsWrite set i v) s = .next s :=
  congrArg Host.Outcome.next (if_pos (Or.inr h))

end Sys2Proof.MemoryProofs

/-!
Loads (R259 to R273, R415, R422, R423): the templates that a load gives a core, its answer, and the sets that it allocates.
-/
namespace Sys2Proof.MemoryProofs
open Sys2Proof.Machine Sys2Proof.Laws Sys2Proof.VectorProofs

/-! ### Templates (R273, R415) -/

theorem mem_tput {α : Type} (t : Tbl α) (n : Nat) (v : α) : (n, v) ∈ tput t n v := by
  induction t with
  | nil => exact List.mem_singleton_self _
  | cons x t ih =>
    unfold tput
    split
    · exact List.mem_cons_self
    · split
      · exact List.mem_cons_self
      · exact List.mem_cons_of_mem _ ih

/-- The entries of sections follow one another in number. -/
theorem sectEntries_keys {s : State} {ctx : Nat} {l : List Sect} {n : Nat} {r : Tbl TEntry} (h : sectEntries s ctx n l = some r) :
    r.length = l.length ∧ ∀ e ∈ r, e.1 < n + l.length := by
  induction l generalizing n r with
  | nil =>
    cases h
    exact ⟨rfl, fun e he => absurd he List.not_mem_nil⟩
  | cons x l ih =>
    unfold sectEntries at h
    split at h
    · rename_i e u _ rest
      cases h
      obtain ⟨length, keys⟩ := ih rest
      refine ⟨congrArg (· + 1) length, fun y hy => ?_⟩
      obtain rfl | hy := List.mem_cons.mp hy
      · exact Nat.lt_add_of_pos_right (Nat.succ_pos _)
      · have := keys y hy
        rw [List.length_cons]
        omega
    · cases h

/-- The whole template of a core: its argument rows stand at entry 255 and at no other. -/
theorem fullTable_argRows {s : State} {l : Load} {c : Nat} {t u : Tbl TEntry} (h : fullTable s l c t = some u) :
    (t ++ u).length ≤ 256 ∧ ((t ++ u).find? (fun e => e.1 == 255)).map (·.2) = some (argEntry c l.argVa l.argReg) := by
  unfold fullTable at h
  split at h
  · cases h
  · rename_i fits
    obtain ⟨keys, room⟩ := not_or.mp fits
    obtain ⟨r, entries, rfl⟩ := Option.map_eq_some_iff.mp h
    obtain ⟨length, sects⟩ := sectEntries_keys entries
    have first : t.find? (fun e => e.1 == 255) = none := List.find?_eq_none.mpr fun e he at_ => by
      have named : e.1 ∈ t.map (·.1) := List.mem_map.mpr ⟨e, he, rfl⟩
      rw [Decidable.not_not.mp keys, List.mem_range] at named
      have := of_decide_eq_true at_
      omega
    have second : r.find? (fun e => e.1 == 255) = none := List.find?_eq_none.mpr fun e he at_ => by
      have := sects e he
      have := of_decide_eq_true at_
      omega
    refine ⟨?_, ?_⟩
    · simp only [List.length_append, List.length_singleton, length]
      omega
    · rw [List.find?_append, first, Option.none_or, List.find?_append, second, Option.none_or]
      rfl

/-- The templates of a stand, from a position on. -/
theorem tget_fullTables {s : State} {l : Load} {i : Image} {cores : List Nat} {k : Nat} {tabs : Tbl (Tbl TEntry)}
    (h : fullTables s l i k cores = some tabs) {n c : Nat} (at_ : cores[n]? = some c) :
    ∃ u, fullTable s l c (tmplOf i (k + n)) = some u ∧ tget [] tabs (k + n) = tmplOf i (k + n) ++ u := by
  induction cores generalizing k n tabs with
  | nil => simp at at_
  | cons x cores ih =>
    unfold fullTables at h
    split at h
    · rename_i t u first rest
      cases h
      cases n with
      | zero =>
        cases at_
        exact ⟨t, first, if_pos rfl⟩
      | succ n =>
        obtain ⟨v, table, place⟩ := ih rest (n := n) at_
        rw [show k + 1 + n = k + (n + 1) by omega] at table place
        refine ⟨v, table, Eq.trans (if_neg ?_) place⟩
        show ¬k = k + (n + 1)
        omega
    · cases h

/-! ### The image load (R259, R260, R265) -/

theorem loadImage_refused {s : State} {l : Load} (h : (ctxOf s l.ctx).state ≠ 1 ∨ (!signOk s l) = true ∨
    (l.image.prods.any fun p => recN p.2 34 1 ≠ 0) = true ∨
    (l.image.tmpl.any fun t => decide ((standCores l.stand.toNat l.roots).length ≤ t.1)) = true) : loadImage s l = none := by
  unfold loadImage
  exact if_pos h

/-- An image that has been loaded: its identifier, and the templates that it left. -/
theorem loadImage_loads {s t : State} {l : Load} {n : Nat} (h : loadImage s l = some (n, t)) :
    n = l.ctx * 2 ^ 60 + nextSeq (ctxOf s l.ctx) ∧
      ∃ i, (nextSeq (ctxOf s l.ctx), i) ∈ (ctxOf t l.ctx).imgs ∧ ∀ k c : Nat, (standCores l.stand.toNat l.roots)[k]? = some c →
        (tmplOf i k).length ≤ 256 ∧ ((tmplOf i k).find? (fun e => e.1 == 255)).map (·.2) = some (argEntry c l.argVa l.argReg) := by
  unfold loadImage at h
  dsimp only at h
  split at h
  · cases h
  · split at h
    · cases h
    · rename_i t0 i0 _
      split at h
      · cases h
      · rename_i tabs tables
        generalize (if l.atoms.isEmpty then t0 else setAtoms t0 l.atoms) = t1 at h
        split at h
        · cases h
        · cases h
          refine ⟨rfl, { i0 with tmpl := tabs }, ?_, fun k c at_ => ?_⟩
          · rw [ctxOf_modCtx_same]
            exact mem_tput ..
          · obtain ⟨u, table, place⟩ := tget_fullTables tables at_
            rw [Nat.zero_add] at table place
            rw [show tmplOf { i0 with tmpl := tabs } k = tmplOf i0 k ++ u from place]
            exact fullTable_argRows table

/-- The number of a load stays below the identifiers of the next context while those before it do. -/
theorem nextSeq_lt {x : Ctx} (small : ∀ i ∈ x.imgs, i.1 + 1 < 2 ^ 60) : nextSeq x < 2 ^ 60 := by
  have fold : ∀ (l : List (Nat × Image)) (a : Nat), a + 1 < 2 ^ 60 → (∀ i ∈ l, i.1 + 1 < 2 ^ 60) →
      l.foldl (fun a i => max a i.1) a + 1 < 2 ^ 60 := by
    intro l
    induction l with
    | nil => exact fun a h _ => h
    | cons y l ih =>
      intro a h rest
      have here := rest y List.mem_cons_self
      exact ih (max a y.1) (by omega) fun i hi => rest i (List.mem_cons_of_mem y hi)
  exact fold x.imgs 0 (by decide) small

end Sys2Proof.MemoryProofs

namespace Sys2Proof.MemoryProofs
open Sys2Proof.Machine Sys2Proof.Laws Sys2Proof.VectorProofs

/-! ### Fresh cells (R423) -/

/-- The tag bytes of the row at an address are zero. -/
def TagFree (s : State) (p : Nat) : Prop := ∀ q, 48 ≤ q → q < 64 → cellAt s.mem (canon (rowBase p) + q) = 0

theorem tag_of_tagFree {s : State} {p : Nat} (h : TagFree s p) : (rowAt s p).extractLsb' 384 128 = 0 := by
  apply BitVec.eq_of_getLsbD_eq
  intro i hi
  rw [BitVec.getLsbD_extractLsb', rowAt, BitVec.getLsbD_ofNat, testBit_readN, h _ (by omega) (by omega)]
  simp

/-- What fresh tags leave: the sets, the cores, and every tag that was zero. -/
structure Freshened (s t : State) : Prop where
  wf : Inv t
  pkg : t.pkg = s.pkg
  mjs : t.hub.mjs = s.hub.mjs
  cores : t.cores = s.cores
  tags : ∀ p, TagFree s p → TagFree t p

theorem freshened_refl {s : State} (wf : Inv s) : Freshened s s := ⟨wf, rfl, rfl, rfl, fun _ => id⟩

theorem Freshened.trans {s t u : State} (a : Freshened s t) (b : Freshened t u) : Freshened s u :=
  ⟨b.wf, b.pkg.trans a.pkg, b.mjs.trans a.mjs, b.cores.trans a.cores, fun p h => b.tags p (a.tags p h)⟩

theorem Freshened.mjsOf_eq {s t : State} (h : Freshened s t) (i : Nat) : mjsOf t i = mjsOf s i := by
  rw [mjsOf, h.mjs, ← mjsOf]

theorem Freshened.copyPa_eq {s t : State} (h : Freshened s t) (m : MjSet) (cell k : Nat) : copyPa t m cell k = copyPa s m cell k := by
  rw [copyPa, h.pkg, ← copyPa]

/-- A write outside SRAM notes nothing in a core. -/
theorem noteBytes_cores {s : State} {pa : Nat} (space : paSpace pa ≠ 0) (mask : Nat) : (noteBytes s pa mask).cores = s.cores := by
  have apart : noteBytes s pa mask = dropRels (markDirty s pa) pa mask := if_neg fun h => space h.1
  rw [apart, dropRels_cores, markDirty_cores]

theorem writePart_mjs (s : State) (pa : Nat) (r : Row) (m : BitVec 64) : (writePart s pa r m).hub.mjs = s.hub.mjs ∧
    (writePart s pa r m).pkg = s.pkg := by
  have met : ∃ p f h, (if partMask pa m.toNat then meetError s pa else s) = { s with poison := p, flaws := f, health := h } := by
    split
    · exact meetError_form s pa
    · exact ⟨s.poison, s.flaws, s.health, rfl⟩
  obtain ⟨p, f, h, met⟩ := met
  obtain ⟨g, rels, c, noted⟩ := noteBytes_form (if partMask pa m.toNat then meetError s pa else s) pa m.toNat
  simp only [writePart, noted]
  rw [met]
  exact ⟨rfl, rfl⟩

theorem tagMask_bit {q : Nat} (hq : q < 64) : (BitVec.ofNat 64 (0xFFFF * 2 ^ 48)).getLsbD q = decide (48 ≤ q) := by
  rw [BitVec.getLsbD_ofNat, Nat.testBit_mul_two_pow, show (0xFFFF : Nat) = 2 ^ 16 - 1 from rfl, Nat.testBit_two_pow_sub_one,
    decide_eq_true hq, Bool.true_and]
  by_cases high : 48 ≤ q
  · rw [decide_eq_true high, decide_eq_true (by omega : q - 48 < 16)]
    rfl
  · rw [decide_eq_false high]
    rfl

/-- A byte after a tag was made fresh is zero, or as before. -/
theorem cellAt_freshTag {s : State} (wf : Inv s) (pa x : Nat) : cellAt (freshTag s pa).mem x =
    if canon (rowBase pa) + 48 ≤ x ∧ x < canon (rowBase pa) + 64 then 0 else cellAt s.mem x := by
  rw [freshTag, cellAt_writePart wf]
  by_cases tag : canon (rowBase pa) + 48 ≤ x ∧ x < canon (rowBase pa) + 64
  · rw [if_pos tag, if_pos ⟨by omega, by omega, by rw [tagMask_bit (by omega)]; exact decide_eq_true (by omega)⟩]
    simp
  · rw [if_neg tag, if_neg]
    rintro ⟨low, high, bit⟩
    rw [tagMask_bit (by omega), decide_eq_true_eq] at bit
    omega

theorem freshTag_freshened {s : State} (wf : Inv s) {pa : Nat} (space : paSpace pa ≠ 0) :
    Freshened s (freshTag s pa) ∧ TagFree (freshTag s pa) pa := by
  obtain ⟨mjs, pkg⟩ := writePart_mjs s pa 0 (BitVec.ofNat 64 (0xFFFF * 2 ^ 48))
  refine ⟨⟨memWf_writePart wf _ _ _, pkg, mjs, ?_, fun p free q low high => ?_⟩, fun q low high => ?_⟩
  · rw [freshTag, writePart_cores, noteBytes_cores space]
    exact meetIf_cores ..
  · rw [cellAt_freshTag wf]
    split
    · rfl
    · exact free q low high
  · rw [cellAt_freshTag wf]
    exact if_pos ⟨by omega, by omega⟩

/-- A copy of a cell lies in HBM. -/
theorem paSpace_copyPa (s : State) (m : MjSet) {cell : Nat} (small : cell < 2 ^ 36) (k : Nat) : paSpace (copyPa s m cell k) ≠ 0 := by
  have stack : m.stack k < 16 := Nat.mod_lt _ (by decide)
  simp only [paSpace, fld, copyPa]
  omega

/-- The copies of one cell made fresh, on the members listed. -/
theorem foldl_freshCopies {s : State} (wf : Inv s) (i : Nat) {cell : Nat} (small : cell < 2 ^ 36) (l : List Nat) :
    let t := l.foldl (fun s k => freshTag s (copyPa s (mjsOf s i) cell k)) s
    Freshened s t ∧ ∀ k ∈ l, TagFree t (copyPa s (mjsOf s i) cell k) := by
  induction l generalizing s with
  | nil => exact ⟨freshened_refl wf, fun k hk => absurd hk List.not_mem_nil⟩
  | cons x l ih =>
    obtain ⟨first, free⟩ := freshTag_freshened wf (paSpace_copyPa s (mjsOf s i) small x)
    obtain ⟨rest, others⟩ := ih first.wf
    rw [List.foldl_cons]
    refine ⟨first.trans rest, fun k hk => ?_⟩
    obtain rfl | hk := List.mem_cons.mp hk
    · exact rest.tags _ free
    · have later := others k hk
      rw [first.mjsOf_eq i, first.copyPa_eq] at later
      exact later

/-- The cells of a set made fresh, one after another. -/
theorem foldl_freshCells {s : State} (wf : Inv s) (i n off : Nat) (l : List Nat) (small : ∀ c ∈ l, off + 64 * c < 2 ^ 36) :
    let t := l.foldl (fun s c => (List.range n).foldl (fun s k => freshTag s (copyPa s (mjsOf s i) (off + 64 * c) k)) s) s
    Freshened s t ∧ ∀ c ∈ l, ∀ k < n, TagFree t (copyPa s (mjsOf s i) (off + 64 * c) k) := by
  induction l generalizing s with
  | nil => exact ⟨freshened_refl wf, fun c hc => absurd hc List.not_mem_nil⟩
  | cons x l ih =>
    obtain ⟨first, free⟩ := foldl_freshCopies wf i (small x List.mem_cons_self) (List.range n)
    obtain ⟨rest, others⟩ := ih first.wf fun c hc => small c (List.mem_cons_of_mem x hc)
    rw [List.foldl_cons]
    refine ⟨first.trans rest, fun c hc k hk => ?_⟩
    obtain rfl | hc := List.mem_cons.mp hc
    · exact rest.tags _ (free k (List.mem_range.mpr hk))
    · have later := others c hc k hk
      rw [first.mjsOf_eq i, first.copyPa_eq] at later
      exact later

/-! ### Sets (R422, R423) -/

theorem joinN_lt (w : Nat) (l : List Nat) : joinN w l < 2 ^ (w * l.length) := by
  induction l with
  | nil => exact Nat.one_pos
  | cons x l ih =>
    rw [joinN, List.length_cons, Nat.mul_succ, Nat.add_comm (w * l.length), Nat.pow_add]
    calc x % 2 ^ w + 2 ^ w * joinN w l < 2 ^ w + 2 ^ w * joinN w l := Nat.add_lt_add_right (Nat.mod_lt _ (Nat.two_pow_pos w)) _
      _ = 2 ^ w * (joinN w l + 1) := by rw [Nat.mul_succ, Nat.add_comm]
      _ ≤ 2 ^ w * 2 ^ (w * l.length) := Nat.mul_le_mul_left _ ih

/-- A set as a request makes it. -/
def freshSet (r : MajReq) : MjSet := { reg := setReg r, base := r.off, cells := r.cells, lag := [], walk := false }

/-- What a request that fits has: three or five members on stacks of their own, its cells within a stack. -/
theorem majFits_spec {s : State} {r : MajReq} (h : majFits s r = true) :
    (r.n = 3 ∨ r.n = 5) ∧ r.places.length = r.n ∧ r.off + 64 * r.cells ≤ 48 * 2 ^ 30 ∧ ∀ k ∈ r.places, k < 16 := by
  unfold majFits at h
  simp only [Bool.and_eq_true, Bool.or_eq_true, beq_iff_eq, decide_eq_true_eq, List.all_eq_true] at h
  obtain ⟨⟨⟨⟨⟨⟨⟨⟨⟨members, places⟩, -⟩, -⟩, inside⟩, homes⟩, -⟩, -⟩, -⟩, -⟩ := h
  exact ⟨members, places, inside, fun k hk => (homes k hk).1⟩

/-- The register of a new set: live, with its members up on the stacks of the request. -/
theorem freshSet_spec {r : MajReq} (members : r.n = 3 ∨ r.n = 5) (places : r.places.length = r.n) (homes : ∀ k ∈ r.places, k < 16) :
    (freshSet r).reg.getLsbD 63 = true ∧ (freshSet r).n = r.n ∧
      ∀ k < r.n, (freshSet r).mem k = 0 ∧ r.places[k]? = some ((freshSet r).stack k) := by
  have join : joinN 4 r.places < 2 ^ 20 := Nat.lt_of_lt_of_le (joinN_lt 4 r.places) (Nat.pow_le_pow_right (by decide) (by omega))
  have field : ∀ lo w, lo + w ≤ 64 → wf (freshSet r).reg lo w = fld (2 ^ 63 + r.n * 2 ^ 32 + joinN 4 r.places) lo w := fun lo w h => fld_ofNat _ h
  refine ⟨?_, ?_, fun k hk => ⟨?_, ?_⟩⟩
  · show (BitVec.ofNat 64 (2 ^ 63 + r.n * 2 ^ 32 + joinN 4 r.places)).getLsbD 63 = true
    rw [BitVec.getLsbD_ofNat, Nat.testBit_eq_decide_div_mod_eq, decide_eq_true (by decide : 63 < 64), Bool.true_and]
    exact decide_eq_true (by omega)
  · rw [MjSet.n, field _ _ (by decide), fld]
    omega
  · rw [MjSet.mem, field _ _ (by omega), fld]
    have small : k < 5 := by omega
    interval_cases k <;> omega
  · have at_ : r.places[k]? = some (r.places.getD k 0) := by
      rw [List.getD_eq_getElem _ _ (by omega), List.getElem?_eq_getElem (by omega)]
    have stack : r.places.getD k 0 < 16 := homes _ (List.mem_of_getElem? at_)
    have low : fld (joinN 4 r.places) (k * 4) 4 = r.places.getD k 0 := by
      rw [fld_joinN]
      exact Nat.mod_eq_of_lt stack
    rw [at_, MjSet.stack, field _ _ (by omega), ← low, Nat.mul_comm k 4]
    refine congrArg some ?_
    simp only [fld]
    have small : k < 5 := by omega
    interval_cases k <;> omega

theorem allocSet_none {s : State} {r : MajReq} (h : (∀ i < 32, (mjsOf s i).reg.getLsbD 63 = true) ∨ majFits s r = false) :
    allocSet s r = none := by
  unfold allocSet
  obtain full | unfit := h
  · have none_ : freeSet s = none := List.find?_eq_none.mpr fun i hi free => by
      rw [full i (List.mem_range.mp hi)] at free
      exact Bool.false_ne_true free
    rw [none_]
  · split
    · rfl
    · exact if_pos (by rw [unfit]; rfl)

theorem allocSet_takes {s : State} (wf : Inv s) {r : MajReq} {i : Nat} (hi : i < 32) (free : (mjsOf s i).reg.getLsbD 63 = false)
    (lowest : ∀ j < i, (mjsOf s j).reg.getLsbD 63 = true) (fits : majFits s r = true) :
    ∃ t, allocSet s r = some (i, t) ∧ mjsOf t i = freshSet r ∧ t.cores = s.cores ∧ (∀ j, j ≠ i → mjsOf t j = mjsOf s j) ∧
      ∀ k < r.n, ∀ c < r.cells, (rowAt t (copyPa t (mjsOf t i) (r.off + 64 * c) k)).extractLsb' 384 128 = 0 := by
  obtain ⟨-, -, inside, -⟩ := majFits_spec fits
  have found : freeSet s = some i := List.find?_range_eq_some.mpr ⟨by rw [free]; rfl, List.mem_range.mpr hi, fun j hj => by rw [lowest j hj]; rfl⟩
  let u := modMjs s i fun _ => freshSet r
  have here : mjsOf u i = freshSet r := mjsOf_modMjs_same s i _
  obtain ⟨fresh, tags⟩ := foldl_freshCells (s := u) wf i r.n r.off (List.range r.cells) fun c hc => by
    have := List.mem_range.mp hc
    omega
  refine ⟨_, ?_, ?_, fresh.cores, fun j hj => ?_, fun k hk c hc => ?_⟩
  · unfold allocSet
    rw [found]
    exact if_neg (by rw [fits]; exact Bool.false_ne_true)
  · exact (fresh.mjsOf_eq i).trans here
  · exact (fresh.mjsOf_eq j).trans (mjsOf_modMjs_ne s _ hj)
  · have free := tag_of_tagFree (tags c (List.mem_range.mpr hc) k hk)
    rw [← fresh.copyPa_eq, ← fresh.mjsOf_eq i] at free
    exact free

end Sys2Proof.MemoryProofs

/-! ### Migration slots (R419, R420) -/
namespace Sys2Proof.MemoryProofs
open Sys2Proof.Machine Sys2Proof.Laws Sys2Proof.VectorProofs

@[simp] theorem migOf_modMig_same (s : State) (m : Nat) (g : Mig → Mig) : migOf (modMig s m g) m = g (migOf s m) :=
  tget_tput_same ..

theorem migOf_congr {s t : State} (h : t.hub.migs = s.hub.migs) (m : Nat) : migOf t m = migOf s m := by
  rw [migOf, h, ← migOf]

@[simp] theorem modMig_cores (s : State) (m : Nat) (g : Mig → Mig) : (modMig s m g).cores = s.cores := rfl

theorem setSmig_keeps (s : State) (ctx reg : Nat) (b : Bool) :
    (setSmig s ctx reg b).hub = s.hub ∧ (setSmig s ctx reg b).cores = s.cores := by
  unfold setSmig
  dsimp only
  split <;> exact ⟨rfl, rfl⟩

theorem setRes_migs (s : State) (ctx reg res : Nat) : (setRes s ctx reg res).hub.migs = s.hub.migs := by
  unfold setRes
  dsimp only
  split <;> rfl

theorem resident_migs (s : State) (ctx reg : Nat) : (resident s ctx reg).hub.migs = s.hub.migs := setRes_migs s ctx reg 0

theorem logPkg_migs (s : State) (e : ErrRec) : (logPkg s e).hub.migs = s.hub.migs := by
  unfold logPkg
  dsimp only
  split <;> rfl

theorem dropGoals_migs (s : State) (x : Mig) : (dropGoals s x).hub.migs = s.hub.migs := by
  unfold dropGoals
  dsimp only
  split <;> rfl

/-- With no request held, letting them go leaves the cores and of the slots all but an empty list. -/
theorem releaseHost_none {s : State} {m : Nat} (free : (migOf s m).held = []) (moved : Bool) :
    releaseHost s m moved = { modMig s m (fun x => { x with held := [] }) with replies := [] } := by
  unfold releaseHost
  dsimp only
  rw [free]
  rfl

theorem releaseHost_cores {s : State} {m : Nat} (free : (migOf s m).held = []) (moved : Bool) : (releaseHost s m moved).cores = s.cores := by
  rw [releaseHost_none free]
  rfl

theorem releaseHost_slot {s : State} {m : Nat} (free : (migOf s m).held = []) (moved : Bool) :
    migOf (releaseHost s m moved) m = { migOf s m with held := [] } := by
  rw [releaseHost_none free]
  show migOf (modMig s m fun x => { x with held := [] }) m = _
  rw [migOf_modMig_same]

/-! ### Start, reset and bitmap -/

/-- A start that has no cause to be discarded finds its context enabled and its region mapped. -/
theorem migCause_zero {s : State} {m : Nat} {x : Mig} (h : migCause s m x = 0) :
    ∃ e, regionEntry (ctxOf s x.mctx.toNat) x.mreg.toNat = some e := by
  unfold migCause at h
  dsimp only at h
  split at h
  · exact absurd h (by decide)
  · split at h
    · exact absurd h (by decide)
    · exact ⟨_, by assumption⟩

/-- A slot that starts on the region of an entry. -/
def startedMig (e : TEntry) (x : Mig) : Mig :=
  { x with mst := 1, mpass := 0, dirty := [], held := [], src0 := wf e.w1 0 56, src1 := wf e.w2 0 56, size := 2 ^ e.lsz, pair := e.shp }

theorem migrationStart_starts {s : State} {m : Nat} (slot : m < 4) (free : (migOf s m).mst = 0) (sound : migCause s m (migOf s m) = 0) :
    ∃ t e, exec (.migrationStart m) s = .next t ∧ regionEntry (ctxOf s (migOf s m).mctx.toNat) (migOf s m).mreg.toNat = some e ∧
      (migOf t m).mst = 1 ∧ (migOf t m).mpass = 0 ∧ (migOf t m).dirty = [] ∧ (migOf t m).src0 = (e.w1.extractLsb' 0 56).toNat ∧
      (migOf t m).size = 2 ^ e.lsz ∧ t.cores = s.cores := by
  obtain ⟨e, entry⟩ := migCause_zero sound
  have run : exec (.migrationStart m) s = .next (setSmig (modMig s m (startedMig e)) (migOf s m).mctx.toNat (migOf s m).mreg.toNat true) := by
    show execMigrationStart m s = _
    unfold execMigrationStart
    dsimp only
    rw [if_neg (by omega), if_neg (by rw [sound]; decide), entry]
    rfl
  obtain ⟨hub, cores⟩ := setSmig_keeps (modMig s m (startedMig e)) (migOf s m).mctx.toNat (migOf s m).mreg.toNat true
  have slotAfter := (migOf_congr (congrArg Hub.migs hub) m).trans (migOf_modMig_same ..)
  refine ⟨_, e, run, entry, ?_⟩
  rw [slotAfter, extract_toNat]
  exact ⟨rfl, rfl, rfl, rfl, rfl, cores⟩

theorem migrationStart_discards {s : State} {m : Nat} (slot : m < 4) (free : (migOf s m).mst = 0) (bad : migCause s m (migOf s m) ≠ 0) :
    ∃ t, exec (.migrationStart m) s = .next t ∧ t.hub.migs = s.hub.migs ∧ t.cores = s.cores := by
  have run : ∃ e, exec (.migrationStart m) s = .next (logPkg s e) := by
    refine ⟨{ kind := 23, trap := 0, sev := 0, out := 0, core := 0, side := false, aux := m + 16 * migCause s m (migOf s m), node := 0
              addr := 0 }, ?_⟩
    show execMigrationStart m s = _
    unfold execMigrationStart
    dsimp only
    rw [if_neg (by omega), if_pos bad]
  obtain ⟨e, run⟩ := run
  exact ⟨_, run, logPkg_migs s e, (logPkg_spec s e).2.1⟩

theorem migrationReset_resets {s : State} {m : Nat} (ended : (migOf s m).mst = 5 ∨ (migOf s m).mst = 6) :
    ∃ t, exec (.migrationReset m) s = .next t ∧ (migOf t m).mst = 0 ∧ t.mem = s.mem ∧ t.cores = s.cores := by
  refine ⟨modMig s m (fun x => { x with mst := 0, mpass := 0, dirty := [] }), ?_, by rw [migOf_modMig_same], rfl, rfl⟩
  show execMigrationReset m s = _
  rw [execMigrationReset, if_pos ended]

/-- The offset in an aligned range of 32 MiB, whatever the view of its base. -/
theorem offIn_aligned {base o : Nat} (aligned : base % 2 ^ 25 = 0) (small : o < 2 ^ 25) : offIn base (2 ^ 25) (base + o) = some o := by
  have high : (base + o) / 2 ^ 45 = base / 2 ^ 45 := by omega
  have space : paSpace (base + o) = paSpace base := by
    simp only [paSpace, fld]
    omega
  have view : fld (base + o) 45 1 = fld base 45 1 := by rw [fld, high, ← fld]
  have same : (if paSpace base = 1 ∧ fld base 45 1 = 1 then ilv (base + o) else canon (base + o)) = base + o := by
    split
    · rename_i wide
      exact if_neg fun h => by
        rw [view, wide.2] at h
        exact absurd h.2 (by decide)
    · rename_i narrow
      exact if_neg fun h => narrow ⟨space ▸ h.1, view ▸ h.2⟩
  unfold offIn
  dsimp only
  rw [same, if_pos ⟨by omega, by omega⟩, Nat.add_sub_cancel_left]

/-- The host reads the dirty bit of a row. -/
theorem hostByte_bitmap {s : State} {m : Nat} (slot : m < 4) (low : 1 ≤ (migOf s m).mst) (high : (migOf s m).mst ≤ 4)
    (aligned : s.hub.marea.toNat % 2 ^ 25 = 0) {r : Nat} (small : r < 2 ^ 26) :
    (hostByte s (s.hub.marea.toNat + 2 ^ 23 * m + r / 8)).getLsbD (r % 8) = (migOf s m).dirty.contains r := by
  have inside : offIn s.hub.marea.toNat (2 ^ 25) (s.hub.marea.toNat + 2 ^ 23 * m + r / 8) = some (2 ^ 23 * m + r / 8) := by
    rw [Nat.add_assoc]
    exact offIn_aligned aligned (by omega)
  have slot_ : (2 ^ 23 * m + r / 8) / 2 ^ 23 = m := by omega
  have row : ∀ i, 8 * ((2 ^ 23 * m + r / 8) % 2 ^ 23) + i = 8 * (r / 8) + i := fun i => by omega
  have byte : bitmapByte s (s.hub.marea.toNat + 2 ^ 23 * m + r / 8) =
      some (BitVec.ofNat 8 (joinN 1 ((List.range 8).map fun i => ((migOf s m).dirty.contains (8 * (r / 8) + i)).toNat))) := by
    unfold bitmapByte
    simp only [inside, slot_, row]
    exact if_neg fun h => by
      rw [← migOf] at h
      omega
  have bit : r % 8 < 8 := Nat.mod_lt _ (by decide)
  rw [hostByte, byte, Option.getD_some, BitVec.getLsbD_ofNat, decide_eq_true bit, Bool.true_and, Nat.testBit_eq_decide_div_mod_eq]
  have joined := fld_joinN 1 ((List.range 8).map fun i => ((migOf s m).dirty.contains (8 * (r / 8) + i)).toNat) (r % 8)
  rw [fld, Nat.mul_one, Nat.pow_one, List.getD_eq_getElem?_getD, List.getElem?_map, List.getElem?_range bit, Option.map_some,
    Option.getD_some, Nat.div_add_mod] at joined
  rw [joined]
  cases (migOf s m).dirty.contains r <;> rfl

end Sys2Proof.MemoryProofs

/-! ### Phases of a migration (R420) -/
namespace Sys2Proof.MemoryProofs
open Sys2Proof.Machine Sys2Proof.Laws Sys2Proof.VectorProofs

/-- What the copy of rows leaves of the slots: all but their dirty rows. -/
def OnlyDirties (s t : State) : Prop := ∀ m, ∃ d, migOf t m = { migOf s m with dirty := d }

theorem onlyDirties_of_migs {s t : State} (h : t.hub.migs = s.hub.migs) : OnlyDirties s t :=
  fun m => ⟨(migOf s m).dirty, migOf_congr h m⟩

theorem OnlyDirties.trans {s t u : State} (a : OnlyDirties s t) (b : OnlyDirties t u) : OnlyDirties s u := fun m => by
  obtain ⟨d, first⟩ := a m
  obtain ⟨e, second⟩ := b m
  exact ⟨e, by rw [second, first]⟩

/-- The dirty rows of a slot after a write. -/
def dirtied (pa : Nat) (x : Mig) : Mig :=
  if 1 ≤ x.mst ∧ x.mst ≤ 4 then { x with dirty := x.dirty ++ (x.rowsAt pa).filter (fun r => !x.dirty.contains r) } else x

theorem dirtied_only (pa : Nat) (x : Mig) : ∃ d, dirtied pa x = { x with dirty := d } := by
  unfold dirtied
  split
  · exact ⟨_, rfl⟩
  · exact ⟨x.dirty, rfl⟩

theorem markDirty_onlyDirties (s : State) (pa : Nat) : OnlyDirties s (markDirty s pa) := fun m => by
  unfold markDirty
  dsimp only
  split
  · exact ⟨(migOf s m).dirty, rfl⟩
  · have after := tget_map Mig.idle (fun _ => dirtied pa) (g := fun x => if 1 ≤ x.2.mst ∧ x.2.mst ≤ 4 then
        (x.1, { x.2 with dirty := x.2.dirty ++ (x.2.rowsAt pa).filter (fun r => !x.2.dirty.contains r) }) else x)
      (fun x => by unfold dirtied; dsimp only; split <;> rfl) (fun _ => rfl) s.hub.migs m
    obtain ⟨d, form⟩ := dirtied_only pa (migOf s m)
    exact ⟨d, after.trans form⟩

theorem noteBytes_migs (s : State) (pa mask : Nat) : (noteBytes s pa mask).hub.migs = (markDirty s pa).hub.migs := by
  have rels : ∀ u : State, (dropRels u pa mask).hub = u.hub := fun u => by
    unfold dropRels
    dsimp only
    split <;> rfl
  have disc : ∀ u : State, (dropDisc u pa).hub = u.hub := fun u => by
    unfold dropDisc
    dsimp only
    split <;> rfl
  rw [noteBytes, disc, rels]

theorem writeRow_onlyDirties (s : State) (pa : Nat) (r : Row) : OnlyDirties s (writeRow s pa r) := by
  have all : (writeRow s pa r).hub.migs = (markDirty s pa).hub.migs := by
    simp only [writeRow, noteBytes_migs]
  exact (markDirty_onlyDirties s pa).trans (onlyDirties_of_migs all)

theorem poisonRow_migs (s : State) (pa : Nat) : (poisonRow s pa).hub.migs = s.hub.migs := by
  unfold poisonRow
  split <;> rfl

theorem dropTag_migs (s : State) (pa : Nat) : (dropTag s pa).hub.migs = s.hub.migs := by
  obtain ⟨l, form⟩ := dropTag_form s pa
  rw [form]

theorem sendRow_migs (s : State) (m src dst : Nat) : (sendRow s m src dst).hub.migs = s.hub.migs := by
  unfold sendRow composePkt
  exact pump_keeps (fun s => s.hub.migs) (fun _ _ => rfl) _

theorem moveRow_onlyDirties (m : Nat) (x : Mig) (s : State) (r : Nat) : OnlyDirties s (moveRow m x s r) := by
  unfold moveRow
  dsimp only
  split
  · exact onlyDirties_of_migs (sendRow_migs ..)
  · have copied := (onlyDirties_of_migs (dropTag_migs s (x.rowPair r).2)).trans
      (writeRow_onlyDirties (dropTag s (x.rowPair r).2) (x.rowPair r).2 (rowAt s (x.rowPair r).1))
    split
    · exact copied.trans (onlyDirties_of_migs (poisonRow_migs ..))
    · exact copied

theorem foldl_moveRow (m : Nat) (x : Mig) (l : List Nat) (s : State) : OnlyDirties s (l.foldl (moveRow m x) s) := by
  induction l generalizing s with
  | nil => exact onlyDirties_of_migs rfl
  | cons r l ih => exact (moveRow_onlyDirties m x s r).trans (ih _)

theorem recopy_slot (s : State) (m : Nat) (l : List Nat) : ∃ d, migOf (recopy s m l) m = { migOf s m with dirty := d } := by
  obtain ⟨d, form⟩ := foldl_moveRow m (migOf s m) l (modMig s m (fun x => { x with dirty := x.dirty.filter (fun r => !l.contains r) })) m
  exact ⟨d, by rw [recopy, form, migOf_modMig_same]⟩

/-! ### The tables of a context -/

/-- A core of a context has its table changed. -/
theorem archOf_ctxCores_mine {s t : State} {ctx : Nat} {g : Arch → Arch} (cores : t.cores = ctxCores s ctx g)
    {c : Nat} (mine : (archOf t c).task.map (·.ctx) = some ctx) : archOf t c = g (archOf s c) ∧ (archOf s c).task.map (·.ctx) = some ctx := by
  have arch := archOf_ctxCores cores c
  by_cases before : (archOf s c).task.map (·.ctx) = some ctx
  · rw [if_pos before] at arch
    exact ⟨arch, before⟩
  · rw [if_neg before] at arch
    rw [arch] at mine
    exact absurd mine before

/-- Every entry of a region in the tables of a context's cores has a property. -/
def RegionHas (t : State) (ctx reg : Nat) (p : TEntry → Prop) : Prop :=
  ∀ c, (archOf t c).task.map (·.ctx) = some ctx → ∀ z ∈ (archOf t c).tab, z.2.reg = reg → p z.2

theorem RegionHas.congr {s t : State} {ctx reg : Nat} {p : TEntry → Prop} (h : RegionHas s ctx reg p) (cores : t.cores = s.cores) :
    RegionHas t ctx reg p := fun c mine z hz at_ => by
  rw [archOf_congr cores] at mine hz
  exact h c mine z hz at_

theorem setRes_cores (s : State) (ctx reg res : Nat) : (setRes s ctx reg res).cores = ctxCores s ctx (putRes reg res) := by
  obtain ⟨u, -, cores, -, form⟩ := setRes_form s ctx reg res
  rw [form]
  split <;> exact cores

/-- After a change of residency each entry of the region has it. -/
theorem setRes_has (s : State) (ctx reg : Nat) {res : Nat} (small : res < 4) :
    RegionHas (setRes s ctx reg res) ctx reg (·.res = res) := fun c mine z hz at_ => by
  obtain ⟨arch, -⟩ := archOf_ctxCores_mine (setRes_cores s ctx reg res) mine
  rw [arch] at hz
  exact res_putRes small hz at_

/-- A change of residency keeps the first base of every entry. -/
theorem setRes_keeps_base {s : State} {ctx reg : Nat} {b : Word} (h : RegionHas s ctx reg (·.w1 = b)) (res : Nat) :
    RegionHas (setRes s ctx reg res) ctx reg (·.w1 = b) := fun c mine z hz at_ => by
  obtain ⟨arch, before⟩ := archOf_ctxCores_mine (setRes_cores s ctx reg res) mine
  rw [arch] at hz
  obtain ⟨y, hy, rfl⟩ := List.mem_map.mp hz
  split at at_
  · rename_i same
    rw [if_pos same]
    exact h c before y hy same
  · rename_i apart
    exact absurd at_ apart

/-- Making a region resident changes of a table no more than its residency. -/
theorem resident_has {s : State} {ctx reg : Nat} {p : TEntry → Prop} (h : RegionHas (setRes s ctx reg 0) ctx reg p) :
    RegionHas (resident s ctx reg) ctx reg p := fun c mine z hz at_ => by
  obtain ⟨arch, before⟩ := archOf_ctxCores_mine (s := setRes s ctx reg 0) (t := resident s ctx reg) (ctx := ctx)
    (g := fun a => { a with preq := a.preq.filter (· != .page reg) }) rfl mine
  rw [arch] at hz
  exact h c before z hz at_

/-- A table in which a region has new bases; one that is none stays. -/
def putBases (reg : Nat) (b0 b1 : Option Nat) (a : Arch) : Arch :=
  { a with tab := a.tab.map fun x => (x.1, if x.2.reg = reg then
      { x.2 with w1 := (b0.map (BitVec.ofNat 64)).getD x.2.w1
                 w2 := if x.2.shp then (b1.map (BitVec.ofNat 64)).getD x.2.w2 else x.2.w2 } else x.2) }

theorem setBases_keeps (s : State) (ctx reg : Nat) (b0 b1 : Option Nat) :
    (setBases s ctx reg b0 b1).cores = ctxCores s ctx (putBases reg b0 b1) ∧ (setBases s ctx reg b0 b1).hub.migs = s.hub.migs := by
  unfold setBases
  dsimp only
  split
  · cases b0 <;> cases b1 <;> exact ⟨rfl, rfl⟩
  · exact ⟨rfl, rfl⟩

theorem setBases_has (s : State) (ctx reg b : Nat) (b1 : Option Nat) :
    RegionHas (setBases s ctx reg (some b) b1) ctx reg (·.w1 = BitVec.ofNat 64 b) := fun c mine z hz at_ => by
  obtain ⟨arch, -⟩ := archOf_ctxCores_mine (setBases_keeps s ctx reg (some b) b1).1 mine
  rw [arch] at hz
  obtain ⟨y, -, rfl⟩ := List.mem_map.mp hz
  dsimp only at at_ ⊢
  split at at_
  · rename_i same
    rw [if_pos same]
    rfl
  · rename_i apart
    exact absurd at_ apart

/-! ### The phases -/

theorem runs_of_state {x : Mig} (low : 1 ≤ x.mst) (high : x.mst ≤ 4) : x.runs = true := by
  rw [Mig.runs, decide_eq_true low, decide_eq_true high]
  rfl

/-- The first phase copies every row and makes the region moving. -/
theorem migrationPhase_one {s : State} {m : Nat} (live : (ctxOf s (migOf s m).mctx.toNat).state = 1) (at_ : (migOf s m).mst = 1) :
    ∃ t, exec (.migrationPhase m false) s = .next t ∧ (migOf t m).mst = 2 ∧
      RegionHas t (migOf s m).mctx.toNat (migOf s m).mreg.toNat (·.res = 2) := by
  have run : ∃ u, exec (.migrationPhase m false) s =
      .next (setRes (modMig u m (fun x => { x with mst := 2 })) (migOf s m).mctx.toNat (migOf s m).mreg.toNat 2) := by
    refine ⟨(List.range ((migOf s m).size / 64 * (if (migOf s m).pair then 2 else 1))).foldl (moveRow m (migOf s m)) s, ?_⟩
    show execMigrationPhase m false s = _
    unfold execMigrationPhase
    simp only [runs_of_state (x := migOf s m) (by omega) (by omega), live, at_]
    rfl
  obtain ⟨u, run⟩ := run
  exact ⟨_, run, by rw [migOf_congr (setRes_migs ..), migOf_modMig_same], setRes_has _ _ _ (by decide)⟩

theorem migrationPhase_two {s : State} {m : Nat} (live : (ctxOf s (migOf s m).mctx.toNat).state = 1) (at_ : (migOf s m).mst = 2) :
    ∃ t, exec (.migrationPhase m false) s = .next t ∧ (migOf t m).mst = 3 ∧ t.mem = s.mem := by
  refine ⟨modMig s m (fun x => { x with mst := 3 }), ?_, by rw [migOf_modMig_same], rfl⟩
  show execMigrationPhase m false s = _
  unfold execMigrationPhase
  simp only [runs_of_state (x := migOf s m) (by omega) (by omega), live, at_]
  rfl

/-- A pass over the dirty rows; the last one when none was dirty, or after eight. -/
theorem migrationPhase_three {s : State} {m : Nat} (live : (ctxOf s (migOf s m).mctx.toNat).state = 1) (at_ : (migOf s m).mst = 3) :
    ∃ t, exec (.migrationPhase m false) s = .next t ∧ (migOf t m).mpass = (migOf s m).mpass + 1 ∧
      (migOf t m).mst = if (migOf s m).dirty = [] ∨ 8 ≤ (migOf s m).mpass + 1 then 4 else 3 := by
  let u := modMig (recopy s m (migOf s m).dirty) m fun x => { x with mpass := x.mpass + 1 }
  obtain ⟨d, copied⟩ := recopy_slot s m (migOf s m).dirty
  have slot : migOf u m = { migOf s m with dirty := d, mpass := (migOf s m).mpass + 1 } := by rw [migOf_modMig_same, copied]
  have run : exec (.migrationPhase m false) s =
      .next (if (migOf s m).dirty.isEmpty ∨ 8 ≤ (migOf s m).mpass + 1 then modMig u m (fun x => { x with mst := 4 }) else u) := by
    show execMigrationPhase m false s = _
    unfold execMigrationPhase
    simp only [runs_of_state (x := migOf s m) (by omega) (by omega), live, at_]
    rfl
  simp only [List.isEmpty_iff] at run
  by_cases last : (migOf s m).dirty = [] ∨ 8 ≤ (migOf s m).mpass + 1
  · rw [if_pos last] at run ⊢
    exact ⟨_, run, by rw [migOf_modMig_same, slot], by rw [migOf_modMig_same]⟩
  · rw [if_neg last] at run ⊢
    exact ⟨_, run, by rw [slot], by rw [slot]; exact at_⟩

theorem migrationPhase_four {s : State} {m : Nat} (live : (ctxOf s (migOf s m).mctx.toNat).state = 1) (at_ : (migOf s m).mst = 4) :
    exec (.migrationPhase m false) s = .next (switchMig s m) := by
  show execMigrationPhase m false s = _
  unfold execMigrationPhase
  simp only [runs_of_state (x := migOf s m) (by omega) (by omega), live, at_]
  rfl

theorem switchMig_waits {s : State} {m : Nat} (held : sourceBusy s (migOf s m) = true ∨ rowsOut s m = true) : switchMig s m = s := by
  unfold switchMig
  exact if_pos held

/-- The region of a slot after the switch: with its new bases, and resident. -/
def switched (s : State) (m : Nat) : State :=
  let x := migOf s m
  let ctx := x.mctx.toNat
  let reg := x.mreg.toNat
  let s1 := recopy s m x.dirty
  resident (setSmig (setBases s1 ctx reg (some x.mds0.toNat) (if x.pair then some x.mds1.toNat else none)) ctx reg false) ctx reg

theorem switched_slot (s : State) (m : Nat) : ∃ d, migOf (switched s m) m = { migOf s m with dirty := d } := by
  obtain ⟨d, copied⟩ := recopy_slot s m (migOf s m).dirty
  refine ⟨d, ?_⟩
  rw [← copied]
  exact migOf_congr ((resident_migs ..).trans ((congrArg Hub.migs (setSmig_keeps ..).1).trans (setBases_keeps ..).2)) m

theorem switched_resident (s : State) (m : Nat) :
    RegionHas (switched s m) (migOf s m).mctx.toNat (migOf s m).mreg.toNat (·.res = 0) := resident_has (setRes_has _ _ _ (by decide))

theorem switched_bases (s : State) (m : Nat) :
    RegionHas (switched s m) (migOf s m).mctx.toNat (migOf s m).mreg.toNat (·.w1 = (migOf s m).mds0.setWidth 64) := by
  rw [← BitVec.ofNat_toNat]
  exact resident_has (setRes_keeps_base ((setBases_has _ _ _ (migOf s m).mds0.toNat _).congr (setSmig_keeps ..).2) 0)

theorem moveSya_keeps (s : State) (x : Mig) : (moveSya s x).hub.migs = s.hub.migs ∧ (moveSya s x).cores = s.cores := by
  rw [moveSya]
  exact ⟨rfl, rfl⟩

/-- The switch, before the host requests that it held go. -/
def switchDone (s : State) (m : Nat) : State := modMig (moveSya (switched s m) (migOf s m)) m fun x => { x with mst := 5 }

theorem switchDone_slot (s : State) (m : Nat) : ∃ d, migOf (switchDone s m) m = { migOf s m with dirty := d, mst := 5 } := by
  obtain ⟨d, slot⟩ := switched_slot s m
  refine ⟨d, ?_⟩
  rw [switchDone, migOf_modMig_same, migOf_congr (moveSya_keeps ..).1, slot]

theorem switchDone_cores (s : State) (m : Nat) : (switchDone s m).cores = (switched s m).cores := by
  rw [switchDone, modMig_cores, (moveSya_keeps ..).2]

/-- A switch from a source at rest, whose last rows stay in the package, lets the held requests go and gives no more than the
source's ranges back. -/
theorem switchMig_done {s : State} {m : Nat} (rest : sourceBusy s (migOf s m) = false) (home : rowsOut s m = false)
    (near : (migOf s m).dirty = [] ∨ ∀ a ∈ (migOf s m).spans, paPkg a = s.pkg.toNat) :
    (switchMig s m).hub = (releaseHost (switchDone s m) m true).hub ∧
      (switchMig s m).cores = (releaseHost (switchDone s m) m true).cores := by
  have still : ¬(sourceBusy s (migOf s m) = true ∨ rowsOut s m = true) := by
    rw [rest, home]
    simp
  have last : ¬((!(migOf s m).dirty.isEmpty) = true ∧ (migOf s m).spans.any (fun a => paPkg a != s.pkg.toNat) = true) := by
    rintro ⟨dirty, far⟩
    obtain none_ | near := near
    · rw [none_] at dirty
      exact Bool.false_ne_true dirty
    · obtain ⟨a, ha, out⟩ := List.any_eq_true.mp far
      exact (bne_iff_ne.mp out) (near a ha)
  unfold switchMig switchDone switched
  dsimp only
  rw [if_neg still, if_neg last]
  generalize releaseHost _ _ _ = r
  split <;> exact ⟨rfl, rfl⟩

/-- The switch of a slot whose source is at rest, and that holds no host request. -/
theorem switchMig_switches {s : State} {m : Nat} (rest : sourceBusy s (migOf s m) = false) (home : rowsOut s m = false)
    (near : (migOf s m).dirty = [] ∨ ∀ a ∈ (migOf s m).spans, paPkg a = s.pkg.toNat) (free : (migOf s m).held = []) :
    (migOf (switchMig s m) m).mst = 5 ∧ (switchMig s m).cores = (switched s m).cores := by
  obtain ⟨d, slot⟩ := switchDone_slot s m
  obtain ⟨hub, cores⟩ := switchMig_done rest home near
  have none_ : (migOf (switchDone s m) m).held = [] := by
    rw [slot]
    exact free
  refine ⟨?_, cores.trans ((releaseHost_cores none_ true).trans (switchDone_cores s m))⟩
  rw [migOf_congr (congrArg Hub.migs hub), releaseHost_slot none_ true, slot]

/-- A migration that fails is in state 6, with no dirty row. -/
theorem migrationPhase_fails {s : State} {m : Nat} (low : 1 ≤ (migOf s m).mst) (high : (migOf s m).mst ≤ 4) (free : (migOf s m).held = []) :
    ∃ t, exec (.migrationPhase m true) s = .next t ∧ (migOf t m).mst = 6 ∧ (migOf t m).dirty = [] := by
  have run : exec (.migrationPhase m true) s = .next (failMig s m) := by
    show execMigrationPhase m true s = _
    unfold execMigrationPhase
    simp only [runs_of_state low high]
    rfl
  refine ⟨_, run, ?_⟩
  unfold failMig
  dsimp only
  generalize back : setSmig (modMig (dropGoals s (migOf s m)) m fun x => { x with mst := 6, dirty := [] }) (migOf s m).mctx.toNat
    (migOf s m).mreg.toNat false = u
  have slot : migOf u m = { migOf s m with mst := 6, dirty := [] } := by
    rw [← back, migOf_congr (congrArg Hub.migs (setSmig_keeps ..).1), migOf_modMig_same, migOf_congr (dropGoals_migs ..)]
  have slotAfter : migOf (if (migOf s m).mst = 1 then u else resident u (migOf s m).mctx.toNat (migOf s m).mreg.toNat) m =
      { migOf s m with mst := 6, dirty := [] } := by
    split
    · exact slot
    · rw [migOf_congr (resident_migs ..), slot]
  rw [releaseHost_slot (by rw [slotAfter]; exact free), slotAfter]
  exact ⟨rfl, rfl⟩

end Sys2Proof.MemoryProofs

namespace Sys2Proof.MemoryProofs
open Sys2Proof.Machine Sys2Proof.Laws Sys2Proof.VectorProofs

/-! ### Loads of images (R265) -/

theorem hostMemoryAccess_loads {s t : State} {a : HostAccess} {l : Load} {n : Nat} (region : a.region = .image l) (live : s.can.norec = false)
    (loaded : loadImage s l = some (n, t)) : exec (.hostMemoryAccess a) s = .next { t with replies := [.loaded (some n)] } := by
  show execHostMemoryAccess a s = _
  unfold execHostMemoryAccess
  simp only [region, live, loaded, Bool.false_eq_true, if_false]

/-- A load that gives nothing says so, and changes nothing. -/
theorem hostMemoryAccess_fails {s : State} {a : HostAccess} {l : Load} (region : a.region = .image l) (none_ : loadImage s l = none) :
    exec (.hostMemoryAccess a) s = .next { s with replies := [.loaded none] } := by
  show execHostMemoryAccess a s = _
  unfold execHostMemoryAccess
  simp only [region, none_, ite_self]

theorem loadImage_unsigned {s : State} {l : Load} (bare : l.signed = false) (asked : (recN (ctxOf s l.ctx).record 1 1).testBit 1 = true) :
    loadImage s l = none :=
  loadImage_refused (Or.inr (Or.inl (by rw [signOk, bare, asked]; rfl)))

theorem loadImage_badSignature {s : State} {l : Load} (signed : l.signed = true) (bad : l.verifies = false) : loadImage s l = none :=
  loadImage_refused (Or.inr (Or.inl (by rw [signOk, signed, bad]; rfl)))

theorem loadImage_drawn {s : State} {l : Load} (h : ∃ p ∈ l.image.prods, recN p.2 34 1 ≠ 0) : loadImage s l = none := by
  obtain ⟨p, hp, drawn⟩ := h
  exact loadImage_refused (Or.inr (Or.inr (Or.inl (List.any_eq_true.mpr ⟨p, hp, decide_eq_true drawn⟩))))

/-- Settles O53: majority operations, repairs and walks by what a copy of the newest row leaves on a member, loads and sets by what
they allocate, migrations by what the copy of rows leaves of their slot. -/
theorem majorityAndMigration : Obligations.MajorityAndMigration := by
  unfold Obligations.MajorityAndMigration
  intro s wf
  refine ⟨?operation, ?sets, ?loads, ?allocation, ?migration⟩
  case operation =>
    intro k load o pa own i j set cell m stage fresh act roll done slot first second can
    exact majorityCompletion_ends wf stage fresh act roll done slot first second can
  case sets =>
    intro set m
    refine ⟨majorityRepair_idle, fun cell => majorityRepair_repairs wf, majorityWalk_walks wf, fun i member => ?_⟩
    obtain ⟨down, same, others⟩ := setMem_spec s (set := set) (i := i) (st := 1) (by decide) member
    obtain ⟨back, memory, -⟩ := setMem_spec s (set := set) (i := i) (st := 2) (by decide) member
    have walks : mjsOf (modMjs (setMem s set i 2) set fun m => { m with walk := true }) set =
        { mjsOf (setMem s set i 2) set with walk := true } := mjsOf_modMjs_same ..
    refine ⟨⟨_, majorityMemberDown_downs member, down, same, fun j apart _ => others j apart⟩, ⟨_, mhsWrite_rejoins member, ?_, ?_, memory⟩,
      mhsWrite_discards (Or.inl rfl), fun lost => mhsWrite_discards (Or.inr ⟨lost, by decide⟩)⟩
    · rw [walks]
      exact back
    · rw [walks]
  case loads =>
    intro a l region
    refine ⟨hostMemoryAccess_fails region, loadImage_unsigned, loadImage_badSignature, loadImage_drawn, fun n t live loaded => ?_⟩
    obtain ⟨number, image⟩ := loadImage_loads loaded
    refine ⟨hostMemoryAccess_loads region live loaded, fun small => ?_, image⟩
    have low := nextSeq_lt small
    omega
  case allocation =>
    intro r valid
    refine ⟨fun full => allocSet_none (Or.inl full), fun unfit => allocSet_none (Or.inr unfit), fun i hi free lowest fits => ?_⟩
    obtain ⟨t, takes, here, cores, others, tags⟩ := allocSet_takes wf hi free lowest fits
    obtain ⟨members, places, -, homes⟩ := majFits_spec fits
    obtain ⟨live, count, up⟩ := freshSet_spec members places homes
    refine ⟨t, takes, ?_⟩
    intro m
    have here : m = freshSet r := here
    refine ⟨?_, ?_, ?_, ?_, ?_, tags, cores, others⟩ <;> rw [here]
    · exact live
    · exact count
    · rfl
    · rfl
    · exact up
  case migration =>
    intro m x ctx reg
    refine ⟨migrationStart_starts, migrationStart_discards, fun slot low high aligned r small => hostByte_bitmap slot low high aligned small,
      migrationReset_resets, ?_⟩
    intro res
    refine ⟨fun live => ⟨migrationPhase_one live, migrationPhase_two live, migrationPhase_three live, fun at_ held => ?_,
      fun at_ rest home near free => ?_⟩, migrationPhase_fails⟩
    · rw [migrationPhase_four live at_, switchMig_waits held]
    · obtain ⟨ended, cores⟩ := switchMig_switches rest home near free
      exact ⟨_, migrationPhase_four live at_, ended, (switched_resident s m).congr cores, (switched_bases s m).congr cores⟩

end Sys2Proof.MemoryProofs
